-- ==== Sys2Proof/Word.lean ====
section
/-!
DEFINITION. The native word of 72 bits, bytes, and the list form of every sparse store (00_scope.md R12).
-/
namespace Sys2Proof

/-- The native word: eight 9-bit symbols (R12). -/
abbrev Word := BitVec 72

/-- One byte of image or port data. -/
abbrev Byte := BitVec 8

/-- A thread's full name, THID: [11:9] grove, [8:4] core, [3:0] thread (R186). -/
abbrev Thid := BitVec 12

/-- A sparse store: keys strictly rising, no entry equal to the default of its reader. -/
abbrev SMap (α : Type) := List (Nat × α)

end Sys2Proof
end

