-- ==== Sys2Proof/Syntax.lean ====
section
/-!
DEFINITION. The commands of the block: one constructor for each of the 274 rows of spec/opcode_table.json.
An instruction of the Fjolas ISA names the thread that executes it; its operand fields are those of the parcels the thread
fetches (R189 to R202). A port engine instruction names the port and the engine. A register write names its source.
-/
namespace Sys2Proof

/-- Where a register access comes from: the management port, the TAP, a thread, or the image parser of step 7 (R435). -/
inductive Src where
  | mgmt
  | tap
  | thread (th : Thid)
  | image
  deriving DecidableEq, Repr

/-- The Llynon paths on which the model keeps words in flight (R21, R410); each path is first in, first out. -/
inductive LinkPath where
  /-- Words and end indications of a port's INE engine to the trunk. -/
  | ingress (p : Fin 128)
  /-- Descriptors from the dispatcher to a grove. -/
  | descriptor (g : Fin 8)
  /-- Freed descriptor entries from a grove to the dispatcher. -/
  | credit (g : Fin 8)
  /-- Packet window requests of a grove to the trunk. -/
  | window (g : Fin 8)
  /-- Signals of port engines to a grove (R140). -/
  | signal (g : Fin 8)
  /-- Timer pin actions to a port island (R381). -/
  | pin (k : Fin 4)
  /-- Lookup requests of a grove to the lookup engine (R332). -/
  | lookup (g : Fin 8)
  /-- Records of an island to the recorder. -/
  | record (i : Fin 18)
  /-- Completion queue entries of a grove to its lane of the collector (R59). -/
  | completion (g : Fin 8)
  /-- Words of the copy that a port has been offered (R136). -/
  | copy (p : Fin 128)
  deriving DecidableEq, Repr

/-- What a start finds outside the block: the two flash slots, and the outcomes of the tests of steps 2, 3 and 5. -/
structure StartEnv where
  slot0    : List Byte
  slot1    : List Byte
  /-- The link that failed its test: sending and receiving island (R411). -/
  linkFail : Option (Fin 18 × Fin 18)
  /-- The island whose SRAM failed its test. -/
  sramFail : Option (Fin 18)
  /-- In octal mode, the data strobe showed no edge for 1 µs (R431). -/
  noStrobe : Bool
  /-- The retention store holds an uncorrectable error (R424). -/
  storeUe  : Bool
  deriving DecidableEq, Repr

/-- The register a SHARE_WRITE names (R73). -/
inductive ShareReg where
  | share (c : Fin 32) (t : Fin 16)
  | gpool
  deriving DecidableEq, Repr

/-- A field register of the gate-list window (R104). -/
inductive GateReg where
  | state | ivl | cycle | len | base0 | base1 | base2
  deriving DecidableEq, Repr

/-- The engine registers that ENGINE_STATE_WRITE names (R139). -/
inductive EngineReg where
  | shr | x | cnt
  deriving DecidableEq, Repr

/-- The synchronising registers with a management address (R168). -/
inductive SyncReg where
  | slottab (k : Fin 4)
  | bankmap (k : Fin 8)
  | thcfg (t : Fin 16)
  deriving DecidableEq, Repr

/-- The threads a halt or resume request names: DBGCMD of one thread, or DBGHALT of a core (R275). -/
inductive HaltTarget where
  | dbgcmd (th : Thid)
  | dbghalt (g : Fin 8) (c : Fin 32) (threads : BitVec 16)
  deriving DecidableEq, Repr

/-- A lookup command slot: the host's, or slot s of grove g (R336). -/
inductive LkSlot where
  | host
  | grove (g : Fin 8) (s : Fin 16)
  deriving DecidableEq, Repr

/-- A region register of the recorder (R375). -/
inductive RegionReg where
  | recbase0 | recbase1 | recsize | recid
  deriving DecidableEq, Repr

/-- A time mirror register of a grove's timer unit (R389). -/
inductive MirrorReg where
  | tmrate | tmadj0 | tmadj1 | tmctl
  deriving DecidableEq, Repr

/-- The levels that the controller of a memory port drives: MEM_READY of the port, and MEM_RETAINED of the block (R464). -/
structure MemLevels where
  ready    : Bool
  retained : Bool
  deriving DecidableEq, Repr

/-- The commands: one constructor per row of the table, in its order, but that a few rows and those without operands stand
last (the compiler of Lean builds values of the first 244 constructors with operands only). -/
inductive Instr where
  -- start and reset
  | startcmdGo (src : Src) (d : BitVec 32)
  | startReset (env : StartEnv)
  | memoryStep (nvm : List Byte) (retained : Bool) (fail : Option (Fin 12))
  | initrptWrite (src : Src) (g : Fin 8) (d : BitVec 32)
  | llynonWordDelivery (path : LinkPath)
  -- trunk
  | ingressWord (p : Fin 128)
  | frameEnd (p : Fin 128)
  | groveCreditReturn (g : Fin 8)
  | descriptorArrival (g : Fin 8)
  | completionAccept (g : Fin 8)
  | holtTimeout (d : Fin 64)
  | dabandon (src : Src) (g : Fin 8) (d : BitVec 32)
  | dommapWrite (src : Src) (p : Fin 128) (h : Fin 2) (d : BitVec 32)
  | bufcfgWrite (src : Src) (p : Fin 128) (d : BitVec 32)
  | shareWrite (src : Src) (g : Fin 8) (r : ShareReg) (d : BitVec 32)
  | infpeakRead (src : Src)
  -- egress, ports and rings
  | copySelect (p : Fin 128)
  | pauseLimitExpiry (p : Fin 128) (c : Fin 8)
  | gateEntryChange (p : Fin 128)
  | glswap (src : Src) (d : BitVec 32)
  | gateBankSwap (p : Fin 128)
  | gateListWrite (src : Src) (r : GateReg) (d : BitVec 32)
  | etsqRead (src : Src) (p : Fin 128)
  | portEnableWrite (src : Src) (p : Fin 128) (d : BitVec 32)
  | portUp (p : Fin 128)
  | drainFlush (p : Fin 128)
  | drainComplete (p : Fin 128)
  | expressFrame (p : Fin 128) (words : List Word)
  | duplicateDiscardRequest (r : Fin 16)
  | ringcfgWrite (src : Src) (r : Fin 16) (d : BitVec 32)
  -- port engines
  | rxWord (p : Fin 128) (w : Word)
  | pinEdge (p : Fin 128) (pin : Fin 4) (level : Bool)
  | txTransferSlot (p : Fin 128)
  | engineMov (p : Fin 128) (e : Fin 4)
  | shin (p : Fin 128) (e : Fin 4)
  | shout (p : Fin 128) (e : Fin 4)
  | wait (p : Fin 128) (e : Fin 4)
  | jmp (p : Fin 128) (e : Fin 4)
  | setp (p : Fin 128) (e : Fin 4)
  | enginePush (p : Fin 128) (e : Fin 4)
  | pull (p : Fin 128) (e : Fin 4)
  | cnt (p : Fin 128) (e : Fin 4)
  | mark (p : Fin 128) (e : Fin 4)
  | engineReservedFetch (p : Fin 128) (e : Fin 4)
  | engineSignal (g : Fin 8)
  | engineHalt (src : Src) (p : Fin 128) (e : Fin 4) (d : BitVec 32)
  | engineFlush (src : Src) (p : Fin 128) (e : Fin 4) (d : BitVec 32)
  | engineResume (src : Src) (p : Fin 128) (e : Fin 4) (d : BitVec 32)
  | ectlWrite (src : Src) (p : Fin 128) (e : Fin 4) (d : BitVec 32)
  | estatWrite (src : Src) (p : Fin 128) (e : Fin 4) (d : BitVec 32)
  | engineStateWrite (src : Src) (p : Fin 128) (e : Fin 4) (r : EngineReg) (d : Word)
  | pullqWrite (src : Src) (p : Fin 128) (e : Fin 4) (d : Word)
  | pushqRead (src : Src) (p : Fin 128) (e : Fin 4)
  | engineStoreWrite (src : Src) (p : Fin 128) (w : Fin 48) (d : BitVec 32)
  | pecfgWrite (src : Src) (p : Fin 128) (d : BitVec 32)
  -- the core and its barrel
  | slotTableActivate (g : Fin 8) (c : Fin 32)
  | syncRegisterWrite (src : Src) (g : Fin 8) (c : Fin 32) (r : SyncReg) (d : BitVec 32)
  | coresyncCore (src : Src) (g : Fin 8) (c : Fin 32)
  | coresyncThreads (src : Src) (g : Fin 8) (c : Fin 32) (threads : BitVec 16)
  | loadDataReturn (th : Thid)
  | storeBufferDrain (th : Thid) (other : Option Thid)
  | storeAcceptance (th : Thid)
  | storeTimeout (th : Thid)
  | loadTimeout (th : Thid)
  | packetWindowRequest (g : Fin 8)
  | thcmdStart (src : Src) (th : Thid)
  | thcmdPark (src : Src) (th : Thid)
  | thpcWrite (src : Src) (th : Thid) (d : BitVec 32)
  | serviceModeRequest (src : Src) (g : Fin 8) (c : Fin 32)
  | serviceModeEntry (g : Fin 8) (c : Fin 32)
  | maintenanceModeRequest (src : Src) (g : Fin 8) (c : Fin 32)
  | maintenanceModeEntry (g : Fin 8) (c : Fin 32)
  | istoreCommit (src : Src) (g : Fin 8) (d : BitVec 32)
  | istoreRead (src : Src) (g : Fin 8)
  -- Fjolas instructions
  | nop (th : Thid)
  | add (th : Thid)
  | adc (th : Thid)
  | sub (th : Thid)
  | sbc (th : Thid)
  | and (th : Thid)
  | or (th : Thid)
  | xor (th : Thid)
  | andn (th : Thid)
  | shl (th : Thid)
  | shr (th : Thid)
  | sar (th : Thid)
  | rol (th : Thid)
  | cmp (th : Thid)
  | tst (th : Thid)
  | mul (th : Thid)
  | mov (th : Thid)
  | neg (th : Thid)
  | addi (th : Thid)
  | adci (th : Thid)
  | subi (th : Thid)
  | sbci (th : Thid)
  | andi (th : Thid)
  | ori (th : Thid)
  | xori (th : Thid)
  | andni (th : Thid)
  | shli (th : Thid)
  | shri (th : Thid)
  | sari (th : Thid)
  | roli (th : Thid)
  | cmpi (th : Thid)
  | tsti (th : Thid)
  | movi (th : Thid)
  | insi (th : Thid)
  | ext (th : Thid)
  | ins (th : Thid)
  | clz (th : Thid)
  | sel (th : Thid)
  | pset (th : Thid)
  | ldw (th : Thid)
  | stw (th : Thid)
  | ld (th : Thid)
  | st (th : Thid)
  | stm (th : Thid)
  | lds (th : Thid)
  | sts (th : Thid)
  | push (th : Thid)
  | pop (th : Thid)
  | bmov (th : Thid)
  | macx (th : Thid)
  | macxI (th : Thid)
  | macxC (th : Thid)
  | aadd (th : Thid)
  | aswp (th : Thid)
  | b (th : Thid)
  | call (th : Thid)
  | jr (th : Thid)
  | callr (th : Thid)
  | ret (th : Thid)
  | retx (th : Thid)
  | mfc (th : Thid)
  | mtc (th : Thid)
  | sync (th : Thid)
  | trap (th : Thid)
  | done (th : Thid)
  | donePark (th : Thid)
  | lock (th : Thid)
  | tryl (th : Thid)
  | unlk (th : Thid)
  | waite (th : Thid)
  | sige (th : Thid)
  | clre (th : Thid)
  | send (th : Thid)
  | recv (th : Thid)
  | parse (th : Thid)
  | crcf (th : Thid)
  | csum (th : Thid)
  | tscf (th : Thid)
  | helperResult (th : Thid)
  | lkup (th : Thid)
  | lookupRequest (g : Fin 8)
  | lookupResult (th : Thid)
  | extensionOp (th : Thid)
  | extensionProbe (th : Thid)
  | extensionRequestTransfer (g : Fin 8)
  | extensionAnswer (g : Fin 8) (xathid : Thid) (err : Bool) (data : Word)
  | extensionTimeout (th : Thid)
  -- exceptions and debug
  | exceptionEntry (th : Thid)
  | iraiseLines (src : Src) (th : Thid) (lines : BitVec 8)
  | iraiseNmi (src : Src) (th : Thid)
  | nmiraise (src : Src) (g : Fin 8) (d : BitVec 32)
  | ipendClear (src : Src) (th : Thid) (lines : BitVec 8)
  | recovWrite (src : Src) (g : Fin 8) (d : BitVec 32)
  | hrelPark (src : Src) (g : Fin 8) (thid : Thid)
  | hrelRetry (src : Src) (g : Fin 8) (thid : Thid)
  | wdkick (src : Src) (g : Fin 8)
  | watchdogExpiry (g : Fin 8)
  | debugHalt (src : Src) (target : HaltTarget)
  | debugHaltTaken (th : Thid)
  | debugResume (src : Src) (target : HaltTarget)
  | debugStep (src : Src) (th : Thid) (stepirq : Bool)
  | abortch (src : Src) (th : Thid)
  | dbgselWrite (src : Src) (g : Fin 8) (c : Fin 32) (d : BitVec 32)
  | dbgdataCommit (src : Src) (g : Fin 8) (c : Fin 32) (d : BitVec 32)
  -- grove memory, locks and channels
  | bownWrite (src : Src) (g : Fin 8) (bp : Fin 34) (d : BitVec 32)
  | handoverComplete (g : Fin 8) (bp : Fin 34)
  | bankClearComplete (g : Fin 8) (bank : Fin 32)
  | bankWindowRead (src : Src) (g : Fin 8)
  | bankWindowCommit (src : Src) (g : Fin 8) (d : BitVec 32)
  | dmaGo (src : Src) (g : Fin 8) (k : Fin 8) (d : BitVec 32)
  | dmaStop (src : Src) (g : Fin 8) (k : Fin 8) (d : BitVec 32)
  | dmaWord (g : Fin 8) (k : Fin 8)
  | lkrelLock (src : Src) (g : Fin 8) (arg : BitVec 12)
  | lkrelThread (src : Src) (g : Fin 8) (thid : Thid)
  | evset (src : Src) (g : Fin 8) (h : Fin 2) (mask : BitVec 32)
  | evclr (src : Src) (g : Fin 8) (h : Fin 2) (mask : BitVec 32)
  | chflush (src : Src) (g : Fin 8) (ch : Fin 64)
  -- lookup commands
  | insert (slot : LkSlot)
  | replace (slot : LkSlot)
  | delete (slot : LkSlot)
  | read (slot : LkSlot)
  | testins (slot : LkSlot)
  | scan (slot : LkSlot)
  | flush (slot : LkSlot)
  | frebuild (slot : LkSlot)
  | badop (slot : LkSlot)
  | lookupCommandComplete (slot : LkSlot)
  | lkcmdStatusRead (th : Thid) (i : Fin 16)
  | tableEnable (src : Src) (t : Fin 64) (d : BitVec 32)
  | tableDisable (src : Src) (t : Fin 64) (d : BitVec 32)
  | tblcfgWrite (src : Src) (t : Fin 64) (d : BitVec 32)
  -- time, recorder and timers
  | trateWrite (src : Src) (d : BitVec 32)
  | timeStep (src : Src) (d : BitVec 32)
  | timeSlew (src : Src) (d : BitVec 32)
  | tsetCommit (src : Src) (d : BitVec 32)
  | timeMirrorWrite (th : Thid) (r : MirrorReg) (d : BitVec 32)
  | ppsEdge (rising : Bool)
  | recordStage (i : Fin 18)
  | recorderRegionWrite (src : Src) (r : RegionReg) (d : BitVec 32)
  | recrdWrite (src : Src) (d : BitVec 32)
  | timerArm (src : Src) (g : Fin 8) (k : Fin 32)
  | timerDisarm (src : Src) (g : Fin 8) (k : Fin 32)
  | timerCompareCommit (src : Src) (g : Fin 8) (k : Fin 32) (d : BitVec 32)
  | timerCountCommit (src : Src) (g : Fin 8) (k : Fin 32) (d : BitVec 32)
  | timerMatch (g : Fin 8) (k : Fin 32)
  | timerPinAction (k : Fin 4)
  | timerCapture (g : Fin 8) (k : Fin 32)
  | tcapRead (src : Src) (g : Fin 8) (k : Fin 32)
  | goutWrite (src : Src) (g : Fin 8) (d : BitVec 32)
  -- memory ports
  | memoryRequestTransfer (p : Fin 12) (write : Bool)
  | memoryReadResponse (p : Fin 12) (tag : Fin 512) (err : Bool) (data : Word)
  | memoryWriteAck (p : Fin 12) (tag : Fin 512) (err : Bool)
  | memoryTimeout (p : Fin 12)
  | memReadyChange (p : Fin 12) (level : MemLevels)
  -- clocks and power
  | clockLoss (i : Fin 6)
  | clockReturn (i : Fin 6)
  | groveGateWrite (src : Src) (g : Fin 8) (d : BitVec 32)
  | groveClkoffEntry (g : Fin 8)
  | islandWake (src : Src) (i : Fin 18)
  | islandWakeComplete (i : Fin 18)
  | portIslandGateWrite (src : Src) (k : Fin 4) (d : BitVec 32)
  | clockPointWrite (src : Src) (g : Fin 8) (d : BitVec 32)
  | clockPointChange (g : Fin 8)
  -- management port and TAP
  | registerWrite (src : Src) (a : BitVec 24) (d : BitVec 32)
  | latchRead (src : Src) (a : BitVec 24)
  | accessTimeout (src : Src) (a : BitVec 24) (write : Bool) (d : BitVec 32)
  | irqtest (src : Src) (d : BitVec 32)
  | idleSlot (g : Fin 8) (c : Fin 32)
  | managementRead (src : Src) (a : BitVec 24)
  | tckEdge (rising : Bool) (tms : Bool) (tdi : Bool)
  | islandChangeComplete (i : Fin 18)
  -- rows beyond the compiler's limit
  | abandonCompletionEntry (g : Fin 8)
  | lookupProbeReturn (th : Thid)
  | eccWriteback (g : Fin 8) (word : BitVec 17)
  | scrubRead (g : Fin 8) (bank : Fin 32)
  | stallCensus (g : Fin 8)
  | boundaryMarker (i : Fin 18)
  -- rows without operands
  | powerOn
  | srstAssert
  | srstRelease
  | memoryStepTimeout
  | timeAcquisition
  | acquisitionTimeout
  | initialisation
  | initialisationTimeout
  | retryBackoffExpiry
  | canopyTick
  | sequenceAssignment
  | descriptorIssue
  | retirement
  | tapUpdateDr
  | tapReset
  | sweepVisit
  | slewComplete
  | ppsTimeout
  | recordWrite
  | recorderCommit
  | refclkLoss
  | refclkReturn
  | pwrgoodFall
  deriving DecidableEq, Repr

end Sys2Proof
end

