-- ==== Sys2Proof/Decode.lean ====
section
/-!
DEFINITION. The commands have no encoding: no row of spec/opcode_table.json gives bits, so no word spells a command.
-/
namespace Sys2Proof

/-- The command that a word of nbits bits spells: none, since the table gives no row bits. -/
def decodeTableWord (nbits w : Nat) : Option Instr :=
  match nbits, w with
  | _, _ => none

end Sys2Proof
end

