-- ==== Sys2Proof/Machine/Map.lean ====
section
/-!
DEFINITION. Operations on sparse maps. A map lists its keys in strictly rising order and lists no entry equal to the default
of its reader, so that equal maps are equal data. The canonical form is `SMap.wf`; Laws/Map.lean shows that every operation
keeps it.
-/
namespace Sys2Proof.Machine

/-- The entry of key k, if the map lists one. -/
def mfind {α : Type} : SMap α → Nat → Option α
  | [], _ => none
  | (j, v) :: rest, k => if j = k then some v else mfind rest k

/-- The value at key k: the listed entry, or the default d. -/
def mget {α : Type} (d : α) (m : SMap α) (k : Nat) : α := (mfind m k).getD d

/-- The map without key k. -/
def mdel {α : Type} : SMap α → Nat → SMap α
  | [], _ => []
  | (j, v) :: rest, k => if j = k then mdel rest k else (j, v) :: mdel rest k

/-- The map with v at key k, the keys kept rising. -/
def mins {α : Type} : SMap α → Nat → α → SMap α
  | [], k, v => [(k, v)]
  | (j, w) :: rest, k, v =>
    if k < j then (k, v) :: (j, w) :: rest
    else if j = k then (k, v) :: rest
    else (j, w) :: mins rest k v

/-- The map that reads v at key k, where an unlisted key reads d: writing d removes the entry. -/
def mput {α : Type} [DecidableEq α] (d : α) (m : SMap α) (k : Nat) (v : α) : SMap α :=
  if v = d then mdel m k else mins m k v

/-- The map with the value at k changed by f. -/
def mmod {α : Type} [DecidableEq α] (d : α) (m : SMap α) (k : Nat) (f : α → α) : SMap α := mput d m k (f (mget d m k))

/-- The map without the keys from lo to hi − 1. -/
def mclear {α : Type} (m : SMap α) (lo hi : Nat) : SMap α := m.filter (fun e => !(lo ≤ e.1 && e.1 < hi))

/-- Keys strictly rising. -/
def risingFrom {α : Type} : Nat → SMap α → Bool
  | _, [] => true
  | b, (k, _) :: rest => decide (b ≤ k) && risingFrom (k + 1) rest

/-- The canonical form of a map whose unlisted keys read d. -/
def SMap.wf {α : Type} [DecidableEq α] (d : α) (m : SMap α) : Bool :=
  risingFrom 0 m && m.all (fun e => e.2 ≠ d)

/-- The numbers 0 to n − 1. -/
def upto (n : Nat) : List Nat := List.range n

/-- The list with the element at index i replaced by v; a list shorter than i is unchanged. -/
def lset {α : Type} : List α → Nat → α → List α
  | [], _, _ => []
  | _ :: xs, 0, v => v :: xs
  | x :: xs, i + 1, v => x :: lset xs i v

end Sys2Proof.Machine
end

