-- ==== Sys2Proof/Machine/State.lean ====
section
/-!
DEFINITION. The state of the block as plain data, its state after reset, and the reasons a step can stop.
Software-visible registers without a life of their own are held in one sparse map from management byte address to 32 bits
(an unlisted register holds 0), 64-bit counters in another; everything that changes by itself has a field of its own.
Numbers that count or index are Nat; what the manual numbers as bits is a bit vector.
-/
namespace Sys2Proof.Machine

/-- No command of the table faults: errors of this block are register flags, counters and exceptions of threads. -/
inductive Fault where
  /-- Raised by no meaning; it names the stop of a machine whose power is off, kept so that the type is inhabited. Safe. -/
  | powerOff
  deriving DecidableEq, Repr

/-- Why a command has no meaning here. -/
inductive Refusal where
  /-- The arm of a row that this model has not reached. Raised by the dispatcher only. Safe: nothing is claimed of it. -/
  | notModelled (mnemonic : String)
  deriving DecidableEq, Repr

/-! ## Packets -/

/-- A descriptor as the grove keeps it (R53). -/
structure Desc where
  tag  : Nat
  dom  : Nat
  seq  : Nat
  cell : Nat
  len  : Nat
  its  : Word
  err  : Bool
  ring : Nat
  src  : Nat
  cls  : Nat
  port : Nat
  deriving DecidableEq, Repr

/-- One emit entry (R54). -/
structure Emit where
  port  : Nat
  cls   : Nat
  tsupd : Bool
  oven  : Bool
  skip  : Nat
  trim  : Nat
  ovoff : Nat
  e1    : Word
  deriving DecidableEq, Repr

/-- A completion: the kept identity and the emit entries (R55). -/
structure Completion where
  tag   : Nat
  dom   : Nat
  seq   : Nat
  cell  : Nat
  emits : List Emit
  deriving DecidableEq, Repr

/-- A completion in a grove completion queue and how many of its entries the collector has still to accept (R56, R59). -/
structure CqItem where
  comp : Completion
  left : Nat
  deriving DecidableEq, Repr

/-- A frame of a port that is open in the trunk packet buffer (R33, R131). -/
structure Frame where
  cells  : List Nat
  nwords : Nat
  its    : Word
  last   : Word
  /-- The trunk has discarded the frame and ignores its words up to its end indication (R34). -/
  dead   : Bool
  deriving DecidableEq, Repr

/-- A packet that holds cells, keyed by its first cell (CELL). -/
structure Packet where
  cells : List Nat
  len   : Nat
  its   : Word
  err   : Bool
  ring  : Nat
  src   : Nat
  cls   : Nat
  port  : Nat
  /-- Copies handed to egress and not yet sent or discarded (R58). -/
  live  : Nat
  deriving DecidableEq, Repr

/-- A copy in an egress queue (R74). -/
structure Copy where
  emit : Emit
  cell : Nat
  len  : Nat
  its  : Word
  iport : Nat
  dom  : Nat
  seq  : Nat
  /-- The packet's class at ingress, which RECCLS selects by (R366). -/
  cls  : Nat
  /-- The entry of the copy store holds an error: 1 corrected at its read, 2 uncorrectable (R503). -/
  bad  : Nat
  deriving DecidableEq, Repr

/-- A collector slot in use (R44, R60). -/
structure Slot where
  dom  : Nat
  seq  : Nat
  cell : Nat
  done : Option (List Emit)
  deriving DecidableEq, Repr

/-- An ordering domain (R39, R72), with the heartwood cycle at which its present head became head (R63). -/
structure Dom where
  head  : Nat := 0
  next  : Nat := 0
  since : Nat := 0
  deriving DecidableEq, Repr

/-- The trunk: buffer, dispatcher and collector. -/
structure Trunk where
  /-- Allocated cells, rising. -/
  alloc   : List Nat := []
  /-- Words of allocated cells, keyed 8 × cell + word. -/
  buf     : SMap Word := []
  /-- Words of the buffer with an error: 1 corrected on the next read, 2 uncorrectable (R503). -/
  ecc     : SMap Nat := []
  pkts    : SMap Packet := []
  /-- First cells of frames that ended good and wait for a number, oldest first (R39, R40). -/
  ended   : List Nat := []
  slots   : SMap Slot := []
  doms    : SMap Dom := []
  /-- Tags of numbered packets not yet issued (R46). -/
  issueQ  : List Nat := []
  /-- First cells of packets that timed out before their descriptors were issued (log entry 79). -/
  lost    : List Nat := []
  credits : SMap Nat := []
  tie     : Nat := 7
  rot     : Nat := 63
  peak    : Nat := 0
  deriving DecidableEq, Repr

/-! ## Ports, engines and rings -/

/-- The idle word: eight 0x107 symbols (R114). -/
def idleWord : Word := 0x83C1E0F0783C1E0F07

/-- The port states of R86. -/
inductive PortSt where
  | off | starting | up | draining
  deriving DecidableEq, Repr

/-- An engine is halted, running, or repeating an instruction (R130, R148). -/
inductive EngSt where
  | halted | running | holding
  deriving DecidableEq, Repr

/-- The state of one engine (R117). Its sticky flags are in the register map at its ESTAT. -/
structure Engine where
  st    : EngSt := .halted
  errc  : BitVec 2 := 0
  pc    : BitVec 6 := 0
  shr   : Word := 0
  bcnt  : Nat := 0
  x     : Word := 0
  cnta  : BitVec 16 := 0
  cntb  : BitVec 16 := 0
  ticka : Bool := false
  tickb : Bool := false
  b     : Bool := false
  kf    : Bool := false
  kl    : Nat := 8
  new   : Bool := false
  rise  : BitVec 4 := 0
  fall  : BitVec 4 := 0
  tsc   : Word := 0
  fresh : Bool := false
  /-- Presentation time of the last RXL word this engine consumed (R129). -/
  rxw   : Word := 0
  pushq : Word := 0
  pushf : Bool := false
  pullq : Word := 0
  pullf : Bool := false
  xinit : Word := 0
  deriving DecidableEq, Repr

/-- An entry of ETSQ (R84). -/
structure Ets where
  ets : Word
  dom : Nat
  seq : Nat
  deriving DecidableEq, Repr

/-- A copy that the scheduler has offered to the port (R136). -/
structure Offer where
  copy  : Copy
  /-- Words already read by TRKR, and words that have reached the port, those included. -/
  pos   : Nat
  there : Nat
  /-- The first word has left (R83), with its time stamp. -/
  ets   : Option Word
  /-- A start reset cut the copy: the next read returns the error word (R135). -/
  cut   : Bool
  deriving DecidableEq, Repr

/-- An item on a port's ingress link: a word with the time of its write, or an end indication (R131, R132). -/
inductive IngressMsg where
  /-- `live`: the port stood UP, or had been, when the word was written, so that it may open a frame at the trunk (R134). -/
  | word (w : Word) (its : Word) (live : Bool)
  | fin (bits : BitVec 10) (extra : Word) (bcnt : Nat)
  | auto (cls : BitVec 3)
  deriving DecidableEq, Repr

/-- An express frame on its way out of a port: the words not yet presented (R92, R97), and what its counters and its TRANSIT
record show (R107, R368). -/
structure XFrame where
  words   : List Word
  started : Bool
  /-- A fragment: the frame was cut off and counts nowhere (R90, R91, R97). -/
  frag    : Bool
  ring    : Nat
  dir     : Bool
  seq     : Nat
  syms    : Nat
  ets     : Word
  deriving DecidableEq, Repr

/-- What a port has shown in a canopy tick, for R95: not UP, an engine halted with ERR, LINK 0, errored frames. A port that the state
does not list is OFF with LINK 0. -/
structure Obs where
  down : Bool := true
  err  : Bool := false
  link : Bool := true
  bad  : Nat := 0
  deriving DecidableEq, Repr

/-- What the four engines of a port see in common: the state of the port, the pins and the word received, LINK and whether it has been 0
in the tick, HOLD with the ticks and the ignored bits of R78, the output enables, and what the copy on offer gives (R95, R108, R136). -/
structure Shared where
  st      : PortSt
  pinIn   : BitVec 4
  rxl     : Word
  rxt     : Word
  link    : Bool
  linkObs : Bool
  hold    : BitVec 8
  holdAt  : SMap Nat
  holdIgn : BitVec 8
  pinOe   : BitVec 4
  cav     : Bool
  eoc     : Bool
  deriving DecidableEq, Repr

/-- The PCLK cycle of a port that is under way (R108, R110): the heartwood cycle in which it began, the engines that have run in it,
the shared values at its beginning, those that the last of these engines left, and the engines that wrote EGH and LINK. -/
structure PortCycle where
  hw      : Nat
  ran     : List Nat
  seen    : Shared
  left    : Shared
  holdBy  : Option Nat := none
  linkBy  : Option Nat := none
  deriving DecidableEq, Repr

/-- One of the 128 ports. -/
structure Port where
  st      : PortSt := .off
  pend    : Bool := false
  link    : Bool := false
  drain   : Nat := 0
  infl    : Nat := 0
  used    : Nat := 0
  frame   : Option Frame := none
  rxl     : Word := 0
  rxt     : Word := 0
  txl     : Option Word := none
  /-- The transmit lanes: the word last presented, and whether they hold a word in this cycle (R455, R460). -/
  ptxd    : Word := idleWord
  ptxv    : Bool := false
  lane    : List XFrame := []
  /-- TRKR has returned the last word of a copy, and that word has not left the port (R92; log entry 84). -/
  tail    : Bool := false
  pinIn   : BitVec 4 := 0
  pinT    : SMap Word := []
  pinOut  : BitVec 4 := 0
  pinOe   : BitVec 4 := 0
  hold    : BitVec 8 := 0
  holdAt  : SMap Nat := []
  holdIgn : BitVec 8 := 0
  /-- The INE engine has opened a frame and not yet ended it (R131). -/
  inOpen  : Bool := false
  /-- Discards of the port, as IDISC records number them (R368). -/
  idiscs  : Nat := 0
  queues  : SMap (List Copy) := []
  deficit : SMap Nat := []
  turn    : Nat := 7
  inTurn  : Bool := false
  offer   : Option Offer := none
  /-- The copy whose first word on the lanes is still to be stamped (R83). -/
  etsWait : Option Copy := none
  eoc     : Bool := false
  etsq    : List Ets := []
  etsLast : Option Ets := none
  /-- Gate entries of both banks, keyed 1,024 × bank + index: gate bits and interval (R79). -/
  gents   : SMap (BitVec 40) := []
  gcycle  : SMap (BitVec 32) := []
  glen    : SMap (BitVec 11) := []
  gbase   : SMap Word := []
  gact    : Nat := 0
  garm    : Option Nat := none
  gate    : BitVec 8 := 0xFF
  engines : SMap Engine := []
  store   : SMap (BitVec 24) := []
  /-- The cycle that its engines are in; none before the first. -/
  cyc     : Option PortCycle := none
  /-- What it has shown in the present canopy tick, and in the tick that ended last (R28, R95). -/
  obs     : Obs := {}
  last    : Obs := {}
  deriving DecidableEq, Repr

/-- The level of a RING_ATTACH output (R100). -/
inductive Attach where
  | z | low | high
  deriving DecidableEq, Repr

/-- An express copy that waits for its duplicate check (R93, R348). -/
structure DdCopy where
  port  : Nat
  key   : BitVec 144
  cell  : Nat
  deriving DecidableEq, Repr

/-- One of the 16 rings: the lane, the output, and the declared conditions with their clean counts (R95 to R100). -/
structure Ring where
  lane   : Bool := false
  attach : Attach := .z
  faultA : Bool := false
  faultB : Bool := false
  breakA : Bool := false
  breakB : Bool := false
  cleanFA : Nat := 0
  cleanFB : Nat := 0
  cleanBA : Nat := 0
  cleanBB : Nat := 0
  ddq    : List DdCopy := []
  deriving DecidableEq, Repr

/-! ## Threads, cores and groves -/

/-- What a thread waits on (R173); the two PARKED forms are those of R262. -/
inductive Wait where
  | ready
  /-- PARKED after a start or by THCMD PARK. -/
  | parked
  /-- PARKED after DONE. -/
  | parkedDone
  | desc
  | load
  | ovlap (ord : Nat)
  | lock (u : Nat)
  | event (f : Nat)
  | chanR (u : Nat)
  | chanW (u : Nat)
  /-- Until this many entries are free. -/
  | sbfull (n : Nat)
  | drain
  /-- Until no store to the packet window is buffered, before a helper instruction (R245). -/
  | drainPw
  /-- Until this many completion queue entries are free. -/
  | cqfull (n : Nat)
  | bank (b : Nat)
  | xunit
  deriving DecidableEq, Repr

/-- An entry of a store buffer (R164); ord is its place in the order in which the core's stores executed. -/
structure SbEntry where
  addr  : BitVec 40
  data  : Word
  mask  : BitVec 8
  /-- The physical scratchpad word and port (true: port B) that passed the check of R164, for a scratchpad store. -/
  phys  : Option (Nat × Bool)
  ord   : Nat
  sent  : Bool
  /-- The target has accepted the store (R394, R208). -/
  acc   : Bool
  since : Nat
  deriving DecidableEq, Repr

/-- The load whose destination is written with the thread's next instruction (R160). -/
structure Landing where
  reg : Nat
  val : Word
  p   : Option Bool
  deriving DecidableEq, Repr

/-- The answer of a load's target. -/
inductive Answer where
  | word (w : Word)
  | dacc
  | eccu
  deriving DecidableEq, Repr

/-- What serves an outstanding load or unit request. -/
inductive Unit' where
  | window | packet | external | helper | lookup | extension | locks
  deriving DecidableEq, Repr

/-- Where the data of an outstanding load goes. -/
inductive Dest where
  /-- Lanes first to first + n − 1 of the word go to lanes 0 to n − 1 of the register under R160. -/
  | land (reg first n : Nat)
  /-- The first word of a split LDS goes to the latch, from this lane (R214). -/
  | latch (first : Nat)
  /-- The second word of a split LDS joins the latch (R214). -/
  | join (reg first n : Nat)
  /-- A word of BMOV goes to this store; true with the last word (R229). -/
  | copy (e : SbEntry) (last : Bool)
  /-- A unit's result with its P. -/
  | result (reg : Nat)
  deriving DecidableEq, Repr

/-- A load or unit request whose answer is outstanding (R163). -/
structure Outst where
  unit  : Unit'
  dest  : Dest
  pc    : BitVec 24
  addr  : BitVec 40
  since : Nat
  /-- The base register's value before its write-back, restored when the access fails (R212, R222). -/
  undo  : Option (Nat × Word)
  ans   : Option Answer
  ansP  : Option Bool
  deriving DecidableEq, Repr

/-- What an entry reports in EXINFO: an NMI with the THID it concerns, a maskable line, or neither (R268, R282). -/
inductive EntryKind where
  | fault
  | nmi (src : Nat)
  | line (i : Nat)
  deriving DecidableEq, Repr

/-- What the entry that a hold replaced would have written beside CAUSE: BADADDR, BADINS and EXINFO (R257, R270, R273). -/
structure Retry where
  bad    : Option (BitVec 40) := none
  badins : Option (BitVec 37) := none
  kind   : EntryKind := .fault
  deriving DecidableEq, Repr

/-- One thread context. -/
structure Thread where
  g       : SMap Word := []
  pc      : BitVec 24 := 0
  status  : BitVec 32 := 0x80000000
  accl    : Word := 0
  acch    : Word := 0
  dsbase  : BitVec 17 := 0
  dslim   : BitVec 17 := 0
  rsp     : Nat := 0
  rstack  : SMap Word := []
  modP    : SMap Word := []
  modA    : SMap Word := []
  tvec    : BitVec 24 := 0
  cause   : BitVec 6 := 0
  badins  : BitVec 37 := 0
  badaddr : BitVec 40 := 0
  lcrpc   : BitVec 24 := 0
  lcrst   : BitVec 32 := 0
  tceilP  : Bool := false
  tceilA  : Bool := false
  thcfgP  : BitVec 32 := 0
  thcfgA  : BitVec 32 := 0
  syncp   : Bool := false
  wait    : Wait := .parked
  halted  : Bool := false
  held    : Bool := false
  parkReq : Bool := false
  sb      : List SbEntry := []
  landing : Option Landing := none
  /-- The load that the present step began: it becomes `landing` when the step ends. -/
  landNext : Option Landing := none
  outst   : Option Outst := none
  staging : Option (Nat × List Word) := none
  bound   : Option Nat := none
  descs   : List Desc := []
  lines   : BitVec 8 := 0
  tsrc    : BitVec 8 := 0
  nmip    : Bool := false
  xNmi    : Bool := false
  xInt    : Bool := false
  xLine   : BitVec 3 := 0
  srcth   : BitVec 12 := 0
  nmiact  : Bool := false
  hreason : BitVec 2 := 0
  nmidepth : BitVec 5 := 0
  ocause  : BitVec 6 := 0
  retry   : Retry := {}
  /-- A release has asked for the entry that `retry` keeps: the thread makes it at its next issue (R258, R273). -/
  retryDue : Bool := false
  chabp   : Bool := false
  chabch  : Nat := 0
  bskip   : Bool := false
  haltReq : Bool := false
  hcause  : BitVec 3 := 0
  bpnum   : BitVec 2 := 0
  /-- A step in progress under R276, with its STEPIRQ. -/
  step    : Option Bool := none
  latch   : Word := 0
  latchV  : Bool := false
  /-- The present instruction has made an attempt (R507), so no boundary comes before it completes (R262). -/
  tried   : Bool := false
  /-- A BMOV store whose data have arrived and that waits for a free entry (R229). -/
  pendSt  : Option (SbEntry × Bool) := none
  /-- The word of a SEND with LAST that waits for a message slot (R243, R262). -/
  sendW   : Word := 0
  doneOp  : Word := 0
  emits   : List Word := []
  /-- Registers and return stack entries that hold an uncorrectable error (R271), keyed as DBGSEL.REG. -/
  ecc     : SMap Nat := []
  deriving DecidableEq, Repr

/-- What applies first at a boundary (R263). -/
inductive Due where
  | halt
  | breakHalt (k : Nat)
  | breakEntry (k : Nat)
  /-- The entry that a release with ACT 1 makes (R273). -/
  | retry
  | chabrt
  | hold (th reason : Nat)
  | stall
  | wdog
  | nmiext
  | line (i : Nat)
  deriving DecidableEq, Repr

/-- The choice for one core cycle (R151): the thread, the priority level at which it won an OPEN slot (R153), whether its owner lent
the slot, and the interrupt that is due at the thread's boundary as the choice saw it (R157, R264). -/
structure Sel where
  t    : Option Nat
  won  : Option Nat
  lent : Bool
  due  : Option Due
  deriving DecidableEq, Repr

/-- One core: its wheel, its modes and its active copies. -/
structure Core where
  pos      : Nat := 0
  lastExec : Option Nat := none
  /-- The choices that the select stage has made for the present cycle and, within a cycle, for the next one (R157). -/
  chosen   : Option Sel := none
  ahead    : Option Sel := none
  ptrs     : SMap Nat := []
  slotAct  : SMap (BitVec 32) := []
  slotNext : Option (SMap (BitVec 32)) := none
  slotDirty : Bool := false
  bankAct  : SMap (BitVec 32) := []
  bankDirty : Bool := false
  service  : Bool := false
  mreq     : Bool := false
  maintReq : Bool := false
  ordNext  : Nat := 0
  /-- DBGDATA as captured or staged (R278). -/
  dbgdata  : Word := 0
  deriving DecidableEq, Repr

/-- A lock of the lock unit (R302). -/
structure Lock where
  holder  : Option Nat := none
  waiters : List Nat := []
  deriving DecidableEq, Repr

/-- A visible message: its words still to be read and its bound reader (R243). -/
structure Msg where
  words  : List Word
  reader : Option Nat
  deriving DecidableEq, Repr

/-- A channel: messages, unbound readers waiting and writers waiting, each oldest first (R309). -/
structure Chan where
  msgs    : List Msg := []
  readers : List Nat := []
  writers : List Nat := []
  deriving DecidableEq, Repr

/-- A DMA channel (R299 to R301). -/
structure Dma where
  src  : BitVec 40 := 0
  dst  : BitVec 40 := 0
  cnt  : BitVec 16 := 0
  fen  : Bool := false
  flag : BitVec 6 := 0
  busy : Bool := false
  code : BitVec 3 := 0
  left : Nat := 0
  /-- A STOP waits for the end of the word in progress. -/
  stop : Bool := false
  /-- The word read and not yet written. -/
  data : Option Word := none
  /-- The bank port at which that word's write has been presented and waits for the end of a clear (R292, R296). -/
  pres : Option Nat := none
  /-- The port of the destination passed to another owner while the word's data were on the way (R293). -/
  lost : Bool := false
  /-- An external read or write of the word in progress is outstanding. -/
  ext  : Bool := false
  deriving DecidableEq, Repr

/-- An edge of a capture input that has reached its channel: BTNS of its sampling, and the count that it loads. An edge at a pin takes
the count of the grove cycle in which it is served; one of a grove output, that of the cycle after the change (R382). -/
inductive Edge where
  | pin (ns : Nat)
  /-- A grove output has changed in the present grove cycle. -/
  | next
  | counted (n : BitVec 64)
  deriving DecidableEq, Repr

/-- A timer channel (R378 to R386); TCTL and TCAPCFG are in the register map. -/
structure Timer where
  cnt    : BitVec 64 := 0
  cmp    : BitVec 64 := 0
  cap    : BitVec 64 := 0
  armed  : Bool := false
  capf   : Bool := false
  /-- The compare counts as passed once the count has reached it (R380). -/
  due    : Bool := false
  /-- Edges of the capture input that have reached the channel, oldest first (R382). -/
  edges  : List Edge := []
  deriving DecidableEq, Repr

/-- A request that waits in a helper (R245): the thread, and the result it will return. -/
structure HelperReq where
  th  : Nat
  ans : Answer
  p   : Option Bool
  deriving DecidableEq, Repr

/-- A request to the extension unit (R252, R472), with the first grove cycle in which it is presented. -/
structure XReq where
  th    : Nat
  op    : BitVec 4
  imm   : BitVec 15
  a     : Word
  b     : Word
  xfer  : Bool
  since : Option Nat
  deriving DecidableEq, Repr

/-- A packet window request on its way to the trunk (R208). -/
structure PwReq where
  th    : Nat
  /-- First cell and length of the packet whose descriptor the thread held when the request left. -/
  cell  : Nat
  len   : Nat
  write : Bool
  word  : Nat
  data  : Word
  mask  : BitVec 8
  deriving DecidableEq, Repr

/-- A held thread in the hold queue, and whether it has been reported (R268, R270). -/
structure HeldTh where
  th       : Nat
  reported : Bool
  deriving DecidableEq, Repr

/-- A grove's stall condition: the cycle since which it is stalled, and whether the census has raised STALL since (R313). -/
structure Stall where
  since  : Option Nat := none
  raised : Bool := false
  deriving DecidableEq, Repr

/-- Where a clock stands in the present heartwood cycle: the cycles begun in it, and where in it the last of them began, in units of
2^-32 s; for a grove also whether one is in progress, the event flags as they were when that one began, and what the instruction store
words committed in it held before: word, MARK and error mark (R193, R244, R307, R357). -/
structure Beat where
  begun   : Nat := 0
  last    : Nat := 0
  inCycle : Bool := false
  flags   : BitVec 64 := 0
  olds    : List (Nat × Word × BitVec 2 × Nat) := []
  deriving DecidableEq, Repr

/-- The last write of a word of a dual-port bank: its port, what the word held before, and the grove cycle (R294). -/
structure DualWrite where
  word  : Nat
  portB : Bool
  old   : Word
  cycle : Nat × Nat
  deriving DecidableEq, Repr

/-- One grove. Its threads and cores are kept in the state's own maps. -/
structure Grove where
  cyc     : Nat := 0
  /-- The cycle in which the grove last came to ON (R471). -/
  woke    : Nat := 0
  istore  : SMap Word := []
  imark   : SMap (BitVec 2) := []
  iecc    : SMap Nat := []
  scratch : SMap Word := []
  secc    : SMap Nat := []
  bpend   : List Nat := []
  bclr    : SMap Nat := []
  wback   : List Nat := []
  dual    : Option DualWrite := none
  /-- A host window access that waited when its port left the host (R292). -/
  bwHeld  : Option Nat := none
  scrubAt : SMap Nat := []
  scrubT  : SMap Nat := []
  /-- The next instruction store word to scrub, and the cycle from which it is due (R503). -/
  iscrubAt : Nat := 0
  iscrubT : Nat := 0
  poolQ   : List Desc := []
  /-- Descriptors given up whose completions wait for the queue, with the threads whose entries they hold (R64). -/
  abandQ  : List (Nat × Desc) := []
  cq      : List CqItem := []
  /-- Entries of the queue that have reached the collector's lane (R59). -/
  lane    : Nat := 0
  rotS    : Nat := 511
  rotD    : Nat := 511
  free    : Nat := 0
  service : Bool := false
  locks   : SMap Lock := []
  flags   : BitVec 64 := 0
  chans   : SMap Chan := []
  holdQ   : List HeldTh := []
  fatal   : Bool := false
  nmiStall : Bool := false
  nmiWdog : Bool := false
  wdCount : Nat := 0
  wdFired : Bool := false
  censtat : BitVec 32 := 0
  censth  : BitVec 32 := 0
  dma     : SMap Dma := []
  /-- The DMA channel served last (R300). -/
  dmaTurn : Nat := 7
  timers  : SMap Timer := []
  gout    : BitVec 16 := 0
  parseQ  : List HelperReq := []
  crcQ    : List HelperReq := []
  tscfQ   : List HelperReq := []
  xreqs   : List XReq := []
  window  : List PwReq := []
  deriving DecidableEq, Repr

/-! ## Lookup engine -/

/-- A valid table entry (R324). -/
structure Entry where
  keyl    : Word
  keyh    : Word
  result  : Word
  static  : Bool
  plen    : Nat
  user    : BitVec 16
  lasthit : BitVec 32
  deriving DecidableEq, Repr

/-- A table: entries by position (slots, then stash), and the filters of a longest-prefix table (R321, R330). Bits of row 4,096
stand in every row. -/
structure Table where
  slots  : SMap Entry := []
  rows   : SMap (BitVec 145) := []
  plf    : SMap Bool := []
  /-- Moves of entries under R341, which R343 compares. -/
  moves  : Nat := 0
  /-- The next position that the clear of a write of EN 1 writes, while that clear runs (R350). -/
  clr    : Option Nat := none
  /-- TBLCFG and TBLBASE as they stood when the table was disabled, for the work accepted before (R352). -/
  was    : Option (BitVec 32 × Nat) := none
  deriving DecidableEq, Repr

/-- A lookup in flight (R331, R332): its probes left, as pairs of length and position. -/
structure Lkp where
  th     : Nat
  /-- The grove cycle of the LKUP, which tells a thread's requests apart. -/
  since  : Nat
  table  : Nat
  lpm    : Bool
  key    : BitVec 144
  todo   : List (Nat × Nat)
  /-- The length of the stash answer, whose slot is the last probe of the list. -/
  best   : Option Nat
  /-- The probe that reads external memory, the words it still waits for, and what failed: true for a timeout. -/
  mem    : Option (Nat × Nat)
  left   : Nat
  fail   : Option Bool
  moves  : Nat
  rerun  : Bool
  /-- The answer: hit or miss, or an exception. -/
  result : Option (Option Word)
  bad    : Option (BitVec 40 × Bool)
  deriving DecidableEq, Repr

/-- A write of a command: the position, the entry placed there or none to free it, whether it is a move of R341, and the position whose
entry it moves, or whose LASTHIT it keeps, as that stands when the write is made. -/
structure LkWrite where
  pos   : Nat
  entry : Option Entry
  move  : Bool
  src   : Option Nat := none
  deriving DecidableEq, Repr

/-- What a position held before a write that has not been accepted; `sure`: a failure of the write puts it back (R345). -/
structure LkUndo where
  pos  : Nat
  old  : Option Entry
  sure : Bool
  deriving DecidableEq, Repr

/-- A write of LASTHIT that waits for other work on its slot (R335, R342): the table, the entry's key and length, the tick of the hit, and
the slot of the TESTINS that made it. -/
structure HitWrite where
  table : Nat
  key   : BitVec 144
  plen  : Nat
  tick  : BitVec 32
  cmd   : Option Nat
  deriving DecidableEq, Repr

/-- A command slot (R336, R354, R355); a ring's duplicate check and the sweeper use one of the same kind. -/
structure Cmd where
  keyl : Word := 0
  keyh : Word := 0
  res  : Word := 0
  ent  : Word := 0
  pos  : BitVec 37 := 0
  busy : Bool := false
  ovr  : Bool := false
  rc   : BitVec 4 := 0
  op   : BitVec 4 := 0
  table : BitVec 8 := 0
  fen  : Bool := false
  flag : BitVec 6 := 0
  /-- Its place in the order of acceptance (R340), and whether its table was enabled then (R352). -/
  acc  : Nat := 0
  live : Bool := false
  /-- The table load of step 9 reads within itself. -/
  full : Bool := false
  /-- Positions it has read from external memory, the one it is reading, and the words still to come. -/
  got  : List Nat := []
  rpos : Nat := 0
  rleft : Nat := 0
  /-- The engine has executed the command: its result code, the writes still to be issued, the words not yet accepted. -/
  ran  : Bool := false
  rcN  : BitVec 4 := 0
  plan : List LkWrite := []
  wleft : Nat := 0
  undo : List LkUndo := []
  /-- The lookup of a TESTINS: the moves of its table at its first probe, whether it is the re-run, and whether it has missed and the
  command goes on as INSERT (R337, R343). -/
  began  : Option Nat := none
  again  : Bool := false
  missed : Bool := false
  /-- The position that FREBUILD has reached. -/
  cur    : Nat := 0
  deriving DecidableEq, Repr

/-- A lookup request on a grove's link (R332). -/
structure LkReq where
  th    : Nat
  since : Nat
  table : Nat
  lpm   : Bool
  key   : BitVec 144
  deriving DecidableEq, Repr

/-- The lookup engine. -/
structure Lookup where
  ready  : Bool := false
  seed   : BitVec 64 := 0
  tables : SMap Table := []
  /-- Cached slots of tables that are not pinned, least recently probed first: table and position (R322). -/
  cache  : List (Nat × Nat) := []
  /-- Cached slots and filter words with an error (R503), keyed 2^40 × table + position, rows of the length filter from 2^39, words of
  72 bits of the per-length filters from 2^39 + 8,192: 1 corrected, 2 uncorrectable. -/
  ecc    : SMap Nat := []
  /-- Command slots: 0 the host's, 1 + 16g + s slot s of grove g, 129 + r ring r, 145 the sweeper's, 146 the table load's. -/
  cmds   : SMap Cmd := []
  accNext : Nat := 0
  /-- Lookups in flight by the number given at acceptance. -/
  flight : SMap Lkp := []
  flNext : Nat := 0
  /-- Words still to come of slots read in the background, keyed as ecc (R333). -/
  fills  : SMap Nat := []
  /-- Writes of LASTHIT that wait, oldest first (R342). -/
  hits   : List HitWrite := []
  sweepT : Nat := 0
  sweepP : Nat := 0
  swept  : Nat := 0
  deriving DecidableEq, Repr

/-! ## Memory ports and recorder -/

/-- Who made a memory request (R398, R401). -/
inductive MSrc where
  /-- A load of thread th made in this grove cycle. -/
  | core (th since : Nat)
  | store (th : Nat)
  | dma (g k : Nat)
  /-- A command of the lookup engine, by its slot key. -/
  | cmd (slot : Nat)
  /-- A probe of the lookup with this number. -/
  | probe (id : Nat)
  /-- A background read of a slot (R333). -/
  | fill (table pos : Nat)
  /-- The LASTHIT write of a table (R335). -/
  | hit (table : Nat)
  /-- A write of the clear of a table (R350). -/
  | clear (table : Nat)
  /-- A word of the head record with this number: a control record or not. -/
  | recorder (n : Nat) (ctrl : Bool)
  deriving DecidableEq, Repr

/-- A memory request, with the Block Time in ns of its transfer (0 before it). -/
structure MReq where
  cls   : Nat
  write : Bool
  ea    : Nat
  mask  : BitVec 8
  data  : Word
  src   : MSrc
  since : Nat
  deriving DecidableEq, Repr

/-- The item that a request channel presents, from this Block Time in ns on (R401, R462). -/
structure Shown where
  req   : MReq
  tag   : Nat
  since : Nat
  deriving DecidableEq, Repr

/-- A memory port. -/
structure MPort where
  ready : Bool := false
  /-- Requests that wait at their sources for a credit, and those in the class queues, each oldest first (R398). -/
  wait  : List MReq := []
  queue : List MReq := []
  /-- What the read and the write channel present (R462). -/
  shownR : Option Shown := none
  shownW : Option Shown := none
  tags  : SMap MReq := []
  /-- Timed-out requests whose tags are quarantined (R402). -/
  quar  : SMap MReq := []
  /-- Round robin of the read and of the write channel: the class in turn, its transfers left, the weights of the round. -/
  rrR   : Nat := 9
  rrW   : Nat := 9
  leftR : Nat := 0
  leftW : Nat := 0
  wtR   : BitVec 40 := 0
  wtW   : BitVec 40 := 0
  deriving DecidableEq, Repr

/-- A head record with its continuations, as pairs of words (R367, R370), and its class for R373. -/
structure Rec where
  island : Nat
  words  : List (Word × Word)
  ctrl   : Bool
  deriving DecidableEq, Repr

/-- A tick boundary that the recorder has still to commit (R374): the tick it starts, the islands awaited, how many records were
staged before the last marker, and the position after the last of them once they are written. -/
structure Bound where
  tick    : Nat
  awaited : List Nat
  cover   : Nat
  pos     : Option Nat
  deriving DecidableEq, Repr

/-- The event recorder; its sequence counters are keyed by island (R368). -/
structure Recorder where
  modeA   : BitVec 2 := 0
  ctlA    : BitVec 32 := 0
  selA    : SMap (BitVec 32) := []
  staged  : List Rec := []
  ptr     : Nat := 0
  rd      : Nat := 0
  commit  : Nat := 0
  ctick   : BitVec 32 := 0
  /-- Losses since the last RECLOSS event (R373). -/
  lostP   : Nat := 0
  lostC   : Nat := 0
  /-- A session that continues the region begins with RECLOSS (R376). -/
  lossDue : Bool := false
  seqs    : SMap Nat := []
  bounds  : List Bound := []
  /-- The latest tick whose boundary has been opened. -/
  opened  : Nat := 0
  /-- Head records staged, and head records taken out of the stage, since the start. -/
  inSeq   : Nat := 0
  outSeq  : Nat := 0
  /-- Words written and not yet accepted, by head record: 3 × its number, and 1 for a control record, 2 for a packet record, 0 for the
  RECLOSS event that comes before it. -/
  outst   : SMap Nat := []
  /-- Step 8 has brought the recorder up, so the heartwood retains its place (R376). -/
  live    : Bool := false
  /-- Head records already counted lost because a write failed (R401). -/
  failed  : List Nat := []
  deriving DecidableEq, Repr

/-! ## Time, start, power, management -/

/-- Block Time and what disciplines it (R356 to R365). -/
structure Time where
  bt      : Nat := 0
  rem     : Nat := 0
  adjrem  : Int := 0
  adjfrac : Nat := 0
  /-- The last tick that the heartwood has begun, those that the other islands have begun by their copies, and the last tick whose
  functions have run (R27, R29). -/
  closed  : Nat := 0
  begun   : SMap Nat := []
  tick    : Nat := 0
  /-- Boundary markers that an island has still to send: the island and the tick (R374). -/
  marks   : List (Nat × Nat) := []
  /-- Where the copy of each island stands within the interval of R357, by its number: 0, 1 or 2 units. -/
  skews   : List Nat := []
  /-- Counts of events that are stamped in a tick their counter's island has not begun (R28). -/
  ahead   : SMap (BitVec 64) := []
  ppsts   : Word := 0
  ppsAt   : Option Nat := none
  ppsGood : Nat := 0
  acq     : Bool := false
  src     : BitVec 2 := 0
  locked  : Bool := false
  tset    : BitVec 40 := 0
  tsetV   : Bool := false
  refOk   : Bool := true
  clkLost : BitVec 6 := 0
  tskip   : Nat := 0
  deriving DecidableEq, Repr

/-- Where the start sequence stands. -/
inductive Phase where
  /-- PWRGOOD is low. -/
  | off
  /-- SRST_N is low. -/
  | srst
  /-- A start is requested and its start reset runs. -/
  | due
  /-- Step 8 waits for MEM_READY. -/
  | waitMem
  /-- Step 10 waits for acquisition. -/
  | waitTime
  /-- Step 11 begins. -/
  | init0
  /-- Step 11 waits for the groves. -/
  | init1
  /-- The start is complete. -/
  | service
  /-- The back-off after a failed attempt. -/
  | backoff
  | safe
  deriving DecidableEq, Repr

/-- A TABLE section of the image still to be loaded: section index, table, offset, length (R434). -/
structure TblSect where
  idx : Nat
  tbl : Nat
  off : Nat
  len : Nat
  dig : BitVec 256
  /-- The staged copy, when step 5 read the whole image. -/
  bytes : List Byte
  deriving DecidableEq, Repr

/-- The start sequencer, the root loader and the retention store (R423, R427 to R453). -/
structure Start where
  phase   : Phase := .due
  /-- SRST_N is low (R458). -/
  srstLow : Bool := false
  warm    : Bool := false
  completed : Bool := false
  attempt : Nat := 0
  slot    : Bool := false
  step    : Nat := 1
  since   : Nat := 0
  fcode   : BitVec 8 := 0
  fail0   : BitVec 32 := 0
  sect    : BitVec 16 := 0xFFFF
  unit    : BitVec 8 := 0
  detail  : BitVec 8 := 0
  isSafe  : Bool := false
  isDone  : Bool := false
  memret  : Bool := false
  digok   : Bool := false
  digest  : BitVec 256 := 0
  imgid   : BitVec 64 := 0
  /-- The slot and IMGID retained with DIGEST (R439). -/
  retSlot : Bool := false
  retImgid : BitVec 64 := 0
  lastSlot : Bool := false
  /-- The step in which the last attempt of this start failed, 0 for none. -/
  failed  : Nat := 0
  /-- An attempt of this start failed in step 8 or 9 (R442). -/
  memFailed : Bool := false
  /-- Step 5 stopped after the section table (R440). -/
  stopped : Bool := false
  relaxed : Bool := false
  porten  : BitVec 128 := 0
  tables  : List TblSect := []
  inits   : List (Nat × Nat) := []
  memseed : BitVec 64 := 0
  retSeed : Option (BitVec 64) := none
  retPorts : Nat := 0
  retRegion : Option (Nat × Nat) := none
  retPtr  : Nat := 0
  retRd   : Nat := 0
  retCommit : Nat := 0
  retCtick : BitVec 32 := 0
  /-- What external memory held of the tables when the last start reset began: base, SZ and entries (R350, R442). -/
  retTables : SMap (Nat × Nat × SMap Entry) := []
  /-- Records that were staged when a warm start began: packet records and control records (R376). -/
  lostP   : Nat := 0
  lostC   : Nat := 0
  held    : List (Word × BitVec 28) := []
  /-- Words of the retention store with an error, 1 corrected at a read, 2 uncorrectable, and the next word to scrub (R503). -/
  marks   : SMap Nat := []
  scrubAt : Nat := 0
  linkFail : Option (Nat × Nat) := none
  deriving DecidableEq, Repr

/-- A read of the flash: the mode and clock divider (R430), the dummy clocks, the byte address and the bytes asked for (R468). -/
structure NvmRead where
  mode  : Nat
  div   : Nat
  dummy : Nat
  addr  : Nat
  len   : Nat
  deriving DecidableEq, Repr

/-- What happens at the NVM signals, in order: the island's power, NVM_RST_N with the time it stays before the next item, a read. -/
inductive NvmOp where
  | power (on : Bool)
  | rstN (high : Bool) (ns : Nat)
  | read (r : NvmRead)
  deriving DecidableEq, Repr

/-- The NVM signals: NVM_RST_N, which island 0 drives, and what the root loader of the present attempt has done (R468). -/
structure Nvm where
  rstN : Bool := false
  /-- NVMCFG of the header that this attempt read (R432). -/
  cfg  : Nat := 0
  ops  : List NvmOp := []
  deriving DecidableEq, Repr

/-- The power state of an island (R412). -/
inductive Power where
  | on | clkoff | off
  deriving DecidableEq, Repr

/-- An island's power: its state, the state it is changing to, and a held write (R418). -/
structure Island where
  st   : Power := .on
  goal : Option Power := none
  held : Option (BitVec 32) := none
  deriving DecidableEq, Repr

/-- A grove's active clock point and whether a change is in progress (R420). -/
structure Point where
  pta : Nat := 0
  chg : Bool := false
  deriving DecidableEq, Repr

/-- The states of the IEEE 1149.1 TAP (R280). -/
inductive TapSt where
  | reset | idle | selDr | capDr | shDr | ex1Dr | paDr | ex2Dr | updDr | selIr | capIr | shIr | ex1Ir | paIr | ex2Ir | updIr
  deriving DecidableEq, Repr

/-- The TAP and the last DBGACC access. -/
structure Tap where
  st    : TapSt := .reset
  /-- Update-DR has been entered and its access has not begun. -/
  upd   : Bool := false
  ir    : BitVec 4 := 1
  irSh  : BitVec 4 := 0
  dr    : BitVec 57 := 0
  ready : Bool := true
  addr  : BitVec 24 := 0
  data  : BitVec 32 := 0
  tdo   : Option Bool := none
  deriving DecidableEq, Repr

/-- The answer of a timed-out access that an island still owes (R478): the island, and the write. -/
structure Owed where
  island : Nat
  wr     : Option (BitVec 24 × BitVec 32)
  deriving DecidableEq, Repr

/-- An access of the management port or of the TAP that has begun: its path, its address, the data of a write, and whether Update-DR
began it (R474, R479). -/
structure Access where
  src  : Src
  addr : BitVec 24
  wr   : Option (BitVec 32)
  dr   : Bool := false
  deriving DecidableEq, Repr

/-- Island 1: the shared latch, the last read data, the accesses that have begun and wait, in order of beginning, and the answers
that islands still owe, oldest first. -/
structure Mgmt where
  latchV : Bool := false
  latchA : BitVec 24 := 0
  latchW : List (BitVec 32) := []
  rdata  : BitVec 32 := 0
  waiting : List Access := []
  owed   : List Owed := []
  fatalSafe : Bool := false
  fatalG : BitVec 8 := 0
  deriving DecidableEq, Repr

/-- The integration ties, constant while the block is powered (R7 to R9, R456). -/
structure Ties where
  xupres   : BitVec 8 := 0xFF
  memports : Nat := 12
  pinpads  : BitVec 128 := BitVec.allOnes 128
  bootmode : BitVec 2 := 0
  authsig  : Bool := false
  alten    : Bool := false
  keyhash  : BitVec 256 := 0
  idcode   : BitVec 31 := 0
  deriving DecidableEq, Repr

/-- One Llynon path: words in flight and the receive buffer of 8 words (R410), as the messages of the path. -/
inductive Message where
  | ingress (m : IngressMsg)
  | desc (d : Desc)
  | credit
  | window (r : PwReq)
  | signal (th : Thid) (line : BitVec 3)
  | pin (port pin act : Nat) (g k : Nat)
  | lookup (r : LkReq)
  | record (r : Rec)
  /-- The boundary marker that starts tick n (R374). -/
  | marker (n : Nat)
  /-- The marker that an island sends as it leaves ON. -/
  | leave
  deriving DecidableEq, Repr

/-- A link: what waits for credits at the sender, what has left it, what is in the receive buffer, each oldest first, and the
sender's credits (R410). -/
structure Link where
  wait   : List Message := []
  out    : List Message := []
  buf    : List Message := []
  credit : Nat := 8
  deriving DecidableEq, Repr

/-- The whole state of the block. -/
structure State where
  pending : List Instr
  ties    : Ties
  /-- Heartwood cycles since power-on: the timeline on which deadlines are measured (log entry 4). -/
  hw      : Nat
  /-- How many free values have been used (log entry 3). -/
  freeCtr : Nat
  regs    : SMap (BitVec 32)
  /-- The registers as they stood at the last tick boundary, which the functions of R29 use. -/
  tregs   : SMap (BitVec 32)
  /-- Staged words of wide registers, by their address (R481). -/
  stag    : SMap (BitVec 32)
  ctrs    : SMap (BitVec 64)
  /-- The statistics snapshot of the last tick boundary (R29). -/
  snap    : SMap (BitVec 64)
  time    : Time
  start   : Start
  power   : SMap Island
  points  : SMap Point
  mgmt    : Mgmt
  tap     : Tap
  nvm     : Nvm
  links   : SMap Link
  trunk   : Trunk
  ports   : SMap Port
  rings   : SMap Ring
  groves  : SMap Grove
  cores   : SMap Core
  threads : SMap Thread
  stalls  : SMap Stall
  /-- By grove; 8 is the clock of the trunk, 9 the place in the heartwood cycle that time has otherwise reached. -/
  beats   : SMap Beat
  lookup  : Lookup
  mems    : SMap MPort
  memRet  : Bool
  recd    : Recorder
  deriving DecidableEq, Repr

/-- The block right after power-on: PWRGOOD has risen, step 1 is done, the cold start's start reset runs (R427, R440). -/
def State.reset : State where
  pending := []
  ties := {}
  hw := 0
  freeCtr := 0
  regs := []
  tregs := []
  stag := []
  ctrs := []
  snap := []
  time := {}
  start := {}
  power := [(2, { st := .off })]
  points := []
  mgmt := {}
  tap := {}
  nvm := {}
  links := []
  trunk := {}
  ports := []
  rings := []
  groves := []
  cores := []
  threads := []
  stalls := []
  beats := []
  lookup := {}
  mems := []
  memRet := false
  recd := {}

end Sys2Proof.Machine
end

