-- ==== Sys2Proof/Machine/Regs.lean ====
section
/-!
DEFINITION. Bit fields, lanes, the management addresses of the register groups (R486), and the plain accessors of State: one
read and one write for each collection it holds.
-/
namespace Sys2Proof.Machine

/-! ## Bits and lanes -/

/-- Field of `len` bits from bit `lo` of a word, as a number. -/
def fld {n : Nat} (v : BitVec n) (lo len : Nat) : Nat := (v.toNat >>> lo) % 2 ^ len

/-- Bit i of a word. -/
def bit {n : Nat} (v : BitVec n) (i : Nat) : Bool := v.getLsbD i

/-- A bit as 0 or 1. -/
def b1 (b : Bool) : Nat := if b then 1 else 0

/-- The word with its `len` bits from `lo` replaced by x. -/
def setFld {n : Nat} (v : BitVec n) (lo len x : Nat) : BitVec n :=
  (v &&& ~~~(BitVec.ofNat n ((2 ^ len - 1) <<< lo))) ||| BitVec.ofNat n ((x % 2 ^ len) <<< lo)

/-- The word with bit i set or cleared. -/
def setBit {n : Nat} (v : BitVec n) (i : Nat) (b : Bool) : BitVec n := setFld v i 1 (b1 b)

/-- A 72-bit word from a number, modulo 2^72. -/
def wordOf (n : Nat) : Word := BitVec.ofNat 72 n

/-- Symbol i of a word (R12). -/
def lane (v : Word) (i : Nat) : BitVec 9 := v.extractLsb' (9 * i) 9

/-- All nine bits of each lane whose mask bit is 1. -/
def laneMask (m : BitVec 8) : Word :=
  (upto 8).foldl (fun acc i => if bit m i then acc ||| (BitVec.ofNat 72 (0x1FF <<< (9 * i))) else acc) 0

/-- The word that keeps the lanes of `old` outside the mask and takes those of `new` inside it. -/
def mergeLanes (old new : Word) (m : BitVec 8) : Word := (old &&& ~~~(laneMask m)) ||| (new &&& laneMask m)

/-- The mask of n lanes from lane `first`. -/
def lanesFrom (first n : Nat) : BitVec 8 := BitVec.ofNat 8 ((2 ^ n - 1) <<< first)

/-- Lanes first to first + n − 1 moved to lanes 0 to n − 1, the others 0. -/
def takeLanes (v : Word) (first n : Nat) : Word := (v >>> (9 * first)) &&& BitVec.ofNat 72 (2 ^ (9 * n) - 1)

/-- The word made of eight symbols, symbol 0 first; missing symbols are 0. -/
def ofLanes (l : List (BitVec 9)) : Word :=
  (upto 8).foldl (fun acc i => acc ||| (BitVec.ofNat 72 (((l[i]?.getD 0).toNat) <<< (9 * i)))) 0

/-- A signed field of n bits as an integer. -/
def sgn (n x : Nat) : Int := if x % 2 ^ n < 2 ^ (n - 1) then (x % 2 ^ n : Nat) else ((x % 2 ^ n : Nat) : Int) - (2 ^ n : Nat)

/-- The remainder of an integer modulo 2^72, as a word. -/
def wordOfInt (i : Int) : Word := BitVec.ofInt 72 i

/-! ## Threads and addresses -/

/-- The grove of thread number th (R186). -/
def thG (th : Nat) : Nat := th / 512 % 8
/-- The core of thread number th within its grove. -/
def thC (th : Nat) : Nat := th / 16 % 32
/-- The thread within its core. -/
def thT (th : Nat) : Nat := th % 16
/-- The number of thread t of core c of grove g. -/
def thid (g c t : Nat) : Nat := g * 512 + c * 16 + t
/-- The key of core c of grove g. -/
def coreKey (g c : Nat) : Nat := g * 32 + c
/-- The core of a thread. -/
def thCore (th : Nat) : Nat := coreKey (thG th) (thC th)

/-- First management address of grove g (R486). -/
def aGrove (g : Nat) : Nat := 0x800000 + g * 0x100000
/-- First address of core c of grove g (R180). -/
def aCore (g c : Nat) : Nat := aGrove g + 0x1000 * c
/-- First address of a thread's registers (R180). -/
def aThread (th : Nat) : Nat := aCore (thG th) (thC th) + 0x100 + 0x40 * thT th
/-- Timer unit (R389). -/
def aTimers (g : Nat) : Nat := aGrove g + 0x70000
/-- Lock unit (R318). -/
def aLocks (g : Nat) : Nat := aGrove g + 0x80000
/-- Bank control (R316). -/
def aBanks (g : Nat) : Nat := aGrove g + 0x90000
/-- Instruction store (R193). -/
def aIstore (g : Nat) : Nat := aGrove g + 0xA0000
/-- DMA engine (R319). -/
def aDma (g : Nat) : Nat := aGrove g + 0xB0000
/-- Dispatch interface (R73). -/
def aDisp (g : Nat) : Nat := aGrove g + 0xC0000
/-- Grove exceptions and INITRPT (R284, R453). -/
def aExc (g : Nat) : Nat := aGrove g + 0xD0000
/-- Helpers (R255). -/
def aHelp (g : Nat) : Nat := aGrove g + 0xE0000
/-- Extension port (R255). -/
def aExt (g : Nat) : Nat := aGrove g + 0xF0000
/-- Port island of port p (R486). -/
def aIsland (p : Nat) : Nat := 0x40000 + (p / 32) * 0x10000
/-- Engine e of port p (R146). -/
def aEngine (p e : Nat) : Nat := aIsland p + (p % 32) * 0x400 + 0x100 + e * 0x80
/-- Port control block of port p (R105). -/
def aPort (p : Nat) : Nat := aIsland p + 0xF000 + 16 * (p % 32)
/-- Egress registers of port p (R102). -/
def aEgress (p : Nat) : Nat := 0x88000 + 0x40 * p
/-- Ring r (R106). -/
def aRing (r : Nat) : Nat := 0x12000 + 0x20 * r

/-- The island of an address; none outside every range of R486. -/
def islandOf (a : Nat) : Option Nat :=
  if a < 0x10000 then some 1
  else if a < 0x10080 then some 0
  else if 0x11000 ≤ a && a < 0x12200 then some 0
  else if 0x13000 ≤ a && a < 0x13400 then some 0
  else if 0x14000 ≤ a && a < 0x15000 then some 0
  else if 0x20000 ≤ a && a < 0x21000 then some 1
  else if 0x40000 ≤ a && a < 0x80000 then some (6 + (a - 0x40000) / 0x10000)
  else if 0x80000 ≤ a && a < 0x86000 then some 3
  else if 0x88000 ≤ a && a < 0x8D000 then some 3
  else if 0xA0000 ≤ a && a < 0xC0000 then some 4
  else if 0xC0000 ≤ a && a < 0xE1000 then some 5
  else if 0x800000 ≤ a && a < 0x1000000 then some (10 + (a - 0x800000) / 0x100000)
  else none

/-! ## State accessors -/

/-- A register of the map: 32 bits, 0 when nothing is listed. -/
def State.reg (s : State) (a : Nat) : BitVec 32 := mget 0 s.regs a
/-- Write a register of the map. -/
def State.setReg (s : State) (a : Nat) (v : BitVec 32) : State := { s with regs := mput 0 s.regs a v }
/-- Set sticky bits of a register. -/
def State.orReg (s : State) (a : Nat) (v : BitVec 32) : State := s.setReg a (s.reg a ||| v)
/-- The value of a register at the last tick boundary (R29). -/
def State.treg (s : State) (a : Nat) : BitVec 32 := mget 0 s.tregs a
/-- A 64-bit counter, by the address of its low word (R67). -/
def State.ctr (s : State) (a : Nat) : BitVec 64 := mget 0 s.ctrs a
/-- Add n to a counter; it wraps modulo 2^64 (R67). -/
def State.count (s : State) (a : Nat) (n : Nat := 1) : State :=
  { s with ctrs := mput 0 s.ctrs a (s.ctr a + BitVec.ofNat 64 n) }

def State.thread (s : State) (th : Nat) : Thread := mget {} s.threads th
def State.setThread (s : State) (th : Nat) (t : Thread) : State := { s with threads := mput {} s.threads th t }
def State.modThread (s : State) (th : Nat) (f : Thread → Thread) : State := s.setThread th (f (s.thread th))
def State.core (s : State) (k : Nat) : Core := mget {} s.cores k
def State.setCore (s : State) (k : Nat) (c : Core) : State := { s with cores := mput {} s.cores k c }
def State.modCore (s : State) (k : Nat) (f : Core → Core) : State := s.setCore k (f (s.core k))
def State.grove (s : State) (g : Nat) : Grove := mget {} s.groves g
def State.setGrove (s : State) (g : Nat) (v : Grove) : State := { s with groves := mput {} s.groves g v }
def State.modGrove (s : State) (g : Nat) (f : Grove → Grove) : State := s.setGrove g (f (s.grove g))
def State.stall (s : State) (g : Nat) : Stall := mget {} s.stalls g
def State.setStall (s : State) (g : Nat) (v : Stall) : State := { s with stalls := mput {} s.stalls g v }
def State.beat (s : State) (g : Nat) : Beat := mget {} s.beats g
def State.setBeat (s : State) (g : Nat) (v : Beat) : State := { s with beats := mput {} s.beats g v }
def State.port (s : State) (p : Nat) : Port := mget {} s.ports p
def State.setPort (s : State) (p : Nat) (v : Port) : State := { s with ports := mput {} s.ports p v }
def State.modPort (s : State) (p : Nat) (f : Port → Port) : State := s.setPort p (f (s.port p))
def State.ring (s : State) (r : Nat) : Ring := mget {} s.rings r
def State.setRing (s : State) (r : Nat) (v : Ring) : State := { s with rings := mput {} s.rings r v }
def State.modRing (s : State) (r : Nat) (f : Ring → Ring) : State := s.setRing r (f (s.ring r))
def State.link (s : State) (k : Nat) : Link := mget {} s.links k
def State.setLink (s : State) (k : Nat) (v : Link) : State := { s with links := mput {} s.links k v }
def State.mem (s : State) (p : Nat) : MPort := mget {} s.mems p
def State.setMem (s : State) (p : Nat) (v : MPort) : State := { s with mems := mput {} s.mems p v }
def State.modMem (s : State) (p : Nat) (f : MPort → MPort) : State := s.setMem p (f (s.mem p))
def State.isl (s : State) (i : Nat) : Island := mget {} s.power i
def State.setIsl (s : State) (i : Nat) (v : Island) : State := { s with power := mput {} s.power i v }
def State.point (s : State) (g : Nat) : Point := mget {} s.points g
def State.setPoint (s : State) (g : Nat) (v : Point) : State := { s with points := mput {} s.points g v }

/-- Engine e of port p. -/
def State.eng (s : State) (p e : Nat) : Engine := mget {} (s.port p).engines e
def State.setEng (s : State) (p e : Nat) (v : Engine) : State :=
  s.modPort p (fun q => { q with engines := mput {} q.engines e v })
def State.modEng (s : State) (p e : Nat) (f : Engine → Engine) : State := s.setEng p e (f (s.eng p e))
/-- DMA channel k of grove g. -/
def State.dma (s : State) (g k : Nat) : Dma := mget {} (s.grove g).dma k
def State.setDma (s : State) (g k : Nat) (v : Dma) : State :=
  s.modGrove g (fun q => { q with dma := mput {} q.dma k v })
/-- Timer channel k of grove g. -/
def State.timer (s : State) (g k : Nat) : Timer := mget {} (s.grove g).timers k
def State.setTimer (s : State) (g k : Nat) (v : Timer) : State :=
  s.modGrove g (fun q => { q with timers := mput {} q.timers k v })
/-- Lock u of grove g. -/
def State.lock (s : State) (g u : Nat) : Lock := mget {} (s.grove g).locks u
def State.setLock (s : State) (g u : Nat) (v : Lock) : State :=
  s.modGrove g (fun q => { q with locks := mput {} q.locks u v })
/-- Channel u of grove g. -/
def State.chan (s : State) (g u : Nat) : Chan := mget {} (s.grove g).chans u
def State.setChan (s : State) (g u : Nat) (v : Chan) : State :=
  s.modGrove g (fun q => { q with chans := mput {} q.chans u v })

/-! ## General registers of a thread -/

/-- General register r: g0 reads 0 (R183). -/
def Thread.greg (t : Thread) (r : Nat) : Word := if r = 0 then 0 else mget 0 t.g r

/-- Write general register r: a write to g0 is discarded (R183); a write stores fresh check bits. -/
def Thread.setGreg (t : Thread) (r : Nat) (v : Word) : Thread :=
  if r = 0 then t else { t with g := mput 0 t.g r v, ecc := mdel t.ecc r }

/-- PROG of the status (R185). -/
def Thread.prog (t : Thread) : Nat := fld t.status 16 6
/-- Write PROG. -/
def Thread.setProg (t : Thread) (k : Nat) : Thread := { t with status := setFld t.status 16 6 k }
/-- The thread is in S mode. -/
def Thread.isS (t : Thread) : Bool := bit t.status 31
/-- Advance the PC by n parcels, modulo 2^24 (R191). -/
def Thread.adv (t : Thread) (n : Nat) : Thread := { t with pc := t.pc + BitVec.ofNat 24 n }

/-! ## Islands that are up -/

/-- Island i is ON and not held in a start reset: islands 0 and 1 aside, a start holds the others until its reset is done. -/
def State.islandUp (s : State) (i : Nat) : Bool :=
  match s.start.phase with
  | .off => false
  | .srst | .due => i = 0
  | .safe => i ≤ 1
  | _ => (s.isl i).st = .on

/-! ## Rings and ports -/

/-- RINGCFG.EN of ring r. -/
def State.ringEn (s : State) (r : Nat) : Bool := bit (s.reg (aRing r)) 31
/-- PORTA and PORTB of ring r. -/
def State.portA (s : State) (r : Nat) : Nat := fld (s.reg (aRing r)) 8 7
def State.portB (s : State) (r : Nat) : Nat := fld (s.reg (aRing r)) 16 7

/-- The rings that a start reset keeps: in attempt 0 of a warm start those with EARLY set (R100, R445). -/
def State.keptRings (s : State) : List Nat :=
  if s.start.warm && s.start.attempt = 0 then
    (upto 16).filter (fun r => s.ringEn r && bit (s.reg (aRing r)) 30 && (s.ring r).lane)
  else []

/-- The ports of kept rings. -/
def State.keptPorts (s : State) (rings : List Nat) : List Nat := rings.flatMap (fun r => [s.portA r, s.portB r])

/-- A start reset runs: island 1 does not answer (R422, R470). -/
def State.inReset (s : State) : Bool := s.start.phase = .srst || s.start.phase = .due

/-- Island i takes register accesses: it is ON and not changing state (R415). -/
def State.islandOpen (s : State) (i : Nat) : Bool := s.islandUp i && (s.isl i).goal.isNone

/-- Grove cycles in 5 ns at the active clock point: 1.2 GHz and 0.2 GHz a point (R419). -/
def State.groveRate (s : State) (g : Nat) : Nat := 6 + (s.point g).pta
/-- The first unit of 2^-32 s of a heartwood cycle at or after the beginning of cycle k of a clock with n cycles in 5 ns. -/
def unitsUp (k n : Nat) : Nat := (k * 5 * 4294967296 + n * 1000000000 - 1) / (n * 1000000000)

/-- Cycles in 5 ns of clock k: a grove's, or the trunk's 8. -/
def State.rateOf (s : State) (k : Nat) : Nat := if k < 8 then s.groveRate k else 8

/-- Where in the heartwood cycle time stands, in units of 2^-32 s: no clock goes back behind it (R357). -/
def State.phase (s : State) : Nat := (upto 10).foldl (fun p k => max p (s.beat k).last) 0

/-- The next cycle of clock k in this heartwood cycle, if it has one left. -/
def State.nextBeat (s : State) (k : Nat) : Option Nat :=
  let p := s.phase
  (upto (s.rateOf k)).find? (fun j => (s.beat k).begun ≤ j && p ≤ unitsUp j (s.rateOf k))

/-- The places of clocks in the heartwood cycle when all of them stop: time stays where it is. -/
def State.stillBeats (s : State) : SMap Beat := mput {} [] 9 { last := s.phase }

/-- Grove g is ON. -/
def State.groveOn (s : State) (g : Nat) : Bool := s.islandUp (10 + g)
/-- Input clock i is lost at present (R408): 0 MCLK, 1 MEMCLK, 2 to 5 PCLK0 to PCLK3. -/
def State.clkGone (s : State) (i : Nat) : Bool := bit s.time.clkLost i
/-- Port p works: its island is ON, is not changing state, and its clock is not lost (R408, R415; log entry 113). A start reset holds every port but those
of the rings that a warm start keeps (R100, R145, R422). -/
def State.portOn (s : State) (p : Nat) : Bool :=
  !s.clkGone (2 + p / 32) && (s.islandOpen (6 + p / 32) || (s.inReset && (s.keptPorts s.keptRings).contains p))
/-- Grove g is ON and is not changing state (R415). -/
def State.groveOpen (s : State) (g : Nat) : Bool := s.islandOpen (10 + g)
/-- Port p counts as UP for R95 and R99: a port that has lost its clock does not (R408). -/
def State.portLive (s : State) (p : Nat) : Bool := (s.port p).st = .up && !s.clkGone (2 + p / 32)

end Sys2Proof.Machine
end

