-- ==== Sys2Proof/Machine/Flags.lean ====
section
/-!
DEFINITION. The flag computations of R184, R223 and R224: exact results of 72-bit arithmetic and the flags they set.
-/
namespace Sys2Proof.Machine

/-- Z and N of a result (R184). -/
def flagsZN (st : BitVec 32) (r : Word) : BitVec 32 := setBit (setBit st 0 (r = 0)) 1 (bit r 71)

/-- Z, N, C and V of a result. -/
def flagsAll (st : BitVec 32) (r : Word) (c v : Bool) : BitVec 32 := setBit (setBit (flagsZN st r) 2 c) 3 v

/-- The value of a word as a signed number. -/
def sval (w : Word) : Int := w.toInt

/-- The signed number lies outside 72 bits (V of R184). -/
def sOver (i : Int) : Bool := i < -(2 ^ 71 : Int) || i ≥ (2 ^ 71 : Int)

/-- a + b + carry: the result, the carry out of bit 71, and signed overflow of the whole operation (R184, R223). -/
def addc (a b : Word) (cin : Bool) : Word × Bool × Bool :=
  let n := a.toNat + b.toNat + b1 cin
  (wordOf n, n ≥ 2 ^ 72, sOver (sval a + sval b + (b1 cin : Nat)))

/-- a − b − (1 − carry): C is 1 when no borrow occurs (R184, R223). -/
def subc (a b : Word) (cin : Bool) : Word × Bool × Bool :=
  let need := b.toNat + b1 (!cin)
  (a - b - wordOf (b1 (!cin)), a.toNat ≥ need, sOver (sval a - sval b - (b1 (!cin) : Nat)))

/-- Left shift by n (0 to 127) with the carry of R224: none when C is unchanged. -/
def shlc (a : Word) (n : Nat) : Word × Option Bool :=
  (a <<< n, if n = 0 then none else some (n ≤ 72 && bit a (72 - n)))

/-- Logical right shift with its carry. -/
def shrc (a : Word) (n : Nat) : Word × Option Bool :=
  (a >>> n, if n = 0 then none else some (n ≤ 72 && bit a (n - 1)))

/-- Arithmetic right shift with its carry. -/
def sarc (a : Word) (n : Nat) : Word × Option Bool :=
  (a.sshiftRight n, if n = 0 then none else some (if n ≤ 72 then bit a (n - 1) else bit a 71))

/-- Rotation left by n modulo 72 with its carry. -/
def rolc (a : Word) (n : Nat) : Word × Option Bool :=
  let m := n % 72
  let r := a.rotateLeft m
  (r, if m = 0 then none else some (bit r 0))

/-- Flags of a shift: Z, N, and C unless it is unchanged. -/
def flagsShift (st : BitVec 32) (r : Word) (c : Option Bool) : BitVec 32 :=
  match c with
  | none => flagsZN st r
  | some b => setBit (flagsZN st r) 2 b

/-- The number of leading 0 bits of a word, 0 to 72 (R225). -/
def clz72 (a : Word) : Nat :=
  match (upto 72).find? (fun i => bit a (71 - i)) with
  | some i => i
  | none => 72

/-- The carry-less product of two words, up to 143 bits (R231). -/
def clmul (a b : Word) : Nat := (upto 72).foldl (fun acc i => if bit b i then acc ^^^ (a.toNat <<< i) else acc) 0

end Sys2Proof.Machine
end

