-- ==== Sys2Proof/Config.lean ====
section
/-!
DEFINITION. The free values: constants without a body, so that nothing in Lean can evaluate them. Each is applied to the
counter freeCtr of the state, which the step that uses it advances (log entry 3).
-/
namespace Sys2Proof.Config

/-- Which of the free cells the trunk takes (R32 leaves it open). -/
opaque freeCell : Nat → Nat

/-- Which of the free collector slots sequence assignment takes (R44 leaves it open). -/
opaque freeSlot : Nat → Nat

/-- Which of the free tags a memory request takes (R391 leaves it open). -/
opaque freeTag : Nat → Nat

/-- The advance of Block Time from the internal oscillator in one heartwood cycle, within the bound of R409. -/
opaque oscillator : Nat → Nat

/-- A field that the spec does not fix, or the outcome of a choice that it leaves open, other than the four above. -/
opaque freeField : Nat → Nat

/-- The place of an island's copy of Block Time within the 0.5 ns of R357, by the island and the heartwood cycle; island 0 gives the
place of the interval. -/
opaque copySkew : Nat → Nat → Nat

/-- A word of external memory that the block did not write since it last knew it: applied to the counter and the word's place. -/
opaque freeWord : Nat → Nat → Word

end Sys2Proof.Config
end

