-- ==== Sys2Proof/Machine/Ops.lean ====
section
/-!
DEFINITION. The operations that several families share: Block Time, links and records (R366 to R369), free values, thread
waits, taking an exception and holding a thread (R257, R270 to R272), and the grove's descriptors (R49 to R57, R64, R175).
-/
namespace Sys2Proof.Machine

/-! ## Time, links, free values -/

/-- The master copy of Block Time: that of the heartwood cycle and what has passed of the cycle (R357). -/
def State.now (s : State) : Nat := s.time.bt + s.phase

/-- Block Time as the 72-bit word of the Glossary: seconds in 71:32, fraction below. -/
def State.btime (s : State) : Word := wordOf s.now

/-- Block Time as whole nanoseconds since zero (R27). -/
def nsOf (bt : Nat) : Nat := bt * 1000000000 / 4294967296

/-- The canopy tick in which a Block Time lies (R27). -/
def tickOf (bt : Nat) : Nat := nsOf bt / 2 ^ 20

/-- The tick count that Block Time gives (R27, R30). -/
def State.tickNow (s : State) : Nat := tickOf s.now

/-- Where the copy of island i stands when the master stands at t: the heartwood's is the master, and every other lies in an interval of
2 units of 2^-32 s that holds the master, so that any two differ by at most 0.466 ns. The place of the interval is a free value, and the
place of each copy in it follows free values (R357; log entry 92). -/
def State.copyWhen (s : State) (i t : Nat) : Nat :=
  if i = 0 then t else t + min 2 (s.time.skews[i]?.getD 0) - Config.copySkew 0 0 % 3

/-- The copy of island i (R357). -/
def State.copyOf (s : State) (i : Nat) : Nat := s.copyWhen i s.now

/-- What f gives on the copy of an island. The copy lies within 2 units of the master: where f does not tell those values apart it is
that, whatever the copy. -/
def State.onCopy {α : Type} [DecidableEq α] (s : State) (i : Nat) (f : Nat → α) : α :=
  if (upto 5).all (fun d => decide (f (s.now + d - 2) = f (s.now - 2))) then f (s.now - 2) else f (s.copyOf i)

/-- The stamp that an island takes from its copy of Block Time (R357, R358). -/
def State.stamp (s : State) (i : Nat) : Word := wordOf (s.copyOf i)

/-- BTNS of an island's copy. -/
def State.btns (s : State) (i : Nat) : Nat := nsOf (s.copyOf i)

/-- The tick in which the copy of island i stands (R27). -/
def State.islTick (s : State) (i : Nat) : Nat := if i = 0 then s.tickNow else s.onCopy i tickOf

/-- The last tick that island i has begun. -/
def Time.begunBy (t : Time) (i : Nat) : Nat := if i = 0 then t.closed else mget 0 t.begun i

/-- No copy has passed a boundary that its island has still to begin when time stands p units into the heartwood cycle. -/
def State.clearAt (s : State) (p : Nat) : Bool :=
  let n := tickOf (s.time.bt + p + 2)
  (upto 18).all (fun i => n ≤ s.time.begunBy i)

/-- The next cycle of clock k can begin: it has one left in this heartwood cycle, and no boundary comes before it (R27; log entry 4). -/
def State.beatReady (s : State) (k : Nat) : Bool :=
  match s.nextBeat k with
  | some j => s.clearAt (unitsUp j (s.rateOf k))
  | none => false

/-- Clock k begins its next cycle. -/
def State.beatOn (s : State) (k : Nat) : State :=
  let j := (s.nextBeat k).getD (s.beat k).begun
  s.setBeat k { s.beat k with begun := j + 1, last := unitsUp j (s.rateOf k) }

/-- Count events with their stamp (R28, R29): those of an earlier tick than their counter's island has begun also belong to the snapshot
taken since, those of a later one not to the snapshot that comes next. -/
def State.countAt (s : State) (a : Nat) (stamp : Word) (n : Nat := 1) : State :=
  let t := tickOf stamp.toNat
  let b := match islandOf a with | some i => s.time.begunBy i | none => t
  let c := BitVec.ofNat 64 n
  let s := s.count a n
  if !s.time.acq then s
  else if t < b then { s with snap := mput 0 s.snap a (mget 0 s.snap a + c) }
  else if b < t then { s with time := { s.time with ahead := mput 0 s.time.ahead a (mget 0 s.time.ahead a + c) } }
  else s

/-- The key of a Llynon path in the state's links. -/
def pathKey : LinkPath → Nat
  | .ingress p => p.val
  | .descriptor g => 128 + g.val
  | .credit g => 136 + g.val
  | .window g => 144 + g.val
  | .signal g => 152 + g.val
  | .pin k => 160 + k.val
  | .lookup g => 168 + g.val
  | .record i => 176 + i.val
  | .completion g => 194 + g.val
  | .copy p => 202 + p.val

/-- The words of the link that a message takes; one longer than the receive buffer takes all of it (R410; log entry 94). -/
def Message.size : Message → Nat
  | .record r => min 8 (2 * r.words.length)
  | .desc _ | .lookup _ => 3
  | .window r => if r.write then 2 else 1
  | .ingress (.fin _ _ _) => 2
  | _ => 1

/-- What waits leaves the sender as far as its credits go, at most n messages (R410). -/
def Link.send (l : Link) : Nat → Link
  | 0 => l
  | n + 1 =>
    match l.wait with
    | [] => l
    | m :: rest =>
      if m.size ≤ l.credit then ({ l with wait := rest, out := l.out ++ [m], credit := l.credit - m.size } : Link).send n else l

/-- A message is given to its path; it leaves when the sender has credits for it (R21, R410). -/
def State.push (s : State) (k : Nat) (m : Message) : State :=
  let l := s.link k
  s.setLink k (({ l with wait := l.wait ++ [m] } : Link).send (l.wait.length + 1))

/-- The first message in the receive buffer of a path. -/
def State.peekLink (s : State) (k : Nat) : Option Message := (s.link k).buf.head?

/-- Take the first message out of the receive buffer: its credits return to the sender (R410). -/
def State.popLink (s : State) (k : Nat) : State :=
  let l := s.link k
  match l.buf with
  | [] => s
  | m :: rest => s.setLink k (({ l with buf := rest, credit := min 8 (l.credit + m.size) } : Link).send l.wait.length)

/-- Use one free value: the number it is applied to, and the state with the counter advanced (log entry 3). -/
def State.fresh (s : State) : Nat × State := (s.freeCtr, { s with freeCtr := s.freeCtr + 1 })

/-- The element of a nonempty list that a free value names; d when the list is empty. -/
def pickFrom (l : List Nat) (v d : Nat) : Nat := (l[v % max l.length 1]?).getD d

/-! ## Records -/

/-- SRCID: BLKID in [15:5], the island in [4:0] (R367). -/
def State.srcid (s : State) (island : Nat) : Nat := fld (s.reg 0xE0004) 0 11 * 32 + island

/-- Word 1 of a record (R367). -/
def recWord (kind srcid seq sum : Nat) : Word :=
  wordOf (kind * 2 ^ 68 + srcid * 2 ^ 52 + (seq % 65536) * 2 ^ 36 + sum % 2 ^ 36)

/-- Send a record with its continuations to the recorder's link (R21, R370). -/
def State.sendRec (s : State) (island kind seq sum : Nat) (time : Word) (conts : List Word) (ctrl : Bool) : State :=
  let src := s.srcid island
  let tail := (conts.zip (upto conts.length)).map
    (fun c => (c.1, recWord 0xF src seq ((c.2 + 1) * 2 ^ 34)))
  s.push (176 + island)
    (.record { island := island, words := (time, recWord kind src seq sum) :: tail, ctrl := ctrl })

/-- A control record of kind 5 or 6: recorded unless the active MODE is OFF, numbered by the island's count (R366, R368). -/
def State.ctrlRec (s : State) (island kind sum : Nat) (conts : List Word) : State :=
  if s.recd.modeA = 0 then s
  else
    let q := mget 0 s.recd.seqs island
    let s := { s with recd := { s.recd with seqs := mput 0 s.recd.seqs island ((q + 1) % 65536) } }
    s.sendRec island kind q sum (s.stamp island) conts true

/-- A CTRL event with its DETAIL (R369). -/
def State.event (s : State) (island ev detail : Nat) (conts : List Word) : State :=
  s.ctrlRec island 5 (ev * 2 ^ 28 + detail % 2 ^ 28) conts

/-- An uncorrectable memory error: the ECCU event with its area, and ECCUNCA (R369, R503). -/
def State.eccEvent (s : State) (island area g addr : Nat) : State :=
  (s.count 0x58).event island 0x09 (area * 2 ^ 24 + g * 2 ^ 21) [wordOf addr]

/-! ## Threads -/

/-- The base register of an outstanding load is not put back over a value that has landed in it since (R160, R222). -/
def Outst.keepLanded (o : Outst) (reg : Nat) : Outst :=
  { o with undo := o.undo.filter (fun u => u.1 ≠ reg) }

/-- Apply the pending landing: the register and P take the loaded values (R160). -/
def Thread.land (t : Thread) : Thread :=
  match t.landing with
  | none => t
  | some l =>
    let t := { t with landing := none, outst := t.outst.map (fun (o : Outst) => o.keepLanded l.reg) }.setGreg l.reg l.val
    match l.p with
    | none => t
    | some p => { t with status := setBit t.status 4 p }

/-- Something of an instruction of the thread is outstanding: a latched word, a load that has not landed, a request, an attempt. -/
def Thread.midway (t : Thread) : Bool :=
  t.latchV || t.landing.isSome || t.outst.isSome || t.tried || t.pendSt.isSome

/-- A single step ends once its instruction is complete: the thread halts with HCAUSE 3, whatever PROG the instruction has left, as a RETX
into a repeated instruction does (R276). -/
def Thread.stepEnd (t : Thread) : Thread :=
  if t.step.isSome && !t.midway && (t.wait = .ready || t.wait = .parkedDone || t.wait = .parked || t.wait = .desc) then
    { t with step := none, halted := true, hcause := 3 }
  else t

/-- A halt request takes effect at once on a thread that comes to DESC or PARKED, unless it is held (R275). -/
def Thread.stopHalt (t : Thread) : Thread :=
  if t.haltReq && !t.held && (t.wait = .parked || t.wait = .parkedDone || t.wait = .desc) then
    { t with halted := true, hcause := 1, haltReq := false, step := none }
  else t

/-- A ready thread that still has a request outstanding waits for it (R163). -/
def Thread.resumeWait (t : Thread) : Wait :=
  match t.outst with
  | some o => if o.unit = .extension then .xunit else .load
  | none => .ready

/-- A wait of the thread ends. -/
def Thread.wake (t : Thread) : Thread := ({ t with wait := .ready }).stepEnd

/-- The recovery thread of a grove (R267). -/
def State.recovery (s : State) (g : Nat) : Nat := g * 512 + fld (s.reg (aExc g)) 0 9

/-- Interrupt line i of a thread is set; `timer` also sets its TSRC bit (R265). -/
def State.setLine (s : State) (th i : Nat) (timer : Bool) : State :=
  s.modThread th (fun t =>
    { t with lines := setBit t.lines i true, tsrc := if timer then setBit t.tsrc i true else t.tsrc })

/-- SHARE of a thread: its MODE (R49). -/
def State.shareMode (s : State) (th : Nat) : Nat := fld (s.reg (aDisp (thG th) + 4 * (th % 512))) 2 2
/-- SHARE of a thread: the entries it may hold (R49). -/
def State.shareSize (s : State) (th : Nat) : Nat :=
  match s.shareMode th with
  | 1 => fld (s.reg (aDisp (thG th) + 4 * (th % 512))) 0 2 + 1
  | 2 => 1
  | _ => 0
/-- The thread has a share of MODE 1 or 2. -/
def State.hasShare (s : State) (th : Nat) : Bool := s.shareMode th = 1 || s.shareMode th = 2
/-- The core of the thread is in service mode. -/
def State.thService (s : State) (th : Nat) : Bool := (s.core (thCore th)).service

/-! ## Taking an exception (R256 to R258) -/

def causeILLOP : Nat := 0x01
def causeRSVD : Nat := 0x02
def causePRIV : Nat := 0x03
def causePRIVRET : Nat := 0x04
def causeDACC : Nat := 0x05
def causeSTKBND : Nat := 0x06
def causeRSOVF : Nat := 0x07
def causeRSUNF : Nat := 0x08
def causeXUNIMP : Nat := 0x09
def causeXERR : Nat := 0x0A
def causeECCU : Nat := 0x0B
def causeLOCKORD : Nat := 0x0C
def causeCHABRT : Nat := 0x0D
def causeTRAP : Nat := 0x0E
def causeBREAK : Nat := 0x0F
def causeTIMER : Nat := 0x10
def causeEVENT : Nat := 0x11
def causeSTALL : Nat := 0x12
def causeNMIEXT : Nat := 0x13
def causeWDOG : Nat := 0x14

/-- A return stack entry (R216). -/
def stackEntry (kind : Bool) (status : BitVec 32) (pc : BitVec 24) : Word :=
  wordOf (b1 kind * 2 ^ 56 + status.toNat * 2 ^ 24 + pc.toNat)

/-- Push an entry; the caller has checked RSP. -/
def Thread.pushR (t : Thread) (e : Word) : Thread :=
  { t with rstack := mput 0 t.rstack t.rsp e, rsp := t.rsp + 1, ecc := mdel t.ecc (48 + t.rsp) }

/-- The EXC event of an entry or a hold (R369); TIMER, EVENT, TRAP and BREAK only with EXCALL (R366). -/
def State.excRecord (s : State) (th cause : Nat) (hold : Bool) (pc : BitVec 24) : State :=
  if (cause = causeTIMER || cause = causeEVENT || cause = causeTRAP || cause = causeBREAK) && !bit s.recd.ctlA 27 then s
  else s.event (10 + thG th) 0x02 (th * 2 ^ 16 + cause * 2 ^ 10 + b1 hold * 2 ^ 9)
    [wordOf ((s.thread th).badaddr.toNat * 2 ^ 24 + pc.toNat)]

/-- The grove declares a fatal error (R272). -/
def State.groveFatal (s : State) (g ocause : Nat) (wdog : Bool) : State :=
  let s := s.modGrove g (fun v => { v with fatal := true })
  let s := { s with mgmt := { s.mgmt with fatalG := setBit s.mgmt.fatalG g true } }
  s.event (10 + g) 0x03 (g * 2 ^ 25 + ocause * 2 ^ 19 + b1 wdog * 2 ^ 18) []

/-- Hold a thread: reason 1 a full return stack (R270), reason 2 a fatal exception (R271). What the entry would have written is kept
for a retry (R273). -/
def State.hold (s : State) (th reason ocause : Nat) (pc : BitVec 24) (e : Retry) : State :=
  let g := thG th
  let s := s.modThread th (fun t =>
    let cause := if reason = 1 then causeRSOVF else causeECCU
    { t with
      lcrpc := pc, lcrst := t.status, cause := BitVec.ofNat 6 cause, ocause := BitVec.ofNat 6 ocause,
      hreason := BitVec.ofNat 2 reason, held := true, wait := .ready, step := none, tried := false, latchV := false, retryDue := false,
      landNext := none, outst := none, pendSt := none, retry := e })
  let s := s.modGrove g (fun v => { v with holdQ := v.holdQ ++ [{ th := th, reported := false }] })
  let s := s.excRecord th (if reason = 1 then causeRSOVF else causeECCU) true pc
  if th = s.recovery g then s.groveFatal g ocause false else s

/-- A thread takes an exception, all in one step (R257): the pending load lands first (R162). -/
def State.enter (s : State) (th cause : Nat) (pc : BitVec 24) (bad : Option (BitVec 40)) (badins : Option (BitVec 37))
    (kind : EntryKind) : State :=
  let t := (s.thread th).land
  if t.rsp ≥ 16 then (s.setThread th t).hold th 1 cause pc { bad := bad, badins := badins, kind := kind }
  else
    let rsp := t.rsp
    let t := t.pushR (stackEntry true t.status pc)
    let t := { t with
      cause := BitVec.ofNat 6 cause
      badaddr := bad.getD t.badaddr
      badins := badins.getD t.badins
      xNmi := match kind with | .nmi _ => true | _ => false
      xInt := match kind with | .line _ => true | _ => false
      xLine := match kind with | .line i => BitVec.ofNat 3 i | _ => t.xLine
      srcth := match kind with | .nmi src => BitVec.ofNat 12 src | _ => t.srcth
      nmiact := match kind with | .nmi _ => true | _ => t.nmiact
      nmidepth := match kind with | .nmi _ => BitVec.ofNat 5 rsp | _ => t.nmidepth
      status := setFld (setBit (setBit t.status 31 true) 30 false) 16 6 0
      pc := t.tvec
      wait := .ready, tried := false, latchV := false, landNext := none, outst := none, pendSt := none, retryDue := false }
    (s.setThread th t.stepEnd).excRecord th cause false pc

/-- The oldest request that has not been transferred is presented to the unit, from the next cycle on if it was not yet (R472). -/
def showX (cyc : Nat) : List XReq → List XReq
  | [] => []
  | r :: rest =>
    if r.xfer then r :: showX cyc rest
    else if r.since.isSome then r :: rest
    else { r with since := some (cyc + 1) } :: rest

/-- Replace the requests of the grove's extension unit. -/
def Grove.setX (v : Grove) (l : List XReq) : Grove := { v with xreqs := showX v.cyc l }

/-! ## Descriptors and completions -/

/-- The cells of a packet (R32). -/
def State.cellsOf (s : State) (cell : Nat) : List Nat :=
  match mfind s.trunk.pkts cell with
  | some p => p.cells
  | none => []

/-- Words of a packet of len symbols. -/
def wordsOf (len : Nat) : Nat := (len + 7) / 8

/-- The key in the buffer of word k of a packet with these cells (8 words in a cell). -/
def bufKey (cells : List Nat) (k : Nat) : Nat := 8 * (cells[k / 8]?.getD 0) + k % 8

/-- Word k of a packet as the packet window shows it: 0 beyond the packet, lanes beyond LEN 0 (R53, R208). -/
def State.pktWord (s : State) (cell len k : Nat) : Word :=
  if wordsOf len ≤ k then 0
  else mget 0 s.trunk.buf (bufKey (s.cellsOf cell) k) &&& laneMask (lanesFrom 0 (min 8 (len - 8 * k)))

/-- The error mark of word k of a packet: 1 corrected at a read, 2 uncorrectable (R503). -/
def State.pktMark (s : State) (cell len k : Nat) : Nat :=
  if wordsOf len ≤ k then 0 else mget 0 s.trunk.ecc (bufKey (s.cellsOf cell) k)

/-- A read of word k of a packet is counted, or reported when the word is uncorrectable (R503). -/
def State.pktCheck (s : State) (cell len k : Nat) : State :=
  match s.pktMark cell len k with
  | 0 => s
  | 1 => s.count 0x40
  | _ => s.eccEvent 3 3 0 (bufKey (s.cellsOf cell) k)

/-- Word k of a packet as the packet start loads it; of an uncorrectable word a free value is loaded and the error reported
(R503; log entry 96). -/
def State.startWord (s : State) (d : Desc) (k : Nat) : State × Word :=
  let r := s.pktCheck d.cell d.len k
  if s.pktMark d.cell d.len k = 2 then
    let (n, r) := r.fresh
    (r, Config.freeWord n k)
  else (r, s.pktWord d.cell d.len k)

/-- g1 to g3 of a descriptor (R53). -/
def Desc.g1 (d : Desc) : Word := wordOf (d.cell * 2 ^ 32 + d.tag * 2 ^ 16 + d.len)
def Desc.g3 (d : Desc) : Word :=
  wordOf (b1 d.err * 2 ^ 41 + d.ring * 2 ^ 37 + d.src * 2 ^ 35 + d.cls * 2 ^ 32 + d.port * 2 ^ 24 + d.dom * 2 ^ 16 + d.seq)

/-- The thread begins its first descriptor's packet (R53, R175). -/
def State.packetStart (s : State) (th : Nat) : State :=
  match (s.thread th).descs with
  | [] => s
  | d :: _ =>
    let t := (s.thread th).land
    let t := ((t.setGreg 1 d.g1).setGreg 2 d.its).setGreg 3 d.g3
    let r := (upto 12).foldl (fun (r : State × Thread) k =>
      let w := r.1.startWord d k
      (w.1, r.2.setGreg (4 + k) w.2)) (s, t)
    let t := r.2
    r.1.setThread th { t with
      pc := (s.reg (aThread th + 0x0C)).truncate 24
      status := setBit (setFld t.status 0 5 0) 31 (bit t.thcfgA 11)
      rsp := 0
      latchV := false
      wait := t.resumeWait }

/-- Indices 0 to 511 of a grove's threads in rotating order, starting after r. -/
def rotation (n r : Nat) : List Nat := (upto n).map (fun i => (r + 1 + i) % n)

/-- Entries of its share that a thread occupies: those of descriptors that it holds, and of those it gave up whose completions
still wait (R52, R64). -/
def State.entriesOf (s : State) (th : Nat) : Nat :=
  (s.thread th).descs.length + ((s.grove (thG th)).abandQ.filter (fun e => e.1 = th)).length

/-- The static thread that takes a descriptor: the fewest held, ties in rotating order (R52, R178). -/
def State.staticFor (s : State) (g : Nat) : Option Nat :=
  let cands := (rotation 512 (s.grove g).rotS).filter (fun i =>
    let th := g * 512 + i
    s.shareMode th = 1 && s.thService th && s.entriesOf th < s.shareSize th)
  let least := cands.foldl (fun m i => min m (s.thread (g * 512 + i)).descs.length) 5
  cands.find? (fun i => (s.thread (g * 512 + i)).descs.length = least)

/-- The waiting dynamic thread that is served next (R52). -/
def State.dynamicFor (s : State) (g : Nat) : Option Nat :=
  (rotation 512 (s.grove g).rotD).find? (fun i =>
    let th := g * 512 + i
    s.shareMode th = 2 && s.thService th && (s.thread th).descs = [] && (s.thread th).wait = .desc && !(s.thread th).held)

/-- Give a descriptor to a thread; one in DESC starts the packet (R175). -/
def State.giveDesc (s : State) (th : Nat) (d : Desc) : State :=
  let s := s.modThread th (fun t => { t with descs := t.descs ++ [d] })
  if (s.thread th).wait = .desc && !(s.thread th).held then s.packetStart th else s

/-- Serve the pool queue: the head goes to a waiting dynamic thread, else to a static thread with a free entry (R52). -/
def State.servePool (s : State) (g : Nat) : Nat → State
  | 0 => s
  | n + 1 =>
    match (s.grove g).poolQ with
    | [] => s
    | d :: rest =>
      match s.dynamicFor g with
      | some i =>
        ((s.modGrove g (fun v => { v with poolQ := rest, rotD := i })).giveDesc (g * 512 + i) d).servePool g n
      | none =>
        match s.staticFor g with
        | some i =>
          ((s.modGrove g (fun v => { v with poolQ := rest, rotS := i })).giveDesc (g * 512 + i) d).servePool g n
        | none => s

/-- Serve the whole pool queue of a grove. -/
def State.pool (s : State) (g : Nat) : State := s.servePool g (s.grove g).poolQ.length

/-- Place an arriving descriptor (R52). -/
def State.placeDesc (s : State) (g : Nat) (d : Desc) : State :=
  let s := s.modGrove g (fun v => { v with free := v.free - 1 })
  match (if (s.grove g).poolQ = [] then s.staticFor g else none) with
  | some i => (s.modGrove g (fun v => { v with rotS := i })).giveDesc (g * 512 + i) d
  | none => (s.modGrove g (fun v => { v with poolQ := v.poolQ ++ [d] })).pool g

/-- A descriptor entry of the grove frees: its credit leaves for the dispatcher and the pool is served (R51, R52). -/
def State.freeEntry (s : State) (g : Nat) : State :=
  ((s.modGrove g (fun v => { v with free := v.free + 1 })).push (136 + g) .credit).pool g

/-- Entries that a completion of n copies occupies (R56). -/
def cqNeed (n : Nat) : Nat := if n ≤ 2 then 1 else (n + 1) / 2

/-- Entries of the grove completion queue in use. -/
def Grove.cqOcc (v : Grove) : Nat := v.cq.foldl (fun a i => a + i.left) 0

/-- The completion queue has n free entries (64 in all). -/
def Grove.cqRoom (v : Grove) (n : Nat) : Bool := v.cqOcc + n ≤ 64

/-- The completion of a descriptor with its copies (R55). -/
def Desc.completion (d : Desc) (emits : List Emit) : Completion :=
  { tag := d.tag, dom := d.dom, seq := d.seq, cell := d.cell, emits := emits }

/-- Place a completion at the end of the grove's queue (R57). -/
def State.complete (s : State) (g : Nat) (c : Completion) : State :=
  s.modGrove g (fun v => { v with cq := v.cq ++ [{ comp := c, left := cqNeed c.emits.length }] })

/-- Completions of descriptors given up enter the queue while it has room, and their entries free (R64): at most n of them. -/
def State.serveAband (s : State) (g : Nat) : Nat → State
  | 0 => s
  | n + 1 =>
    match (s.grove g).abandQ with
    | [] => s
    | (_, d) :: rest =>
      if (s.grove g).cqRoom 1 then
        (((s.modGrove g (fun v => { v with abandQ := rest })).complete g (d.completion [])).freeEntry g).serveAband g n
      else s

/-- The thread gives up every descriptor it holds: their completions enter the queue at once as far as it has room, behind those
that wait already (R64). -/
def State.giveUp (s : State) (th : Nat) : State :=
  let ds := (s.thread th).descs
  let g := thG th
  ((s.modThread th (fun t => { t with descs := [] })).modGrove g (fun v =>
    { v with abandQ := v.abandQ ++ ds.map (fun d => (th, d)) })).serveAband g (((s.grove g).abandQ).length + ds.length)

end Sys2Proof.Machine
end

