-- ==== Sys2Proof/Machine/Counts.lean ====
section
/-!
DEFINITION. The counts of the timer channels (R378, R379, R382, R385): what a channel counts as the cycles of its grove begin.
-/
namespace Sys2Proof.Machine

/-- First address of channel k of grove g. -/
def aTimer (g k : Nat) : Nat := aTimers g + 0x40 * k
/-- TCTL. -/
def State.tctl (s : State) (g k : Nat) : BitVec 32 := s.reg (aTimer g k)
def State.modTimer (s : State) (g k : Nat) (f : Timer → Timer) : State := s.setTimer g k (f (s.timer g k))
/-- Set a sticky bit of TSTAT. -/
def State.tstat (s : State) (g k b : Nat) : State := s.orReg (aTimer g k + 0xC) (BitVec.ofNat 32 (2 ^ b))

/-- FROZEN: FRZ is 1, a thread of the channel's core is in HALT, and SRC is not ABS (R385). -/
def State.timFrozen (s : State) (g k : Nat) : Bool :=
  let c := s.tctl g k
  bit c 29 && fld c 30 2 ≠ 3 && (upto 16).any (fun t => (s.thread (thid g (fld c 24 5) t)).halted)

/-- CNT: the private count, or BTNS modulo 2^64 for ABS (R378). -/
def State.timCount (s : State) (g k : Nat) : BitVec 64 :=
  if fld (s.tctl g k) 30 2 = 3 then BitVec.ofNat 64 (s.btns (10 + g)) else (s.timer g k).cnt

/-- The channel counts n: an armed, unfrozen private count stops at TCMP, where its match is due (R378, R379, R385). -/
def State.timAdvance (s : State) (g k n : Nat) : State :=
  let t := s.timer g k
  if n = 0 || !t.armed || t.due || s.timFrozen g k then s
  else
    let d := (t.cmp - t.cnt).toNat
    if d ≤ n then s.setTimer g k { t with cnt := t.cmp, due := true }
    else s.setTimer g k { t with cnt := t.cnt + BitVec.ofNat 64 n }

/-- Every listed channel of a grove with this SRC counts n. -/
def State.timersAdvance (s : State) (g src n : Nat) : State :=
  ((s.grove g).timers.map (·.1)).foldl (fun s k => if fld (s.tctl g k) 30 2 = src then s.timAdvance g k n else s) s

/-- An edge of a grove output takes the count of the cycle that has begun, in which BTNS of the grove's copy is ns; a frozen channel
takes none (R382, R385). -/
def State.timEdges (s : State) (g ns k : Nat) : State :=
  let t := s.timer g k
  let all := t.edges
  let v := if fld (s.tctl g k) 30 2 = 3 then BitVec.ofNat 64 ns else t.cnt
  if !all.contains .next then s
  else if s.timFrozen g k then s.setTimer g k { t with edges := all.filter (fun e => e ≠ .next) }
  else s.setTimer g k { t with edges := all.map (fun e => if e = .next then .counted v else e) }

/-- A cycle of grove g begins, in which BTNS of its copy goes from `was` to `now`: the channels count, and an edge of a grove output in
the cycle before reaches them (R378, R382). -/
def State.timCycle (s : State) (g was now : Nat) : State :=
  let s := (s.timersAdvance g 0 (now - was)).timersAdvance g 1 1
  ((s.grove g).timers.map (·.1)).foldl (fun s k => s.timEdges g now k) s

/-- BTNS of grove g's copy p units into the heartwood cycle. -/
def State.nsAt (s : State) (g p : Nat) : Nat := nsOf (s.copyWhen (10 + g) (s.time.bt + p))

/-- Cycles of grove g begin at these places of the heartwood cycle, one after the other, the first after one at p. -/
def State.timCycles (s : State) (g : Nat) : Nat → List Nat → State
  | _, [] => s
  | p, q :: rest => (s.timCycle g (s.nsAt g p) (s.nsAt g q)).timCycles g q rest

/-- The places at which cycles a to b - 1 of grove g begin; cycle 0 is counted as the heartwood cycle begins. -/
def State.places (s : State) (g a b : Nat) : List Nat :=
  ((upto b).filter (fun j => max a 1 ≤ j)).map (fun j => unitsUp j (s.groveRate g))

/-- The cycles of grove g up to cycle b - 1 begin: its channels count. -/
def State.timReach (s : State) (g b : Nat) : State :=
  if (s.grove g).timers = [] then s else s.timCycles g (s.beat g).last (s.places g (s.beat g).begun b)

end Sys2Proof.Machine
end

