-- ==== Sys2Proof/Machine/Fetch.lean ====
section
/-!
DEFINITION. The instructions of a thread: the formats and opcode map (R189 to R200) and the checks that come before execution
(R201, R202). A decoded instruction holds its fields once; the meanings never see an encoding.
-/
namespace Sys2Proof.Machine

/-- The instructions, one for each row of the command table that a thread executes. -/
inductive Mn where
  | nop | add | adc | sub | sbc | and | or | xor | andn | shl | shr | sar | rol | cmp | tst | mul | mov | neg
  | addi | adci | subi | sbci | andi | ori | xori | andni | shli | shri | sari | roli | cmpi | tsti | movi | insi
  | ext | ins | clz | sel | pset
  | ldw | stw | ld | st | stm | lds | sts | push | pop | bmov | macx | macxI | macxC | aadd | aswp
  | b | call | jr | callr | ret | retx | mfc | mtc | sync | trap | done
  | lock | tryl | unlk | waite | sige | clre | send | recv
  | parse | crcf | csum | tscf | lkup | xop | xprobe
  deriving DecidableEq, Repr

/-- The forms of the S2 field (R196); rc is form R of SEL, e7 form E of opcode 0x7F. -/
inductive Form where
  | r | rc | i | f | m | k | y | a | b | l | j | t | c | x | h | z | e
  deriving DecidableEq, Repr

/-- The second operand of an integer instruction. -/
inductive Opnd where
  | reg (r : Nat)
  | imm (w : Word)
  deriving DecidableEq, Repr

/-- A decoded instruction. -/
structure FInstr where
  mn   : Mn
  long : Bool
  /-- The condition, in the long column of R197. -/
  cond : Nat
  /-- Field D. -/
  d    : Nat
  /-- Field S of a short instruction, S1 of a long one. -/
  s    : Nat
  /-- First operand register of an integer instruction: D in a short form, S1 in a long one. -/
  a    : Nat
  /-- Second operand of an integer instruction. -/
  b    : Opnd
  /-- Field S2 of a long instruction. -/
  s2   : BitVec 15
  /-- BADINS as a capture of this instruction takes it (R202). -/
  raw  : BitVec 37
  deriving DecidableEq, Repr

/-- Parcels of the instruction. -/
def FInstr.size (f : FInstr) : Nat := if f.long then 2 else 1

/-- The short opcode map (R199). -/
def shortOp : Nat → Option Mn
  | 0x00 => some .nop  | 0x01 => some .mov  | 0x02 => some .add  | 0x03 => some .sub
  | 0x04 => some .and  | 0x05 => some .or   | 0x06 => some .xor  | 0x07 => some .cmp
  | 0x08 => some .tst  | 0x09 => some .shl  | 0x0A => some .shr  | 0x0B => some .sar
  | 0x0C => some .neg  | 0x0D => some .ldw  | 0x0E => some .stw  | 0x0F => some .push
  | 0x10 => some .pop  | 0x11 => some .jr   | 0x12 => some .callr | 0x13 => some .ret
  | 0x14 => some .retx | 0x15 => some .sync | 0x16 => some .done | 0x17 => some .macxI
  | 0x18 => some .macxC
  | _ => none

/-- The long opcode map (R200); opcodes 0x70 to 0x7F are left to `longDecode`. -/
def longOp : Nat → Option (Mn × Form)
  | 0x00 => some (.add, .r)  | 0x01 => some (.adc, .r)  | 0x02 => some (.sub, .r)  | 0x03 => some (.sbc, .r)
  | 0x04 => some (.and, .r)  | 0x05 => some (.or, .r)   | 0x06 => some (.xor, .r)  | 0x07 => some (.andn, .r)
  | 0x08 => some (.shl, .r)  | 0x09 => some (.shr, .r)  | 0x0A => some (.sar, .r)  | 0x0B => some (.rol, .r)
  | 0x0C => some (.cmp, .r)  | 0x0D => some (.tst, .r)  | 0x0E => some (.mul, .r)
  | 0x10 => some (.addi, .i) | 0x11 => some (.adci, .i) | 0x12 => some (.subi, .i) | 0x13 => some (.sbci, .i)
  | 0x14 => some (.andi, .i) | 0x15 => some (.ori, .i)  | 0x16 => some (.xori, .i) | 0x17 => some (.andni, .i)
  | 0x18 => some (.shli, .i) | 0x19 => some (.shri, .i) | 0x1A => some (.sari, .i) | 0x1B => some (.roli, .i)
  | 0x1C => some (.cmpi, .i) | 0x1D => some (.tsti, .i) | 0x1E => some (.movi, .i) | 0x1F => some (.insi, .i)
  | 0x20 => some (.ext, .f)  | 0x21 => some (.ins, .f)  | 0x22 => some (.clz, .z)  | 0x23 => some (.sel, .rc)
  | 0x24 => some (.pset, .c)
  | 0x28 => some (.ld, .m)   | 0x29 => some (.st, .m)   | 0x2A => some (.stm, .k)  | 0x2B => some (.lds, .y)
  | 0x2C => some (.sts, .y)  | 0x2D => some (.bmov, .b) | 0x2E => some (.aadd, .a) | 0x2F => some (.aswp, .a)
  | 0x30 => some (.lock, .l) | 0x31 => some (.tryl, .l) | 0x32 => some (.unlk, .l) | 0x33 => some (.waite, .l)
  | 0x34 => some (.sige, .l) | 0x35 => some (.clre, .l) | 0x36 => some (.send, .l) | 0x37 => some (.recv, .l)
  | 0x38 => some (.b, .j)    | 0x39 => some (.call, .j) | 0x3A => some (.trap, .t) | 0x3B => some (.mfc, .c)
  | 0x3C => some (.mtc, .c)  | 0x3D => some (.macx, .x)
  | 0x40 => some (.parse, .h) | 0x41 => some (.crcf, .h) | 0x42 => some (.csum, .h) | 0x43 => some (.tscf, .h)
  | 0x44 => some (.lkup, .h)
  | _ => none

/-- The long condition of a short one (R197). -/
def shortCond : Nat → Nat
  | 3 => 0xF
  | c => c

/-- Condition c on the flags of a status word (R197). -/
def condHolds (st : BitVec 32) (c : Nat) : Bool :=
  let z := bit st 0
  let n := bit st 1
  let cy := bit st 2
  let v := bit st 3
  match c with
  | 0x0 => true
  | 0x1 => z
  | 0x2 => !z
  | 0x3 => cy
  | 0x4 => !cy
  | 0x5 => n
  | 0x6 => !n
  | 0x7 => v
  | 0x8 => !v
  | 0x9 => cy && !z
  | 0xA => !cy || z
  | 0xB => n == v
  | 0xC => n != v
  | 0xD => !z && n == v
  | 0xE => z || n != v
  | _ => bit st 4

/-- A short instruction from its parcel (R194). -/
def shortDecode (p : BitVec 18) : Option FInstr :=
  (shortOp (fld p 11 5)).map (fun mn =>
    { mn := mn, long := false, cond := shortCond (fld p 16 2), d := fld p 6 5, s := fld p 1 5,
      a := fld p 6 5, b := .reg (fld p 1 5), s2 := 0, raw := BitVec.ofNat 37 p.toNat })

/-- A long instruction with its form (R195, R196, R200). -/
def longDecode (w : BitVec 36) : Option (FInstr × Form) :=
  let op := fld w 25 7
  let s2 : BitVec 15 := w.extractLsb' 0 15
  let r := fld s2 10 5
  let imm : Word := if op = 0x1F then wordOf s2.toNat else s2.signExtend 72
  let mk (mn : Mn) (fm : Form) : FInstr × Form :=
    ({ mn := mn, long := true, cond := fld w 32 4, d := fld w 20 5, s := fld w 15 5, a := fld w 15 5,
       b := if fm = .i then .imm imm else .reg r, s2 := s2, raw := BitVec.ofNat 37 (2 ^ 36 + w.toNat) }, fm)
  if op ≥ 0x70 then some (mk (if op = 0x7F && fld s2 10 5 = 0 then .xprobe else .xop) .e)
  else (longOp op).map (fun e => mk e.1 e.2)

/-- The control registers an MFC may read, and the privilege it needs: some true for S (R186). -/
def mfcPriv (n : Nat) : Option Bool :=
  if n ≤ 5 ∨ (8 ≤ n ∧ n ≤ 11) ∨ n = 32 ∨ n = 33 then some false
  else if 16 ≤ n ∧ n ≤ 22 then some true
  else none

/-- The control registers an MTC may write, and the privilege it needs (R186). -/
def mtcPriv (n : Nat) : Option Bool :=
  if n ≤ 2 then some false
  else if n = 3 ∨ n = 4 ∨ (8 ≤ n ∧ n ≤ 11) ∨ n = 16 ∨ n = 17 ∨ n = 20 ∨ n = 21 ∨ n = 22 then some true
  else none

/-- Every value the form permits (R196), and a control register that R186 allows (check 2 of R201). -/
def permitted (f : FInstr) (fm : Form) : Bool :=
  match fm with
  | .f => fld f.s2 7 7 + (fld f.s2 0 7 + 1) ≤ 72
  | .m => fld f.s2 13 2 ≠ 3
  | .k => fld f.s2 7 8 ≠ 0
  | .b => 1 ≤ fld f.s2 0 7 && fld f.s2 0 7 ≤ 64
  | .c => match f.mn with
    | .mfc => (mfcPriv (fld f.s2 0 6)).isSome
    | .mtc => (mtcPriv (fld f.s2 0 6)).isSome
    | _ => true
  | .h => match f.mn with
    | .parse => fld f.s2 13 2 ≤ 1
    | .crcf => fld f.s2 12 3 ≤ 1
    | _ => true
  | _ => true

/-- The reserved fields of a long instruction are 0 (check 4 of R201). -/
def longReservedOk (f : FInstr) (fm : Form) : Bool :=
  let s2 := f.s2
  (match fm with
    | .r => fld s2 0 10 = 0
    | .rc => fld s2 4 6 = 0
    | .f => f.mn = .ext || !bit s2 14
    | .z => s2 = 0
    | .b => fld s2 7 8 = 0
    | .l => fld s2 8 6 = 0 && (f.mn = .send || !bit s2 14)
    | .t => fld s2 8 7 = 0
    | .c => if f.mn = .pset then fld s2 4 11 = 0 else fld s2 6 9 = 0
    | .x => fld s2 6 6 = 0
    | .h => match f.mn with
      | .parse => fld s2 0 13 = 0
      | .crcf => fld s2 0 11 = 0
      | .csum => fld s2 12 3 = 0 && fld s2 0 10 = 0
      | .tscf => fld s2 0 14 = 0
      | _ => fld s2 0 6 = 0
    | .e => f.mn = .xop || fld s2 0 10 = 0
    | _ => true) &&
  (match f.mn with
    | .cmp | .tst | .cmpi | .tsti | .mtc | .lock | .tryl | .unlk | .waite | .sige | .clre => f.d = 0
    | .movi | .mfc => f.s = 0
    | .pset | .b | .call | .trap => f.d = 0 && f.s = 0
    | _ => true)

/-- The reserved fields of a short instruction are 0. -/
def shortReservedOk (f : FInstr) : Bool :=
  !bit f.raw 0 &&
  (match f.mn with
    | .nop | .ret | .retx | .sync => f.d = 0 && f.s = 0
    | .push | .jr | .callr | .done => f.d = 0
    | .pop => f.s = 0
    | _ => true)

/-- The privilege an instruction needs: true for S (check 5 of R201). -/
def needsS (f : FInstr) : Bool :=
  match f.mn with
  | .retx => true
  | .mfc => (mfcPriv (fld f.s2 0 6)).getD false
  | .mtc => (mtcPriv (fld f.s2 0 6)).getD false
  | _ => false

/-- A fetch: an instruction that may execute, or the fault that R201 raises with what BADADDR and BADINS take. -/
inductive Fetched where
  | instr (f : FInstr)
  | fault (cause : Nat) (bad : Option (BitVec 40)) (badins : Option (BitVec 37))
  deriving DecidableEq, Repr

/-- Checks 3 to 5 of R201 on a defined instruction; XUNIMP writes no BADINS (R256 against R202; log entry 16). -/
def lateChecks (f : FInstr) (reserved xunit sMode : Bool) : Fetched :=
  if (f.mn = .xop || f.mn = .xprobe) && !xunit then .fault causeXUNIMP none none
  else if !reserved then .fault causeRSVD none (some f.raw)
  else if needsS f && !sMode then .fault causePRIV none (some f.raw)
  else .instr f

/-- Decode the instruction at parcel h of a store word with its marks (R189 to R201). -/
def decodeAt (w : Word) (mark : BitVec 2) (parcel : Nat) (xunit sMode : Bool) : Fetched :=
  let half := parcel / 2
  if bit mark half then
    let long : BitVec 36 := w.extractLsb' (36 * half) 36
    let raw : BitVec 37 := BitVec.ofNat 37 (2 ^ 36 + long.toNat)
    if parcel % 2 = 1 then .fault causeILLOP none (some raw)
    else
      match longDecode long with
      | none => .fault causeILLOP none (some raw)
      | some (f, fm) =>
        if !permitted f fm then .fault causeILLOP none (some raw)
        else lateChecks f (longReservedOk f fm) xunit sMode
  else
    let p : BitVec 18 := w.extractLsb' (18 * parcel) 18
    match shortDecode p with
    | none => .fault causeILLOP none (some (BitVec.ofNat 37 p.toNat))
    | some f => lateChecks f (shortReservedOk f) xunit sMode

/-- The extension unit of grove g is present (R7, R8). -/
def State.xPresent (s : State) (g : Nat) : Bool := bit s.ties.xupres g

/-- Word w of grove g's instruction store as a fetch sees it, with its MARK and its error mark: of a word committed in the grove cycle
under way, the old one (R193). -/
def State.isWord (s : State) (g w : Nat) : Word × BitVec 2 × Nat :=
  match if (s.beat g).inCycle then (s.beat g).olds.find? (fun e => e.1 = w) else none with
  | some e => e.2
  | none => (mget 0 (s.grove g).istore w, mget 0 (s.grove g).imark w, mget 0 (s.grove g).iecc w)

/-- What thread th finds at its PC (R189, R201). -/
def State.fetch (s : State) (th : Nat) : Fetched :=
  let t := s.thread th
  let g := thG th
  let v := s.isWord g (fld t.pc 2 14)
  if fld t.pc 16 8 ≠ 0 then .fault causeDACC (some (t.pc.setWidth 40)) none
  else if v.2.2 = 2 then .fault causeECCU (some (t.pc.setWidth 40)) none
  else decodeAt v.1 v.2.1 (fld t.pc 0 2) (s.xPresent g) t.isS

/-- What the fetch itself does to the store: a single-bit error is corrected, written back and counted, an uncorrectable one
is reported (R503). -/
def State.fetchEcc (s : State) (th : Nat) : State :=
  let g := thG th
  let word := fld (s.thread th).pc 2 14
  if fld (s.thread th).pc 16 8 ≠ 0 then s
  else match (s.isWord g word).2.2 with
    | 1 => (s.modGrove g (fun v => { v with iecc := mdel v.iecc word })).count 0x48
    | 2 => s.eccEvent (10 + g) 1 g word
    | _ => s

end Sys2Proof.Machine
end

