-- ==== Sys2Proof/Machine/LockUnit.lean ====
section
/-!
DEFINITION. The lock unit of a grove: locks, event flags and channels (R242 to R244, R302 to R311), as operations on State.
A thread that waits keeps its PC on the waiting instruction; the end of the wait completes the instruction.
-/
namespace Sys2Proof.Machine

/-- The threads of grove g that satisfy a condition, in ascending THID. -/
def State.threadsOf (s : State) (g : Nat) (f : Thread → Bool) : List Nat :=
  ((s.threads.filter (fun e => thG e.1 = g && e.1 < 4096 && f e.2)).map (·.1)).filter (fun x => f (s.thread x))

/-- A waiting long instruction of the lock unit completes: the PC passes it and the thread is ready. -/
def State.endWait (s : State) (th : Nat) : State := s.modThread th (fun t => (t.adv 2).wake)

/-! ## Locks -/

/-- The lock goes to its oldest waiter, if it is free (R242). -/
def State.grantNext (s : State) (g u : Nat) : State :=
  let l := s.lock g u
  match l.holder, l.waiters with
  | none, w :: ws => (s.setLock g u { holder := some w, waiters := ws }).endWait w
  | _, _ => s

/-- Release lock u and grant it to its oldest waiter. -/
def State.releaseLock (s : State) (g u : Nat) : State :=
  (s.setLock g u { s.lock g u with holder := none }).grantNext g u

/-- The thread holds lock u. -/
def State.holdsLock (s : State) (th u : Nat) : Bool := (s.lock (thG th) u).holder = some th

/-- The locks that a thread holds. -/
def State.heldLocks (s : State) (th : Nat) : List Nat :=
  ((s.grove (thG th)).locks.filter (fun e => e.2.holder = some th)).map (·.1)

/-- A release forced by LKREL: the lock, and its LKREL event (R305, R369). -/
def State.forceRelease (s : State) (g u : Nat) : State :=
  match (s.lock g u).holder with
  | none => s
  | some h => (s.releaseLock g u).event (10 + g) 0x05 (g * 2 ^ 25 + u * 2 ^ 17 + h * 2 ^ 5) []

/-! ## Event flags -/

/-- Flag f as it stands at the end of a grove cycle: at 1 it ends the waits on it, and a change from 0 follows its route (R244, R307). -/
def State.settleFlag (s : State) (g f : Nat) (was : Bool) : State :=
  if !bit (s.grove g).flags f then s
  else
    let s := (s.threadsOf g (fun t => t.wait = .event f)).foldl (fun s th => s.endWait th) s
    let r := s.reg (aLocks g + 0x500 + 4 * f)
    if !was && bit r 31 then s.setLine (thid g (fld r 9 5) (fld r 5 4)) (fld r 0 3) false else s

/-- The flags at the end of a grove cycle. -/
def State.settleFlags (s : State) (g : Nat) (was : BitVec 64) : State :=
  (upto 64).foldl (fun s f => s.settleFlag g f (bit was f)) s

/-- Set or clear flag f. The last change of a grove cycle lands, and what follows from the flag follows at the end of the cycle; a
change between two cycles ends with the earlier one (R244, R306, R307). -/
def State.setFlag (s : State) (g f : Nat) (v : Bool) : State :=
  let was := bit (s.grove g).flags f
  let s := s.modGrove g (fun q => { q with flags := setBit q.flags f v })
  if (s.beat g).inCycle then s else s.settleFlag g f was

/-- Apply one change to each flag whose bit of the mask is 1, from flag `lo`. -/
def State.setFlags (s : State) (g lo : Nat) (mask : BitVec 32) (v : Bool) : State :=
  (upto 32).foldl (fun s i => if bit mask i then s.setFlag g (lo + i) v else s) s

/-! ## Channels -/

/-- The word a bound or binding reader receives: its register and P land under R160 (R243). -/
def State.recvLand (s : State) (th reg : Nat) (w : Word) (last : Bool) : State :=
  s.modThread th (fun t => { t with landNext := some { reg := reg, val := w, p := some last } })

/-- Index of the first message that satisfies a condition. -/
def msgIndex (f : Msg → Bool) : List Msg → Nat → Option Nat
  | [], _ => none
  | m :: rest, i => if f m then some i else msgIndex f rest (i + 1)

/-- Read the next word of message i of channel u into a reader: with the last word the binding ends and the slot frees. -/
def State.takeWord (s : State) (th g u i reg : Nat) : State :=
  let c := s.chan g u
  match c.msgs[i]? with
  | none => s
  | some m =>
    match m.words with
    | [] => s
    | [w] =>
      let s := s.setChan g u { c with msgs := c.msgs.eraseIdx i }
      (s.modThread th (fun t => { t with bound := none })).recvLand th reg w true
    | w :: rest =>
      let s := s.setChan g u { c with msgs := lset c.msgs i { words := rest, reader := some th } }
      (s.modThread th (fun t => { t with bound := some u })).recvLand th reg w false

/-- A load that has just been delivered to a waiting thread becomes its pending landing. -/
def Thread.promote (t : Thread) : Thread :=
  match t.landNext with
  | some l => { t with landing := some l, landNext := none }
  | none => t

/-- The register that a waiting RECV names. -/
def Thread.recvReg (t : Thread) : Nat :=
  match t.outst with
  | some o => match o.dest with
    | .result r => r
    | _ => 0
  | none => 0

/-- While a channel has an unbound message and a waiting reader, the oldest of each meet; while it has a free slot and a
waiting writer, the writer's message becomes visible (R309). -/
def State.chanSettle (s : State) (g u : Nat) : Nat → State
  | 0 => s
  | n + 1 =>
    let c := s.chan g u
    match c.readers, msgIndex (fun m => m.reader = none) c.msgs 0 with
    | r :: rs, some i =>
      let reg := (s.thread r).recvReg
      let s := s.setChan g u { c with readers := rs }
      let s := s.takeWord r g u i reg
      let s := s.modThread r (fun t => ({ t.promote with outst := none, wait := .ready }.adv 2).stepEnd)
      s.chanSettle g u n
    | _, _ =>
      match c.writers with
      | [] => s
      | w :: ws =>
        if c.msgs.length ≥ 4 then s
        else
          let t := s.thread w
          let words := (match t.staging with | some (_, l) => l | none => []) ++ [t.sendW]
          let s := s.setChan g u { c with msgs := c.msgs ++ [{ words := words, reader := none }], writers := ws }
          let s := s.modThread w (fun t => ({ t with staging := none, sendW := 0, wait := .ready }.adv 2).stepEnd)
          s.chanSettle g u n

/-- Let the channel settle: at most as many moves as threads wait on it and messages it holds. -/
def State.settle (s : State) (g u : Nat) : State :=
  let c := s.chan g u
  s.chanSettle g u (c.readers.length + c.writers.length + c.msgs.length)

/-- An entry, a halt or a park ends a wait of the first case of R262: the waiting instruction has not taken effect. -/
def State.cancelWait (s : State) (th : Nat) : State :=
  let g := thG th
  let s := match (s.thread th).wait with
    | .lock u => s.setLock g u { s.lock g u with waiters := (s.lock g u).waiters.filter (· ≠ th) }
    | .chanR u => s.setChan g u { s.chan g u with readers := (s.chan g u).readers.filter (· ≠ th) }
    | .chanW u => s.setChan g u { s.chan g u with writers := (s.chan g u).writers.filter (· ≠ th) }
    | _ => s
  match (s.thread th).wait with
  | .lock _ | .event _ | .chanR _ | .chanW _ =>
    s.modThread th (fun t => { t with wait := .ready, outst := none, sendW := 0 })
  | _ => s

/-- A wait of the first case of R262. -/
def Wait.atBoundary : Wait → Bool
  | .lock _ | .event _ | .chanR _ | .chanW _ => true
  | _ => false

/-- Channel u shows WHALT: a thread in HALT or HELD has an open staging slot for it (R310). -/
def State.chanWhalt (s : State) (g u : Nat) : Bool :=
  s.threads.any (fun e => thG e.1 = g && e.1 < 4096 && (e.2.halted || e.2.held) &&
    (match e.2.staging with | some (v, _) => v = u | none => false))

/-- Discard the unbound messages of a channel, and report how many (R311). -/
def State.chanFlush (s : State) (g u : Nat) : State :=
  let c := s.chan g u
  let kept := c.msgs.filter (fun m => m.reader ≠ none)
  let n := c.msgs.length - kept.length
  ((s.setChan g u { c with msgs := kept }).event (10 + g) 0x06 (g * 2 ^ 25 + u * 2 ^ 19 + n * 2 ^ 16) []).settle g u

end Sys2Proof.Machine
end

