-- ==== Sys2Proof/Machine/Standards.lean ====
section
/-!
DEFINITION. The published functions that the spec names and does not define: SipHash-2-4, the CRC-32 of IEEE 802.3 and the
16-bit CRC of R248, SHA-256 (FIPS 180-4) and the verification of ECDSA over P-256 (FIPS 186-5). PRESUMED: their algorithms
are those of the published standards (log entry 10).
-/
namespace Sys2Proof.Machine

/-! ## SipHash-2-4 -/

/-- The four words of SipHash. -/
structure Sip where
  v0 : BitVec 64
  v1 : BitVec 64
  v2 : BitVec 64
  v3 : BitVec 64

/-- One SipRound. -/
def sipRound (s : Sip) : Sip :=
  let v0 := s.v0 + s.v1
  let v1 := (s.v1.rotateLeft 13) ^^^ v0
  let v0 := v0.rotateLeft 32
  let v2 := s.v2 + s.v3
  let v3 := (s.v3.rotateLeft 16) ^^^ v2
  let v0 := v0 + v3
  let v3 := (v3.rotateLeft 21) ^^^ v0
  let v2 := v2 + v1
  let v1 := (v1.rotateLeft 17) ^^^ v2
  { v0 := v0, v1 := v1, v2 := v2.rotateLeft 32, v3 := v3 }

/-- Absorb one message word. -/
def sipWord (s : Sip) (m : BitVec 64) : Sip :=
  let s := sipRound (sipRound { s with v3 := s.v3 ^^^ m })
  { s with v0 := s.v0 ^^^ m }

/-- A little-endian number from bytes. -/
def leNat : List Byte → Nat
  | [] => 0
  | b :: rest => b.toNat + 256 * leNat rest

/-- A big-endian number from bytes. -/
def beNat (l : List Byte) : Nat := l.foldl (fun a b => a * 256 + b.toNat) 0

/-- The n low bytes of a number, least significant first. -/
def leBytes (n v : Nat) : List Byte := (upto n).map (fun i => BitVec.ofNat 8 (v >>> (8 * i)))

/-- The n low bytes of a number, most significant first. -/
def beBytes (n v : Nat) : List Byte := (leBytes n v).reverse

/-- SipHash-2-4 of a byte string under key (k0, k1). -/
def sipHash (k0 k1 : BitVec 64) (msg : List Byte) : BitVec 64 :=
  let s : Sip := {
    v0 := k0 ^^^ 0x736f6d6570736575#64, v1 := k1 ^^^ 0x646f72616e646f6d#64,
    v2 := k0 ^^^ 0x6c7967656e657261#64, v3 := k1 ^^^ 0x7465646279746573#64 }
  let full := msg.length / 8
  let s := (upto full).foldl (fun s i => sipWord s (BitVec.ofNat 64 (leNat ((msg.drop (8 * i)).take 8)))) s
  let last := BitVec.ofNat 64 (leNat (msg.drop (8 * full)) + (msg.length % 256) * 2 ^ 56)
  let s := sipWord s last
  let s := { s with v2 := s.v2 ^^^ 0xff#64 }
  let s := sipRound (sipRound (sipRound (sipRound s)))
  s.v0 ^^^ s.v1 ^^^ s.v2 ^^^ s.v3

/-! ## Cyclic redundancy checks -/

/-- One bit of a reflected CRC. -/
def crcBit (poly c : Nat) : Nat := if c % 2 = 1 then (c / 2) ^^^ poly else c / 2

/-- One byte of a reflected CRC. -/
def crcByte (poly c : Nat) (b : Byte) : Nat := (upto 8).foldl (fun c _ => crcBit poly c) (c ^^^ b.toNat)

/-- The CRC-32 of IEEE 802.3: its bytes leave least significant first. -/
def crc32 (l : List Byte) : Nat := (l.foldl (crcByte 0xEDB88320) 0xFFFFFFFF) ^^^ 0xFFFFFFFF

/-- The 16-bit CRC of R248: x^16 + x^12 + x^5 + 1, least significant bit first, ones in, complement out. -/
def crc16 (l : List Byte) : Nat := (l.foldl (crcByte 0x8408) 0xFFFF) ^^^ 0xFFFF

/-! ## SHA-256 -/

/-- The greatest number whose k-th power is at most x, found bit by bit: r holds the bits above the n that remain. -/
def rootOf (k x : Nat) : Nat → Nat → Nat
  | 0, r => r
  | n + 1, r => rootOf k x n (if (r + 2 ^ n) ^ k ≤ x then r + 2 ^ n else r)

/-- The first 32 bits of the fraction of the k-th root of p, as FIPS 180-4 draws its constants. -/
def rootFraction (k p : Nat) : Nat := rootOf k (p * 2 ^ (32 * k)) 40 0 % 2 ^ 32

/-- The first 64 primes. -/
def shaPrimes : List Nat := (upto 312).filter (fun n => 2 ≤ n && (upto 18).all (fun d => d < 2 || n ≤ d || n % d ≠ 0))

/-- The round constants of SHA-256: from the cube roots of the first 64 primes. -/
def shaK : List Nat := shaPrimes.map (rootFraction 3)

/-- The initial hash value of SHA-256: from the square roots of the first 8 primes. -/
def shaH0 : List (BitVec 32) := (shaPrimes.take 8).map (fun p => BitVec.ofNat 32 (rootFraction 2 p))

/-- The message schedule, newest word first: n more words. -/
def shaExtend : Nat → List (BitVec 32) → List (BitVec 32)
  | 0, w => w
  | n + 1, w =>
    let x := w[14]?.getD 0
    let y := w[1]?.getD 0
    let s0 := (x.rotateRight 7) ^^^ (x.rotateRight 18) ^^^ (x >>> 3)
    let s1 := (y.rotateRight 17) ^^^ (y.rotateRight 19) ^^^ (y >>> 10)
    shaExtend n ((w[15]?.getD 0 + s0 + w[6]?.getD 0 + s1) :: w)

/-- One round. -/
def shaRound (st : List (BitVec 32)) (kw : Nat × BitVec 32) : List (BitVec 32) :=
  match st with
  | [a, b, c, d, e, f, g, h] =>
    let s1 := (e.rotateRight 6) ^^^ (e.rotateRight 11) ^^^ (e.rotateRight 25)
    let ch := (e &&& f) ^^^ (~~~e &&& g)
    let t1 := h + s1 + ch + BitVec.ofNat 32 kw.1 + kw.2
    let s0 := (a.rotateRight 2) ^^^ (a.rotateRight 13) ^^^ (a.rotateRight 22)
    let maj := (a &&& b) ^^^ (a &&& c) ^^^ (b &&& c)
    [t1 + (s0 + maj), a, b, c, d + t1, e, f, g]
  | _ => st

/-- One block of 64 bytes. -/
def shaBlock (h : List (BitVec 32)) (blk : List Byte) : List (BitVec 32) :=
  let w := (upto 16).map (fun i => BitVec.ofNat 32 (beNat ((blk.drop (4 * i)).take 4)))
  let sched := (shaExtend 48 w.reverse).reverse
  let st := (shaK.zip sched).foldl shaRound h
  (h.zip st).map (fun p => p.1 + p.2)

/-- The blocks of a padded message. -/
def shaBlocks : Nat → List Byte → List (BitVec 32) → List (BitVec 32)
  | 0, _, h => h
  | n + 1, l, h => shaBlocks n (l.drop 64) (shaBlock h (l.take 64))

/-- SHA-256 of a byte string, as a number whose most significant byte is the first byte of the digest. -/
def sha256 (msg : List Byte) : Nat :=
  let pad := (119 - msg.length % 64) % 64
  let m := msg ++ [0x80#8] ++ List.replicate pad 0#8 ++ beBytes 8 (8 * msg.length)
  (shaBlocks (m.length / 64) m shaH0).foldl (fun a w => a * 2 ^ 32 + w.toNat) 0

/-! ## ECDSA over P-256 -/

/-- The field prime of P-256. -/
def p256p : Nat := 2 ^ 256 - 2 ^ 224 + 2 ^ 192 + 2 ^ 96 - 1
/-- The order of the base point. -/
def p256n : Nat := 0xFFFFFFFF00000000FFFFFFFFFFFFFFFFBCE6FAADA7179E84F3B9CAC2FC632551
/-- The coefficient b. -/
def p256b : Nat := 0x5AC635D8AA3A93E7B3EBBD55769886BC651D06B0CC53B0F63BCE3C3E27D2604B
/-- The base point. -/
def p256g : Nat × Nat :=
  (0x6B17D1F2E12C4247F8BCE6E563A440F277037D812DEB33A0F4A13945D898C296,
   0x4FE342E2FE1A7F9B8EE7EB4A7C0F9E162BCE33576B315ECECBB6406837BF51F5)

/-- b^e modulo m over the low n bits of e. -/
def powMod (m : Nat) : Nat → Nat → Nat → Nat
  | 0, _, _ => 1 % m
  | n + 1, b, e =>
    let r := powMod m n (b * b % m) (e / 2)
    if e % 2 = 1 then r * b % m else r

/-- The inverse modulo a 256-bit prime. -/
def invMod (m a : Nat) : Nat := powMod m 256 (a % m) (m - 2)

/-- The sum of two points; none is the point at infinity. -/
def ecAdd (p q : Option (Nat × Nat)) : Option (Nat × Nat) :=
  match p, q with
  | none, q => q
  | p, none => p
  | some (x1, y1), some (x2, y2) =>
    if x1 = x2 ∧ (y1 + y2) % p256p = 0 then none
    else
      let l :=
        if x1 = x2 then (3 * x1 * x1 + (p256p - 3)) * invMod p256p (2 * y1) % p256p
        else (y2 + p256p - y1) * invMod p256p (x2 + p256p - x1) % p256p
      let x3 := (l * l + 2 * p256p - x1 - x2) % p256p
      some (x3, (l * (x1 + p256p - x3) + p256p - y1) % p256p)

/-- k times a point, over the low n bits of k. -/
def ecMul : Nat → Nat → Option (Nat × Nat) → Option (Nat × Nat)
  | 0, _, _ => none
  | n + 1, k, p =>
    let r := ecMul n (k / 2) (ecAdd p p)
    if k % 2 = 1 then ecAdd r p else r

/-- The point lies on the curve. -/
def onCurve (x y : Nat) : Bool :=
  x < p256p && y < p256p && y * y % p256p = (x * x * x + (p256p - 3) * x + p256b) % p256p

/-- The signature (r, s) of a digest verifies under the public key (x, y). -/
def ecdsaOk (x y r s digest : Nat) : Bool :=
  onCurve x y && 0 < r && r < p256n && 0 < s && s < p256n &&
    (let w := invMod p256n s
     match ecAdd (ecMul 256 (digest * w % p256n) (some p256g)) (ecMul 256 (r * w % p256n) (some (x, y))) with
     | none => false
     | some (x1, _) => x1 % p256n = r)

end Sys2Proof.Machine
end

