-- ==== Sys2Proof/Machine/Memory.lean ====
section
/-!
DEFINITION. The memory ports (R390 to R406): the keyed interleave, the queues of each port, the holds of overlapping requests,
the weighted round robin and the tags. What a response does to its source is in the families of the sources.
-/
namespace Sys2Proof.Machine

/-- Registers of memory port p (R406). -/
def aMem (p : Nat) : Nat := 0xC1000 + 0x100 * p

/-- h(Q) of R395: the low 16 bits of SipHash-2-4 of Q's 8 bytes, little-endian, under the key of MEMSEED. -/
def State.memHash (s : State) (q : Nat) : Nat :=
  (sipHash s.start.memseed (s.start.memseed ^^^ BitVec.allOnes 64) (leBytes 8 q)).toNat % 65536

/-- The port of external word ea (R395). -/
def State.memPortOf (s : State) (ea : Nat) : Nat :=
  let n := max s.ties.memports 1
  (ea / 4 % n + s.memHash (ea / 4 / n)) % n

/-- MADDR of external word ea on its port (R395). -/
def State.maddr (s : State) (ea : Nat) : Nat := 4 * (ea / 4 / max s.ties.memports 1) + ea % 4

/-- The external word lies below MEMTOP (R397). -/
def State.memOk (s : State) (ea : Nat) : Bool := ea < fld (s.reg 0xC0004) 0 13 * 2 ^ 26

/-- Two requests of one port overlap: the same word and a lane in common, a read covering all 8 (R393). -/
def MReq.overlaps (a b : MReq) : Bool :=
  a.ea = b.ea && ((if a.write then a.mask else 0xFF) &&& (if b.write then b.mask else 0xFF)) ≠ 0

/-- The item of a channel. -/
def MPort.shown (m : MPort) (write : Bool) : Option Shown := if write then m.shownW else m.shownR

/-- Requests that the channels present. -/
def MPort.offered (m : MPort) : List MReq := (m.shownR.map (·.req)).toList ++ (m.shownW.map (·.req)).toList

/-- A queued request is held: by an earlier overlapping write, and a write also by any earlier or unanswered overlapping
request (R393). -/
def MPort.held (m : MPort) (earlier : List MReq) (r : MReq) : Bool :=
  (m.offered ++ earlier).any (fun e => e.overlaps r && (r.write || e.write)) ||
    (r.write && (m.tags.any (fun e => e.2.overlaps r) || m.quar.any (fun e => e.2.overlaps r)))

/-- A request of the class and direction. -/
def MReq.is (r : MReq) (cls : Nat) (write : Bool) : Bool := r.cls = cls && r.write = write

/-- A class queue of one direction has a free place, which the item presented keeps until its transfer (R398). -/
def MPort.room (m : MPort) (cls : Nat) (write : Bool) : Bool :=
  ((m.offered ++ m.queue).filter (fun r => r.is cls write)).length < 32

/-- A source holds a credit for the class queue, and none of its class waits for one (R398). -/
def State.memRoom (s : State) (ea cls : Nat) (write : Bool) : Bool :=
  let m := s.mem (s.memPortOf ea)
  m.room cls write && !m.wait.any (fun r => r.is cls write)

/-- A request reaches the memory side; a write that is held counts in MPHOLD (R393). -/
def State.memArrive (s : State) (p : Nat) (r : MReq) : State :=
  let m := s.mem p
  let s := if r.write && m.held m.queue r then s.count (aMem p + 0x68) else s
  s.setMem p { m with queue := m.queue ++ [r] }

/-- Waiting requests take the credits that have come free, in their order (R398). -/
def State.memFill (s : State) (p : Nat) : State :=
  (s.mem p).wait.foldl (fun (s : State) r =>
    let m := s.mem p
    if m.room r.cls r.write && !m.wait.any (fun x => x.is r.cls r.write) then s.memArrive p r
    else s.setMem p { m with wait := m.wait ++ [r] }) (s.modMem p (fun m => { m with wait := [] }))

/-- The first request of a class on a channel that is ready to present, with its index: one that is not held (R393). -/
def MPort.firstReady (m : MPort) (write : Bool) (cls : Nat) : Option Nat :=
  let idx := (upto m.queue.length).filter (fun i =>
    match m.queue[i]? with
    | some r => r.is cls write
    | none => false)
  idx.find? (fun i =>
    match m.queue[i]? with
    | some r => !m.held (m.queue.take i) r
    | none => false)

/-- Weight of class c, 0 acting as 1 (R399). -/
def wtOf (w : BitVec 40) (c : Nat) : Nat := max 1 (fld w (4 * c) 4)

/-- The MPWT registers as one value. -/
def State.mpwt (s : State) : BitVec 40 := BitVec.ofNat 40 ((s.reg 0xC0010).toNat + fld (s.reg 0xC0014) 0 8 * 2 ^ 32)

/-- A turn of the weighted round robin: the class in turn, its transfers left and the round's weights; a new round takes the
weights of MPWT (R399). The result names the class that transfers. -/
def wrrPick (m : MPort) (write : Bool) (mpwt : BitVec 40) : Nat → Nat → Nat → BitVec 40 → Option (Nat × Nat × Nat × BitVec 40)
  | 0, _, _, _ => none
  | n + 1, cur, left, w =>
    match (if left = 0 then none else m.firstReady write cur) with
    | some i => some (i, cur, left - 1, w)
    | none =>
      if cur ≥ 9 then wrrPick m write mpwt n 0 (wtOf mpwt 0) mpwt
      else wrrPick m write mpwt n (cur + 1) (wtOf w (cur + 1)) w

/-- Tags in use or quarantined. -/
def MPort.busyTag (m : MPort) (t : Nat) : Bool := (mfind m.tags t).isSome || (mfind m.quar t).isSome

/-- Block Time in ns, on which the ports measure their timeouts (R401). -/
def State.memNow (s : State) : Nat := nsOf s.time.bt

/-- A channel that presents nothing takes the next request of its arbitration, when a tag is free; the tag is a free value among the free
ones (R391, R399, R462). -/
def State.memShow (s : State) (p : Nat) (write : Bool) : State :=
  let m := s.mem p
  if (m.shown write).isSome || m.queue = [] || p ≥ s.ties.memports then s
  else
    let free := (upto 512).filter (fun t => !m.busyTag t && (m.shown (!write)).all (fun x => x.tag ≠ t))
    let pick := if write then wrrPick m true s.mpwt 12 m.rrW m.leftW m.wtW else wrrPick m false s.mpwt 12 m.rrR m.leftR m.wtR
    match pick, free with
    | some (i, cur, left, w), _ :: _ =>
      match m.queue[i]? with
      | none => s
      | some r =>
        let (n, s) := s.fresh
        let x : Shown := { req := r, tag := pickFrom free (Config.freeTag n) 0, since := s.memNow }
        let m := { m with queue := m.queue.eraseIdx i }
        s.setMem p (if write then { m with shownW := some x, rrW := cur, leftW := left, wtW := w }
          else { m with shownR := some x, rrR := cur, leftR := left, wtR := w })
    | _, _ => s

/-- Credits are taken and idle channels present their next items. -/
def State.memPresent (s : State) (p : Nat) : State := ((s.memFill p).memShow p false).memShow p true

/-- A source makes a request: it is sent with a credit, or waits at the source for one (R398). -/
def State.memSend (s : State) (r : MReq) : State :=
  let p := s.memPortOf r.ea
  (s.modMem p (fun m => { m with wait := m.wait ++ [r] })).memPresent p

/-- The V signal of a request channel (R403, R462). -/
def State.memV (s : State) (p : Nat) (write : Bool) : Bool :=
  (s.mem p).ready && !s.clkGone 1 && ((s.mem p).shown write).isSome

/-- Take the item off a channel. -/
def MPort.clearShown (m : MPort) (write : Bool) : MPort := if write then { m with shownW := none } else { m with shownR := none }

/-- The class in turn has back the transfer that an item taken off its channel would have been (R399). -/
def MPort.giveBack (m : MPort) (write : Bool) : MPort := if write then { m with leftW := m.leftW + 1 } else { m with leftR := m.leftR + 1 }

/-- The item that a channel presents is transferred and its tag is in use (R390, R391, R462). -/
def State.memTransfer (s : State) (p : Nat) (write : Bool) : State :=
  let s' := s.memPresent p
  let m := s'.mem p
  match m.shown write with
  | none => s
  | some x =>
    if !s'.memV p write then s
    else ((s'.setMem p { m.clearShown write with tags := mins m.tags x.tag { x.req with since := s'.memNow } }).count
      (aMem p + if write then 0x48 else 0x40)).memPresent p

/-- The timeout in ns (R401). -/
def State.memTmo (s : State) : Nat := max 16 (fld (s.reg 0xC0000) 0 8) * 256

/-- The MEMPORT event (R404). -/
def State.memEvent (s : State) (p kind : Nat) (dir : Bool) (tag cls : Nat) (ea : Option Nat) : State :=
  s.event 5 0x0E (p * 2 ^ 24 + kind * 2 ^ 22 + b1 dir * 2 ^ 21 + tag * 2 ^ 12 + cls * 2 ^ 8)
    (match ea with | some a => [wordOf a] | none => [])

/-- The answer of a core's outstanding load or unit request. -/
def State.answer (s : State) (th : Nat) (a : Answer) : State :=
  s.modThread th (fun t => match t.outst with
    | some o => { t with outst := some { o with ans := some a } }
    | none => t)

end Sys2Proof.Machine
end

