-- ==== Sys2Proof/Machine/Issue.lean ====
section
/-!
DEFINITION. One core cycle: the choice of the thread (R149 to R156), the boundary and what is due there (R261 to R263, R268,
R277), the frame of every step of an instruction (R157 to R162, R198, R507), and the core cycle's own bookkeeping.
-/
namespace Sys2Proof.Machine

/-! ## Boundaries -/

/-- The thread is at a boundary (R161, R261, R262): it is about to begin an instruction, or a later step of a BMOV or MACX,
or it waits in a state that an entry may end. A thread that a release has made ready for its entry comes to one after it (R273). -/
def State.atBoundary (s : State) (th : Nat) : Bool :=
  let t := s.thread th
  !t.halted && !t.held && !t.retryDue && t.landing.isNone && !t.tried && t.pendSt.isNone && !t.latchV &&
  (t.wait = .ready || t.wait = .parkedDone || t.wait.atBoundary) &&
  (t.outst.isNone || t.wait.atBoundary) &&
  (t.prog = 0 || (match s.fetch th with
    | .instr f => f.mn = .bmov || f.mn = .macx || f.mn = .macxI || f.mn = .macxC
    | _ => true))

/-- The lowest breakpoint that matches thread th (R277). Model's choice, log entry 121: it matches a thread that is ready alone, not one
that waits at a boundary of R262. -/
def State.breakAt (s : State) (th : Nat) : Option Nat :=
  let t := s.thread th
  let base := aCore (thG th) (thC th) + 0x80
  if t.bskip || t.prog ≠ 0 || t.wait ≠ .ready then none
  else (upto 4).find? (fun k =>
    let ctl := s.reg (base + 8 * k + 4)
    bit ctl 31 && bit ctl (thT th) && fld (s.reg (base + 8 * k)) 0 24 = t.pc.toNat)

/-- The highest enabled pending line of a thread with IE 1 (R266). -/
def Thread.lineDue (t : Thread) : Option Nat :=
  if bit t.status 30 then (upto 8).reverse.find? (fun i => bit t.lines i && bit t.status (22 + i)) else none

/-- The NMI that is taken next, when NMIACT is 0 (R268, R269). -/
def State.nmiDue (s : State) (th : Nat) : Option Due :=
  let t := s.thread th
  let v := s.grove (thG th)
  if t.nmiact then none
  else
    let own := if th = s.recovery (thG th) then
        match v.holdQ.find? (fun h => !h.reported) with
        | some h => some (Due.hold h.th (s.thread h.th).hreason.toNat)
        | none => if v.nmiStall then some .stall else if v.nmiWdog then some .wdog else none
      else none
    match own with
    | some d => some d
    | none => if t.nmip then some .nmiext else none

/-- A debug halt, a breakpoint or CHABRT that is due at the boundary of thread th (R263). -/
def State.urgent (s : State) (th : Nat) : Option Due :=
  let t := s.thread th
  if t.haltReq then some .halt
  else match s.breakAt th with
    | some k =>
      if bit (s.reg (aCore (thG th) (thC th) + 0x84 + 8 * k)) 30 then some (.breakEntry k) else some (.breakHalt k)
    | none => if t.chabp then some .chabrt else none

/-- The NMI or line that comes first for thread th; a single step without STEPIRQ takes no interrupt (R263, R276). -/
def State.interrupt (s : State) (th : Nat) : Option Due :=
  let t := s.thread th
  if t.step = some false then none
  else match s.nmiDue th with
    | some d => some d
    | none => t.lineDue.map .line

/-- What is due at the boundary of thread th, in the order of R263, when the choice of the cycle saw this interrupt (R264). A thread
released with ACT 1 makes its entry before anything but a halt (R273, R275). -/
def State.dueAs (s : State) (th : Nat) (seen : Option Due) : Option Due :=
  let t := s.thread th
  if t.retryDue && !t.halted && !t.held && t.wait = .ready then some (if t.haltReq then .halt else .retry)
  else if !s.atBoundary th then none
  else match s.urgent th with
    | some d => some d
    | none => seen

/-- What is due at the boundary of thread th in the present state. -/
def State.due (s : State) (th : Nat) : Option Due := s.dueAs th (s.interrupt th)

/-- An interrupt that a choice saw is still there to be taken. -/
def State.stands (s : State) (th : Nat) (d : Due) : Bool :=
  let t := s.thread th
  let v := s.grove (thG th)
  let own := th = s.recovery (thG th) && !t.nmiact
  t.step ≠ some false &&
  (match d with
    | .hold h _ => own && v.holdQ.any (fun e => e.th = h && !e.reported)
    | .stall => own && v.nmiStall
    | .wdog => own && v.nmiWdog
    | .nmiext => !t.nmiact && t.nmip
    | .line i => bit t.status 30 && bit t.lines i && bit t.status (22 + i)
    | _ => false)

/-- The thread halts at its boundary without an issue (R275). -/
def Due.isHalt : Due → Bool
  | .halt | .breakHalt _ => true
  | _ => false

/-- The thread parks at this boundary (R174). -/
def State.parkDue (s : State) (th : Nat) : Bool := (s.thread th).parkReq && s.atBoundary th

/-- The thread parks under THCMD PARK, if it is at a boundary: a wait of the first case of R262 ends (R174). -/
def State.parkCheck (s : State) (th : Nat) : State :=
  if s.parkDue th then
    (s.cancelWait th).modThread th (fun t => ({ t with wait := .parked, parkReq := false } : Thread).stopHalt)
  else s

/-- An entry that is due ends a wait of the first case of R262 at the start of the cycle that follows (R264). -/
def State.waitCheck (s : State) (th : Nat) : State :=
  if (s.thread th).wait.atBoundary && (match s.due th with | some d => !d.isHalt | none => false) then s.cancelWait th else s

/-- The thread has something to issue: an instruction, or an entry that is due (R150, R262). -/
def State.readyAs (s : State) (th : Nat) (seen : Option Due) : Bool :=
  let t := s.thread th
  !t.halted && !t.held && !s.parkDue th &&
  (match s.dueAs th seen with
    | some d => !d.isHalt
    | none => t.wait = .ready)

/-- The thread is ready in the present state. -/
def State.ready (s : State) (th : Nat) : Bool := s.readyAs th (s.interrupt th)

/-! ## The wheel -/

/-- The owner of slot i in a table: a thread for a TIMED slot, none for an OPEN one (R150). -/
def slotOwner (tab : SMap (BitVec 32)) (i : Nat) : Option Nat :=
  let e := fld (mget 0 tab (i / 4)) (8 * (i % 4)) 8
  if e / 16 % 2 = 1 then some (e % 16) else none

/-- The owner of the slot that comes j cycles after the present one, in the table in force then (R152, R168). -/
def Core.owner (k : Core) (j : Nat) : Option Nat :=
  slotOwner (if k.pos + j ≥ 16 then k.slotNext.getD k.slotAct else k.slotAct) ((k.pos + j) % 16)

/-- Priority of a thread in OPEN slots. -/
def State.prio (s : State) (g c t : Nat) : Nat := fld (s.thread (thid g c t)).thcfgA 8 3

/-- A thread is eligible when it is ready and does not execute in the cycle before (R150). -/
def State.eligible (s : State) (g c : Nat) (last : Option Nat) (t : Nat) : Bool := last ≠ some t && s.ready (thid g c t)

/-- The candidates of an OPEN slot j cycles ahead (R151, R152). -/
def State.candidates (s : State) (g c j : Nat) (last : Option Nat) : List Nat :=
  let next := (s.core (coreKey g c)).owner (j + 1)
  (upto 16).filter (fun t => bit (s.thread (thid g c t)).thcfgA 1 && next ≠ some t && s.eligible g c last t)

/-- The highest priority among candidates. -/
def State.topPrio (s : State) (g c : Nat) (cands : List Nat) : Nat := cands.foldl (fun m t => max m (s.prio g c t)) 0

/-- The winner of an OPEN slot: the highest priority, ties by rotation (R153). -/
def State.openWinner (s : State) (g c j : Nat) (last : Option Nat) : Option Nat :=
  let cands := s.candidates g c j last
  let top := s.topPrio g c cands
  let ptr := mget 15 (s.core (coreKey g c)).ptrs top
  ((upto 16).map (fun i => (ptr + 1 + i) % 16)).find? (fun t => cands.contains t && s.prio g c t = top)

/-- A choice with what it saw of the thread. -/
def State.sel (s : State) (g c : Nat) (t : Option Nat) (won lent : Bool) : Sel :=
  match t with
  | none => { t := none, won := none, lent := lent, due := none }
  | some x => { t := t, won := if won then some (s.prio g c x) else none, lent := lent, due := s.interrupt (thid g c x) }

/-- The choice of R151 for the slot j cycles ahead, from the present state; `last` executes in the cycle before it. -/
def State.select (s : State) (g c j : Nat) (last : Option Nat) : Sel :=
  match (s.core (coreKey g c)).owner j with
  | none => s.sel g c (s.openWinner g c j last) true false
  | some t =>
    if s.eligible g c last t then s.sel g c (some t) false false
    else if bit (s.thread (thid g c t)).thcfgA 0 then s.sel g c (s.openWinner g c j last) true true
    else s.sel g c none false false

/-- The choice that the select stage made for the present cycle: none before the first one (R157). -/
def State.made (s : State) (g c : Nat) : Sel :=
  (s.core (coreKey g c)).chosen.getD { t := none, won := none, lent := false, due := none }

/-- The choice in force: a thread that something has stopped since it was chosen does not execute. -/
def State.choice (s : State) (g c : Nat) : Sel :=
  let sel := s.made g c
  match sel.t with
  | none => sel
  | some t => if s.readyAs (thid g c t) (sel.due.filter (s.stands (thid g c t))) then sel else { sel with t := none }

/-- What is due for thread th in the cycle for which it is chosen. -/
def State.dueNow (s : State) (th : Nat) : Option Due :=
  s.dueAs th ((s.choice (thG th) (thC th)).due.filter (s.stands th))

/-- The winner of a choice becomes the pointer of its level (R153). -/
def Core.turn (k : Core) (sel : Sel) : Core :=
  match sel.won, sel.t with
  | some p, some t => { k with ptrs := mput 15 k.ptrs p t }
  | _, _ => k

/-- The select stage of core c chooses for the next cycle (R157). -/
def State.lookAhead (s : State) (g c : Nat) : State :=
  let sel := s.select g c 1 (s.choice g c).t
  s.modCore (coreKey g c) (fun k => { k.turn sel with ahead := some sel })

/-- All cores of the grove have run the same number of cycles (R149). -/
def State.aligned (s : State) (g : Nat) : Bool :=
  (upto 32).all (fun c => (s.core (coreKey g c)).pos = (s.core (coreKey g 0)).pos)

/-- The cores of grove g that the state lists a thread of. -/
def State.liveCores (s : State) (g : Nat) : List Nat :=
  (upto 32).filter (fun c => s.threads.any (fun e => thG e.1 = g && thC e.1 = c))

/-- The first core to run a cycle begins the cycle of the grove: Block Time reaches it and the timers count, waits that an entry ends are
over, the flags are noted, and every core chooses for the next cycle from the state that holds now (R149, R157, R244, R264, R357, R378). -/
def State.openCycle (s : State) (g : Nat) : State :=
  if (s.beat g).inCycle then s
  else
    let s := (s.threadsOf g (fun t => t.wait.atBoundary)).foldl (fun s th => s.waitCheck th) s
    let s := (s.timReach g (((s.nextBeat g).getD (s.beat g).begun) + 1)).beatOn g
    let s := s.setBeat g { s.beat g with inCycle := true, flags := (s.grove g).flags, olds := [] }
    (s.liveCores g).foldl (fun s c => s.lookAhead g c) s

/-- The cycle of the grove ends with its last core: the flags settle (R149, R244, R307). -/
def State.closeCycle (s : State) (g : Nat) : State :=
  if (s.beat g).inCycle && s.aligned g then
    let was := (s.beat g).flags
    (s.setBeat g { s.beat g with inCycle := false, olds := [] }).settleFlags g was
  else s

/-- Every thread of the core that has a share is PARKED, as the entry to service mode asks (R176). Model's choice, log entry 121: one that
is PARKED and in HALT too is waited for until it leaves HALT. -/
def State.shareParked (s : State) (g c : Nat) : Bool :=
  (upto 16).all (fun t =>
    let th := thid g c t
    !s.hasShare th || ((s.thread th).wait = .parked || (s.thread th).wait = .parkedDone) && !(s.thread th).halted &&
      !(s.thread th).held)

/-- A change that belongs to a revolution boundary is due before slot 0 runs (R168, R176, R177). -/
def State.turnDue (s : State) (g c : Nat) : Bool :=
  let k := s.core (coreKey g c)
  k.pos = 0 && (k.slotNext.isSome || k.maintReq || (k.mreq && s.shareParked g c))

/-- The core runs its next cycle: the grove's clock gives one, no core of the grove is a cycle behind it, and no change of a revolution
boundary is due (R149; log entry 4). -/
def State.coreRuns (s : State) (g c : Nat) : Bool :=
  s.groveOn g && ((s.beat g).inCycle || s.beatReady g) && (upto 32).all (fun i =>
    (s.core (coreKey g i)).pos ≠ ((s.core (coreKey g c)).pos + 15) % 16 && !s.turnDue g i)

/-- The bookkeeping of one core cycle: the wheel moves on, and the counters (R149, R181). A grove of which a thread has executed was
not stalled (R313). -/
def State.coreTurn (s : State) (g c : Nat) (sel : Sel) : State :=
  let s := s.modCore (coreKey g c) (fun k => { k with
    pos := (k.pos + 1) % 16
    lastExec := sel.t
    chosen := k.ahead
    ahead := none })
  let s := if sel.t.isSome then s.setStall g {} else s
  let s := s.count (aCore g c + if sel.t.isSome then 0x40 else 0x48)
  if sel.lent then s.count (aCore g c + 0x50) else s

/-- The end of one core cycle: the wheel moves on, threads park, and with the last core the cycle of the grove ends. -/
def State.coreTick (s : State) (g c : Nat) (sel : Sel) : State :=
  ((upto 16).foldl (fun s t => s.parkCheck (thid g c t)) (s.coreTurn g c sel)).closeCycle g

/-! ## The frame of a step -/

/-- What a step of an instruction comes to. -/
inductive Outc where
  /-- The step is made; the meaning has moved the PC or PROG. -/
  | done (s : State)
  /-- The step must wait: it changes nothing (R507). -/
  | attempt (w : Wait) (s : State)
  /-- An execution fault; the return PC is that of R256. -/
  | fault (cause : Nat) (bad : Option (BitVec 40)) (s : State)
  /-- A fatal exception: an uncorrectable return stack entry (R271). -/
  | fatal (s : State)

/-- The instruction that thread th issues in this cycle, when it is mn: its core runs, the choice falls on the thread, nothing
is due at its boundary and the checks of R201 pass. -/
def State.issue (s : State) (th : Nat) (mn : Mn) : Option (FInstr × Sel) :=
  let g := thG th
  let c := thC th
  let sel := s.choice g c
  if s.coreRuns g c && sel.t = some (thT th) && (s.dueNow th).isNone then
    match s.fetch th with
    | .instr f => if f.mn = mn then some (f, sel) else none
    | .fault _ _ _ => none
  else none

/-- Instructions of several steps. -/
def Mn.multi : Mn → Bool
  | .lds | .bmov | .macx | .macxI | .macxC | .done => true
  | _ => false

/-- A step is behind the thread and its instruction is not complete. -/
def Thread.within (t : Thread) : Bool :=
  t.prog ≠ 0 || t.latchV || t.pendSt.isSome ||
  (match t.outst with
    | some o => match o.dest with | .latch _ | .copy _ _ => true | _ => false
    | none => false)

/-- The step of th is over. With the last step of its instruction the pending load lands, after the step's own writes, and the
instruction's own load becomes pending (R160; log entry 13); a single step may end (R276). BSKIP of an earlier step is cleared, and
set by RETX (R277). -/
def Thread.endStep (t : Thread) (mn : Mn) : Thread :=
  let t := { t with tried := false, bskip := mn = .retx }
  if mn.multi && t.within then t else t.land.promote.stepEnd

/-- Registers that this step of an instruction reads, for R271: CSUM reads g[D] with ADDIN alone (R249), and DONE reads g[S] in its
first step, when it holds a descriptor (R239, R241). -/
def Thread.reads (t : Thread) (f : FInstr) : List Nat :=
  let b := match f.b with | .reg r => [r] | .imm _ => []
  match f.mn with
  | .done => if t.descs ≠ [] && (t.prog = 0 || t.emits.length ≠ t.prog) then [f.s] else []
  | .csum => if bit f.s2 10 then [f.d, f.s] else [f.s]
  | .nop | .b | .call | .ret | .retx | .mfc | .sync | .trap | .pset | .movi => []
  | .mov | .neg | .ldw | .jr | .callr => [f.s]
  | .stw => [f.d, f.s]
  | .push => [31, f.s]
  | .pop => [31]
  | .ext | .clz | .insi | .ld | .lds | .mtc | .lock | .tryl | .unlk | .waite | .sige | .clre | .recv
  | .parse | .crcf | .tscf => [f.s]
  | .ins | .st | .stm | .sts | .bmov | .macx | .macxI | .macxC | .send | .xop | .xprobe => [f.d, f.s]
  | .aadd | .aswp => f.s :: b
  | .lkup => [f.s, (f.s + 1) % 32]
  | _ => f.a :: b

/-- An uncorrectable error in a register the instruction reads (R271). -/
def Thread.badReg (t : Thread) (f : FInstr) : Option Nat :=
  (t.reads f).find? (fun r => r ≠ 0 && mget 0 t.ecc r = 2)

/-- Corrected registers: each read of one is counted (R503). -/
def State.correctRegs (s : State) (th : Nat) (f : FInstr) : State :=
  let n := ((upto 32).filter (fun r => r ≠ 0 && ((s.thread th).reads f).contains r && mget 0 (s.thread th).ecc r = 1)).length
  if n = 0 then s else s.count 0x50 n

/-- Instructions that count their steps in PROG: their condition is evaluated at the first step only (R198). -/
def Mn.stepped : Mn → Bool
  | .lds | .bmov | .macx | .done => true
  | _ => false

/-- A fatal exception of the present instruction (R271, R503); the address of its ECCU event is a free value, since the spec
gives a register file no addresses. -/
def State.fatalHold (s : State) (th : Nat) : State :=
  let pc := (s.thread th).pc
  let (n, s) := s.fresh
  ((s.setThread th (s.thread th).land).eccEvent (10 + thG th) 2 (thG th) (Config.freeField n % 2 ^ 40)).hold th 2 causeECCU pc {}

/-- Close a step: its own result, the entry a fault makes in the same issue (R258), or the wait of an attempt (R507). -/
def closeStep (th : Nat) (f : FInstr) : Outc → State
  | .done s' => s'.modThread th (fun t => t.endStep f.mn)
  | .attempt w s' => s'.modThread th (fun t => { t with wait := w, tried := true })
  | .fault cause bad s' =>
    let badins := if cause = causeTRAP then some f.raw else none
    let pc := if cause = causeTRAP then ((s'.thread th).adv 2).pc else (s'.thread th).pc
    (s'.modThread th (fun t => { t with bskip := false })).enter th cause pc bad badins .fault
  | .fatal s' => s'.fatalHold th

/-- One step of instruction f of thread th under its condition. -/
def State.stepOf (s : State) (th : Nat) (f : FInstr) (body : FInstr → State → Outc) : State :=
  let t := s.thread th
  if !((f.mn.stepped && t.prog ≠ 0) || t.latchV || condHolds t.status f.cond) then
    s.modThread th (fun t => (t.adv f.size).endStep .nop)
  else if (t.badReg f).isSome then s.fatalHold th
  else closeStep th f (body f (s.correctRegs th f))

/-- A command of the instruction set: the step that thread th makes in this core cycle; a thread that does not issue this
instruction now changes nothing (log entry 2). -/
def State.runInstr (s : State) (th : Nat) (mn : Mn) (body : FInstr → State → Outc) : State :=
  match s.issue th mn with
  | none => s
  | some (f, sel) => (((s.openCycle (thG th)).fetchEcc th).stepOf th f body).coreTick (thG th) (thC th) sel

end Sys2Proof.Machine
end

