-- ==== Sys2Proof/Machine/Alu.lean ====
section
/-!
DEFINITION. The integer instructions (R223, R224) and the field, selection and predicate instructions (R225), with NOP.
-/
namespace Sys2Proof.Machine

/-- The value of the second operand. -/
def Thread.opnd (t : Thread) : Opnd → Word
  | .reg r => t.greg r
  | .imm w => w

/-- The step of an instruction that changes only its own thread, and moves past the instruction. -/
def regStep (th : Nat) (op : FInstr → Thread → Thread) (f : FInstr) (s : State) : Outc :=
  .done (s.modThread th (fun t => (op f t).adv f.size))

/-- Write the destination and the status. -/
def Thread.result (t : Thread) (d : Nat) (r : Word) (st : BitVec 32) : Thread := ({ t with status := st }).setGreg d r

/-- An addition or subtraction: result and all four flags. -/
def arith (op : Word → Word → Bool → Word × Bool × Bool) (cin : Thread → Bool) (write : Bool) (f : FInstr) (t : Thread) : Thread :=
  let r := op (t.greg f.a) (t.opnd f.b) (cin t)
  t.result (if write then f.d else 0) r.1 (flagsAll t.status r.1 r.2.1 r.2.2)

/-- A logical operation: result, Z and N. -/
def logic (op : Word → Word → Word) (write : Bool) (f : FInstr) (t : Thread) : Thread :=
  let r := op (t.greg f.a) (t.opnd f.b)
  t.result (if write then f.d else 0) r (flagsZN t.status r)

/-- A shift or rotation by the low 7 bits of its operand: result, Z, N and C under R224. -/
def shift (op : Word → Nat → Word × Option Bool) (f : FInstr) (t : Thread) : Thread :=
  let r := op (t.greg f.a) (fld (t.opnd f.b) 0 7)
  t.result f.d r.1 (flagsShift t.status r.1 r.2)

/-- A move: no flag changes. -/
def moveOp (op : Thread → FInstr → Word) (f : FInstr) (t : Thread) : Thread := t.setGreg f.d (op t f)

/-- The carry flag of a thread. -/
def Thread.carry (t : Thread) : Bool := bit t.status 2

def doNop (_ : FInstr) (t : Thread) : Thread := t
def doAdd := arith addc (fun _ => false) true
def doAdc := arith addc Thread.carry true
def doSub := arith subc (fun _ => true) true
def doSbc := arith subc Thread.carry true
def doCmp := arith subc (fun _ => true) false
def doAnd := logic (· &&& ·) true
def doOr := logic (· ||| ·) true
def doXor := logic (· ^^^ ·) true
def doAndn := logic (fun a b => a &&& ~~~b) true
def doTst := logic (· &&& ·) false
/-- MUL: the low halves, unsigned, into 64 bits (R223). -/
def doMul := logic (fun a b => wordOf (fld a 0 32 * fld b 0 32)) true
def doShl := shift shlc
def doShr := shift shrc
def doSar := shift sarc
def doRol := shift rolc
def doMov := moveOp (fun t f => t.greg f.s)
def doMovi := moveOp (fun t f => t.opnd f.b)
def doInsi := moveOp (fun t f => (t.greg f.s <<< 15) ||| t.opnd f.b)
/-- NEG: 0 − g[S] with the flags of SUB (R223). -/
def doNeg (f : FInstr) (t : Thread) : Thread :=
  let r := subc 0 (t.greg f.s) true
  t.result f.d r.1 (flagsAll t.status r.1 r.2.1 r.2.2)

/-- EXT (R225). -/
def doExt (f : FInstr) (t : Thread) : Thread :=
  let pos := fld f.s2 7 7
  let len := fld f.s2 0 7 + 1
  let x := fld (t.greg f.s) pos len
  let r := if bit f.s2 14 then wordOfInt (sgn len x) else wordOf x
  t.result f.d r (flagsZN t.status r)
/-- INS (R225). -/
def doIns := moveOp (fun t f => setFld (t.greg f.d) (fld f.s2 7 7) (fld f.s2 0 7 + 1) (t.greg f.s).toNat)
/-- CLZ (R225). -/
def doClz (f : FInstr) (t : Thread) : Thread :=
  let r := wordOf (clz72 (t.greg f.s))
  t.result f.d r (flagsZN t.status r)
/-- SEL (R225). -/
def doSel := moveOp (fun t f => if condHolds t.status (fld f.s2 0 4) then t.greg f.s else t.opnd f.b)
/-- PSET (R225). -/
def doPset (f : FInstr) (t : Thread) : Thread := { t with status := setBit t.status 4 (condHolds t.status (fld f.s2 0 4)) }

/-! ## One meaning for each command -/

/-- A command of this family: thread th makes the one step of instruction mn. -/
def aluCommand (mn : Mn) (op : FInstr → Thread → Thread) (th : Thid) (s : State) : Host.Outcome State Fault Refusal :=
  .next (s.runInstr th.toNat mn (regStep th.toNat op))

def execNop (th : Thid) (s : State) : Host.Outcome State Fault Refusal := aluCommand .nop doNop th s
def execAdd (th : Thid) (s : State) : Host.Outcome State Fault Refusal := aluCommand .add doAdd th s
def execAdc (th : Thid) (s : State) : Host.Outcome State Fault Refusal := aluCommand .adc doAdc th s
def execSub (th : Thid) (s : State) : Host.Outcome State Fault Refusal := aluCommand .sub doSub th s
def execSbc (th : Thid) (s : State) : Host.Outcome State Fault Refusal := aluCommand .sbc doSbc th s
def execAnd (th : Thid) (s : State) : Host.Outcome State Fault Refusal := aluCommand .and doAnd th s
def execOr (th : Thid) (s : State) : Host.Outcome State Fault Refusal := aluCommand .or doOr th s
def execXor (th : Thid) (s : State) : Host.Outcome State Fault Refusal := aluCommand .xor doXor th s
def execAndn (th : Thid) (s : State) : Host.Outcome State Fault Refusal := aluCommand .andn doAndn th s
def execShl (th : Thid) (s : State) : Host.Outcome State Fault Refusal := aluCommand .shl doShl th s
def execShr (th : Thid) (s : State) : Host.Outcome State Fault Refusal := aluCommand .shr doShr th s
def execSar (th : Thid) (s : State) : Host.Outcome State Fault Refusal := aluCommand .sar doSar th s
def execRol (th : Thid) (s : State) : Host.Outcome State Fault Refusal := aluCommand .rol doRol th s
def execCmp (th : Thid) (s : State) : Host.Outcome State Fault Refusal := aluCommand .cmp doCmp th s
def execTst (th : Thid) (s : State) : Host.Outcome State Fault Refusal := aluCommand .tst doTst th s
def execMul (th : Thid) (s : State) : Host.Outcome State Fault Refusal := aluCommand .mul doMul th s
def execMov (th : Thid) (s : State) : Host.Outcome State Fault Refusal := aluCommand .mov doMov th s
def execNeg (th : Thid) (s : State) : Host.Outcome State Fault Refusal := aluCommand .neg doNeg th s
def execAddi (th : Thid) (s : State) : Host.Outcome State Fault Refusal := aluCommand .addi doAdd th s
def execAdci (th : Thid) (s : State) : Host.Outcome State Fault Refusal := aluCommand .adci doAdc th s
def execSubi (th : Thid) (s : State) : Host.Outcome State Fault Refusal := aluCommand .subi doSub th s
def execSbci (th : Thid) (s : State) : Host.Outcome State Fault Refusal := aluCommand .sbci doSbc th s
def execAndi (th : Thid) (s : State) : Host.Outcome State Fault Refusal := aluCommand .andi doAnd th s
def execOri (th : Thid) (s : State) : Host.Outcome State Fault Refusal := aluCommand .ori doOr th s
def execXori (th : Thid) (s : State) : Host.Outcome State Fault Refusal := aluCommand .xori doXor th s
def execAndni (th : Thid) (s : State) : Host.Outcome State Fault Refusal := aluCommand .andni doAndn th s
def execShli (th : Thid) (s : State) : Host.Outcome State Fault Refusal := aluCommand .shli doShl th s
def execShri (th : Thid) (s : State) : Host.Outcome State Fault Refusal := aluCommand .shri doShr th s
def execSari (th : Thid) (s : State) : Host.Outcome State Fault Refusal := aluCommand .sari doSar th s
def execRoli (th : Thid) (s : State) : Host.Outcome State Fault Refusal := aluCommand .roli doRol th s
def execCmpi (th : Thid) (s : State) : Host.Outcome State Fault Refusal := aluCommand .cmpi doCmp th s
def execTsti (th : Thid) (s : State) : Host.Outcome State Fault Refusal := aluCommand .tsti doTst th s
def execMovi (th : Thid) (s : State) : Host.Outcome State Fault Refusal := aluCommand .movi doMovi th s
def execInsi (th : Thid) (s : State) : Host.Outcome State Fault Refusal := aluCommand .insi doInsi th s
def execExt (th : Thid) (s : State) : Host.Outcome State Fault Refusal := aluCommand .ext doExt th s
def execIns (th : Thid) (s : State) : Host.Outcome State Fault Refusal := aluCommand .ins doIns th s
def execClz (th : Thid) (s : State) : Host.Outcome State Fault Refusal := aluCommand .clz doClz th s
def execSel (th : Thid) (s : State) : Host.Outcome State Fault Refusal := aluCommand .sel doSel th s
def execPset (th : Thid) (s : State) : Host.Outcome State Fault Refusal := aluCommand .pset doPset th s

end Sys2Proof.Machine
end

