-- ==== Sys2Proof/Machine/Operands.lean ====
section
/-!
DEFINITION. The operands in memory: the core address map with its privileges and checks (R203 to R208, R286, R290 to R296,
R397, R508), address generation (R209 to R212), and the store buffer as loads and stores meet it (R164, R166).
-/
namespace Sys2Proof.Machine

/-! ## Targets -/

/-- What an effective address names (R204). -/
inductive Target where
  /-- A scratchpad word by its physical address, through port A or (true) port B. -/
  | spad (phys : Nat) (portB : Bool)
  | packet (k : Nat)
  | port (off : Nat)
  | core (off : Nat)
  | unit (off : Nat)
  | lookup (off : Nat)
  | ext (ea : Nat)
  deriving DecidableEq, Repr

/-- The outcome of the checks of an access. -/
inductive Check where
  | ok (t : Target)
  | dacc
  /-- The bank's handover or clear must end first (R292, R296). -/
  | bank (b : Nat)
  deriving DecidableEq, Repr

/-- The BOWN register of bank port bp: 0 to 31 port A, 32 and 33 port B of banks 30 and 31 (R316). -/
def State.bown (s : State) (g bp : Nat) : BitVec 32 := s.reg (aBanks g + 4 * bp)

/-- The physical bank of bank port bp. -/
def bankOf (bp : Nat) : Nat := if bp ≥ 32 then bp - 2 else bp

/-- Core c owns bank port bp (R290). -/
def State.coreOwns (s : State) (g c bp : Nat) : Bool := fld (s.bown g bp) 29 2 = 1 && fld (s.bown g bp) 24 5 = c

/-- The port through which core c reaches bank b, if it owns one (R290). -/
def State.portOf (s : State) (g c b : Nat) : Option Nat :=
  if s.coreOwns g c b then some b
  else if b ≥ 30 && s.coreOwns g c (b + 2) then some (b + 2)
  else none

/-- The physical bank that logical bank l of a core names in its active BANKMAP (R286). -/
def State.bankMap (s : State) (g c l : Nat) : Nat := fld (mget 0 (s.core (coreKey g c)).bankAct (l / 4)) (8 * (l % 4)) 5

/-- Bank b is powered. -/
def State.bankOn (s : State) (g b : Nat) : Bool := bit (s.bown g b) 31

/-- The check of a scratchpad access by core c at word a of the region; a bank that is off keeps nothing and has no owner (R286, R290,
R292, R295, R296). -/
def State.checkSpad (s : State) (g c a : Nat) : Check :=
  let b := s.bankMap g c (a / 4096)
  match if s.bankOn g b then s.portOf g c b else none with
  | none => .dacc
  | some bp =>
    if (s.grove g).bpend.contains bp || (mfind (s.grove g).bclr b).isSome then .bank bp
    else .ok (.spad (b * 4096 + a % 4096) (bp ≥ 32))

/-- A store to the core control window that R171, R207, R282 and R283 refuse: another thread's registers, of which a block of 0x40
bytes holds those up to 0x28 (R180), DBGCMD, and the core-scope debug registers. -/
def coreStoreRefused (t off : Nat) : Bool :=
  let byte := 4 * off
  (0x100 ≤ byte && byte < 0x500 &&
    (((byte - 0x100) / 0x40 ≠ t && (byte - 0x100) % 0x40 < 0x2C) || (byte - 0x100) % 0x40 = 0x24)) ||
    (0x80 ≤ byte && byte ≤ 0xB4)

/-- The check of an access of thread th at effective address ea (R203 to R208, R415). -/
def State.checkAccess (s : State) (th : Nat) (ea : Word) (write : Bool) : Check :=
  let g := thG th
  let t := s.thread th
  let a := ea.toNat
  if a ≥ 2 ^ 40 then .dacc
  else if a ≥ 2 ^ 39 then
    if t.isS && s.memOk (a - 2 ^ 39) then .ok (.ext (a - 2 ^ 39)) else .dacc
  else if a < 0x20000 then s.checkSpad g (thC th) a
  else if 0x100000 ≤ a && a < 0x100800 then
    match t.descs with
    | [] => .dacc
    | d :: _ => if write && wordsOf d.len ≤ a - 0x100000 then .dacc else .ok (.packet (a - 0x100000))
  else if !t.isS then .dacc
  else if 0x200000 ≤ a && a < 0x208000 then
    if s.islandOpen (6 + (a - 0x200000) / 0x100 / 32) then .ok (.port (a - 0x200000)) else .dacc
  else if 0x300000 ≤ a && a < 0x300400 then
    if write && coreStoreRefused (thT th) (a - 0x300000) then .dacc else .ok (.core (a - 0x300000))
  else if 0x400000 ≤ a && a < 0x410000 then
    let u := (a - 0x400000) / 0x1000
    if u = 7 || u = 8 || u = 9 || u = 0xB || u ≥ 0xD then .ok (.unit (a - 0x400000)) else .dacc
  else if 0x500000 ≤ a && a < 0x501000 then .ok (.lookup (a - 0x500000))
  else .dacc

/-- The access is one that LDS, STS and BMOV allow: scratchpad, packet window or external memory (R213, R229). -/
def Target.symbols : Target → Bool
  | .spad _ _ | .packet _ | .ext _ => true
  | _ => false

/-- The check with a restriction on the region. -/
def Check.only (c : Check) (f : Target → Bool) : Check :=
  match c with
  | .ok t => if f t then .ok t else .dacc
  | c => c

/-- The restriction to scratchpad, for MACX, the atomics and DONE (R232, R234, R240). -/
def Target.isSpad : Target → Bool
  | .spad _ _ => true
  | _ => false

/-! ## Address generation -/

/-- The low m bits of i reversed. -/
def revBits (m i : Nat) : Nat := (upto m).foldl (fun acc j => acc * 2 + i / 2 ^ j % 2) 0

/-- m when len is 2^m with m from 1 to 15. -/
def log2Exact (len : Nat) : Option Nat := ((upto 16).drop 1).find? (fun m => len = 2 ^ m)

/-- The next address in the active MODk from address a with a step; none where R210 or R211 raises DACC. -/
def Thread.modNext (t : Thread) (k : Nat) (a : Word) (step : Int) : Option Word :=
  let m := mget 0 t.modA k
  let base := fld m 0 40
  let len := fld m 40 16
  if len = 0 || a.toNat < base || base + len ≤ a.toNat then none
  else
    let i := a.toNat - base
    if bit m 71 then
      match log2Exact len with
      | none => none
      | some n => some (wordOf (base + revBits n (((revBits n i : Nat) + step) % (len : Nat)).toNat))
    else some (wordOf (base + (((i : Nat) + step) % (len : Nat)).toNat))

/-- The address of an LD or ST and the base register's next value: none where the modulo check fails (R209). -/
def Thread.addrM (t : Thread) (f : FInstr) : Option (Word × Option Word) :=
  let b := t.greg f.s
  let off := (f.s2.extractLsb' 0 13).signExtend 72
  match fld f.s2 13 2 with
  | 0 => some (b + off, none)
  | 1 => some (b, some (b + off))
  | _ => (t.modNext (fld f.s2 11 2) b (sgn 11 (fld f.s2 0 11))).map (fun n => (b, some n))

/-! ## The store buffer -/

/-- The youngest entry of a store buffer whose lanes overlap a load's (R166). -/
def Thread.overlap (t : Thread) (ea : Word) (lanes : BitVec 8) : Option SbEntry :=
  t.sb.reverse.find? (fun e => e.addr.toNat = ea.toNat && (e.mask &&& lanes) ≠ 0)

/-- A scratchpad word is read: a single-bit error is corrected, counted and due for a write-back; an uncorrectable one sets UE,
counts and is recorded (R297, R503). -/
def State.readSpad (s : State) (g phys : Nat) : State × Word × Bool :=
  let v := s.grove g
  let w := mget 0 v.scratch phys
  match mget 0 v.secc phys with
  | 0 => (s, w, false)
  | 1 =>
    ((s.modGrove g (fun v => { v with wback := if v.wback.contains phys then v.wback else v.wback ++ [phys] })).count
      (aBanks g + 0x220), w, false)
  | _ =>
    let s := (s.orReg (aBanks g + 0x100 + 4 * (phys / 4096)) 8).count (aBanks g + 0x228)
    (s.eccEvent (10 + g) 0 g phys, w, true)

/-- Write lanes of a scratchpad word; its check bits are good again and a pending write-back is cancelled (R297). -/
def State.writeSpad (s : State) (g phys : Nat) (w : Word) (mask : BitVec 8) : State :=
  s.modGrove g (fun v => { v with
    scratch := mput 0 v.scratch phys (mergeLanes (mget 0 v.scratch phys) w mask)
    secc := mdel v.secc phys
    wback := v.wback.filter (· ≠ phys) })

/-- Lanes of a scratchpad word are stored. A store of fewer than all lanes reads the word that it merges into: a single-bit error is
corrected and counted, and an uncorrectable one is reported and leaves the word marked, with the lanes written (R297, R503, R505; log
entry 119). -/
def State.storeSpad (s : State) (g phys : Nat) (w : Word) (mask : BitVec 8) : State :=
  let mark := mget 0 (s.grove g).secc phys
  if mask = 0xFF || mark = 0 then s.writeSpad g phys w mask
  else
    let u := (s.readSpad g phys).1.writeSpad g phys w mask
    if mark = 1 then u else u.modGrove g (fun v => { v with secc := mput 0 v.secc phys mark })

/-- A write through a port of a bank. One that follows a write of the same word through the other port of a dual-port bank between the
same two cycles of the grove falls into that write's bank cycle, or into a later one, as a free value has it: in one cycle port A's write
lands and port B's is lost (R294; log entry 117). -/
def State.writePort (s : State) (g phys : Nat) (portB : Bool) (w : Word) (mask : BitVec 8) : State :=
  if phys < 30 * 4096 then s.storeSpad g phys w mask
  else
    let now := ((s.grove g).cyc, (s.beat g).begun)
    let x : DualWrite := { word := phys, portB := portB, old := mget 0 (s.grove g).scratch phys, cycle := now }
    let plain (s : State) : State := (s.modGrove g (fun v => { v with dual := some x })).storeSpad g phys w mask
    match (s.grove g).dual with
    | none => plain s
    | some y =>
      if y.word = phys && y.portB ≠ portB && y.cycle = now then
        let (n, s) := s.fresh
        if Config.freeField n % 2 = 0 then plain s
        else
          let s := s.orReg (aBanks g + 0x100 + 4 * (phys / 4096)) 4
          if portB then s else s.writeSpad g phys (mergeLanes y.old w mask) 0xFF
      else plain s

/-- What a load meets at execution (R166, R205). -/
inductive LoadRes where
  | dacc
  | wait (w : Wait)
  | word (s : State) (w : Word)
  | eccu (s : State)
  | later (t : Target)

/-- A load of lanes of the word at ea by thread th, in the regions allowed. Model's choice, log entry 120: lanes beyond LEN of the packet's
last word that are taken from a buffered store (R166) are those stored, where R208 says of the packet's word that they read 0. -/
def State.loadWord (s : State) (th : Nat) (ea : Word) (lanes : BitVec 8) (allow : Target → Bool) : LoadRes :=
  match (s.checkAccess th ea false).only allow with
  | .dacc => .dacc
  | .bank b => .wait (.bank b)
  | .ok t =>
    match (s.thread th).overlap ea lanes with
    | some e => if e.mask &&& lanes = lanes then .word s e.data else .wait (.ovlap e.ord)
    | none =>
      match t with
      | .spad phys _ =>
        let r := s.readSpad (thG th) phys
        if r.2.2 then .eccu r.1 else .word r.1 r.2.1
      | t => .later t

/-- The unit that answers a load of a target. -/
def Target.unit' : Target → Unit'
  | .packet _ => .packet
  | .ext _ => .external
  | _ => .window

/-- The request of a load leaves the grove (R208, R398). -/
def State.sendLoad (s : State) (th : Nat) (t : Target) : State :=
  match t with
  | .packet k =>
    match (s.thread th).descs with
    | d :: _ => s.push (144 + thG th)
        (.window { th := th, cell := d.cell, len := d.len, write := false, word := k, data := 0, mask := 0 })
    | [] => s
  | .ext ea => s.memSend
      { cls := 2 + thG th, write := false, ea := ea, mask := 0xFF, data := 0, src := .core th ((s.grove (thG th)).cyc),
        since := 0 }
  | _ => s

/-- A load waits for its target: the thread is in LOAD until the data return (R163). -/
def State.beginLoad (s : State) (th : Nat) (t : Target) (ea : Word) (dest : Dest) (undo : Option (Nat × Word)) : State :=
  let s := s.modThread th (fun x => { x with
    wait := .load
    outst := some { unit := t.unit', dest := dest, pc := x.pc, addr := ea.setWidth 40, since := (s.grove (thG th)).cyc,
                    undo := undo, ans := none, ansP := none } })
  s.sendLoad th t

/-- One store of a store instruction. -/
structure StoreReq where
  ea   : Word
  data : Word
  mask : BitVec 8
  deriving DecidableEq, Repr

/-- What a store instruction meets at execution. -/
inductive StoreRes where
  | dacc (ea : Word)
  | wait (w : Wait)
  | ok (s : State)

/-- The entry of a checked store. -/
def State.sbEntry (s : State) (th : Nat) (r : StoreReq) (t : Target) : SbEntry :=
  { addr := r.ea.setWidth 40, data := r.data, mask := r.mask,
    phys := match t with | .spad p b => some (p, b) | _ => none,
    ord := (s.core (thCore th)).ordNext, sent := false, acc := false, since := (s.grove (thG th)).cyc }

/-- An entry joins the thread's buffer (R164). -/
def State.addEntry (s : State) (th : Nat) (e : SbEntry) : State :=
  (s.modThread th (fun t => { t with sb := t.sb ++ [e] })).modCore (thCore th) (fun c => { c with ordNext := e.ord + 1 })

/-- The targets of the stores of one instruction, all checked before any enters (R164, R215). -/
def State.checkStores (s : State) (th : Nat) (allow : Target → Bool) : List StoreReq → Except StoreRes (List (StoreReq × Target))
  | [] => .ok []
  | r :: rest =>
    match (s.checkAccess th r.ea true).only allow with
    | .dacc => .error (.dacc r.ea)
    | .bank b => .error (.wait (.bank b))
    | .ok t =>
      match s.checkStores th allow rest with
      | .ok l => .ok ((r, t) :: l)
      | .error e => .error e

/-- The stores of one instruction: the buffer must have room for all, then all are checked, then all enter (R164, R215). -/
def State.store (s : State) (th : Nat) (reqs : List StoreReq) (allow : Target → Bool) : StoreRes :=
  if (s.thread th).sb.length + reqs.length > 2 then .wait (.sbfull reqs.length)
  else
    match s.checkStores th allow reqs with
    | .error e => e
    | .ok l => .ok (l.foldl (fun s x => s.addEntry th (s.sbEntry th x.1 x.2)) s)

end Sys2Proof.Machine
end

