-- ==== Sys2Proof/Machine/LoadStore.lean ====
section
/-!
DEFINITION. Loads, stores, PUSH and POP, BMOV, MACX and the bank atomics (R209 to R215, R220, R226 to R235).
-/
namespace Sys2Proof.Machine

/-- Every region (R226). -/
def anyTarget (_ : Target) : Bool := true

/-- The low 40 bits of an address, as BADADDR takes it. -/
def badOf (w : Word) : Option (BitVec 40) := some (w.setWidth 40)

/-- The thread writes its destination when its next instruction ends (R160). -/
def Thread.begin (t : Thread) (reg : Nat) (v : Word) (p : Option Bool) : Thread :=
  { t with landNext := some { reg := reg, val := v, p := p } }

/-- An attempt of a load: an annulment counts in OVLWAIT (R166). -/
def loadAttempt (th : Nat) (w : Wait) (s : State) : Outc :=
  match w with
  | .ovlap _ => .attempt w (s.count (aCore (thG th) (thC th) + 0x58))
  | _ => .attempt w s

/-- A load of lanes first to first + n − 1 of the word at ea into a register; then the base, if any, is written back (R212). -/
def loadInto (th reg : Nat) (ea : Word) (first n : Nat) (base : Option (Nat × Word)) (allow : Target → Bool) (size : Nat)
    (s : State) : Outc :=
  let back (t : Thread) : Thread := (match base with | some (r, v) => t.setGreg r v | none => t).adv size
  match s.loadWord th ea (lanesFrom first n) allow with
  | .dacc => .fault causeDACC (badOf ea) s
  | .wait w => loadAttempt th w s
  | .eccu s => .fault causeECCU (badOf ea) s
  | .word s w => .done (s.modThread th (fun t => back (t.begin reg (takeLanes w first n) none)))
  | .later tg =>
    let undo := base.map (fun b => (b.1, (s.thread th).greg b.1))
    .done ((s.beginLoad th tg ea (.land reg first n) undo).modThread th back)

/-- A store instruction: its entries enter, then the base, if any, is written back. -/
def storeStep (th : Nat) (reqs : List StoreReq) (base : Option (Nat × Word)) (allow : Target → Bool) (size : Nat)
    (s : State) : Outc :=
  match s.store th reqs allow with
  | .dacc ea => .fault causeDACC (badOf ea) s
  | .wait w => .attempt w s
  | .ok s => .done (s.modThread th (fun t => (match base with | some (r, v) => t.setGreg r v | none => t).adv size))

def bodyLdw (th : Nat) (f : FInstr) (s : State) : Outc :=
  loadInto th f.d ((s.thread th).greg f.s) 0 8 none anyTarget f.size s

def bodyStw (th : Nat) (f : FInstr) (s : State) : Outc :=
  let t := s.thread th
  storeStep th [{ ea := t.greg f.d, data := t.greg f.s, mask := 0xFF }] none anyTarget f.size s

def bodyLd (th : Nat) (f : FInstr) (s : State) : Outc :=
  match (s.thread th).addrM f with
  | none => .fault causeDACC (badOf ((s.thread th).greg f.s)) s
  | some (ea, next) => loadInto th f.d ea 0 8 (next.map (fun v => (f.s, v))) anyTarget f.size s

def bodySt (th : Nat) (f : FInstr) (s : State) : Outc :=
  let t := s.thread th
  match t.addrM f with
  | none => .fault causeDACC (badOf (t.greg f.s)) s
  | some (ea, next) =>
    storeStep th [{ ea := ea, data := t.greg f.d, mask := 0xFF }] (next.map (fun v => (f.s, v))) anyTarget f.size s

/-- STM: the lanes that MASK selects (R226). -/
def bodyStm (th : Nat) (f : FInstr) (s : State) : Outc :=
  let t := s.thread th
  let ea := t.greg f.s + (f.s2.extractLsb' 0 7).signExtend 72
  storeStep th [{ ea := ea, data := t.greg f.d, mask := f.s2.extractLsb' 7 8 }] none anyTarget f.size s

/-- The symbol address of an LDS or STS and its lane count (R213). -/
def Thread.symAddr (t : Thread) (f : FInstr) : Word × Nat := (t.greg f.s + wordOf (fld f.s2 0 12), fld f.s2 12 3 + 1)

/-- LDS: one word, or two steps over two words (R214); an attempt changes no PROG value (R507). -/
def bodyLds (th : Nat) (f : FInstr) (s : State) : Outc :=
  let t := s.thread th
  let (sa, n) := t.symAddr f
  let first := sa.toNat % 8
  let word := sa >>> 3
  if first + n ≤ 8 then
    match s.loadWord th word (lanesFrom first n) Target.symbols with
    | .wait w => loadAttempt th w s
    | _ => loadInto th f.d word first n none Target.symbols f.size (s.modThread th (fun t => { t.setProg 0 with latchV := false }))
  else if t.prog = 1 && t.latchV then
    let k := first + n - 8
    let ea := word + 1
    let s0 := s.modThread th (fun t => t.setProg 0)
    match s.loadWord th ea (lanesFrom 0 k) Target.symbols with
    | .dacc => .fault causeDACC (badOf ea) s0
    | .wait w => loadAttempt th w s
    | .eccu s => .fault causeECCU (badOf ea) (s.modThread th (fun t => t.setProg 0))
    | .word s w => .done (s.modThread th (fun t =>
        ({ t.setProg 0 with latchV := false }.begin f.d (t.latch ||| (takeLanes w 0 k <<< (9 * (8 - first)))) none).adv f.size))
    | .later tg => .done ((s.beginLoad th tg ea (.join f.d (8 - first) k) none).modThread th (fun t =>
        { t.setProg 0 with latchV := false }.adv f.size))
  else
    match s.loadWord th word (lanesFrom first (8 - first)) Target.symbols with
    | .dacc => .fault causeDACC (badOf word) (s.modThread th (fun t => t.setProg 0))
    | .wait w => loadAttempt th w s
    | .eccu s => .fault causeECCU (badOf word) (s.modThread th (fun t => t.setProg 0))
    | .word s w => .done (s.modThread th (fun t =>
        { t.setProg 1 with latch := takeLanes w first (8 - first), latchV := true }))
    | .later tg => .done (s.beginLoad th tg word (.latch first) none)

/-- The stores of an STS: one word, or two when it is split (R215). -/
def stsReqs (sa data : Word) (n : Nat) : List StoreReq :=
  let first := sa.toNat % 8
  let word := sa >>> 3
  if first + n ≤ 8 then [{ ea := word, data := data <<< (9 * first), mask := lanesFrom first n }]
  else [{ ea := word, data := data <<< (9 * first), mask := lanesFrom first (8 - first) },
        { ea := word + 1, data := data >>> (9 * (8 - first)), mask := lanesFrom 0 (first + n - 8) }]

def bodySts (th : Nat) (f : FInstr) (s : State) : Outc :=
  let t := s.thread th
  let (sa, n) := t.symAddr f
  storeStep th (stsReqs sa (t.greg f.d) n) none Target.symbols f.size s

/-- PUSH (R220). -/
def bodyPush (th : Nat) (f : FInstr) (s : State) : Outc :=
  let t := s.thread th
  let sp := t.greg 31
  if t.dsbase.toNat < sp.toNat && sp.toNat ≤ t.dslim.toNat then
    storeStep th [{ ea := sp - 1, data := t.greg f.s, mask := 0xFF }] (some (31, sp - 1)) anyTarget f.size s
  else .fault causeSTKBND (badOf sp) s

/-- POP (R220). -/
def bodyPop (th : Nat) (f : FInstr) (s : State) : Outc :=
  let t := s.thread th
  let sp := t.greg 31
  if t.dsbase.toNat ≤ sp.toNat && sp.toNat < t.dslim.toNat then
    loadInto th f.d sp 0 8 (some (31, sp + 1)) anyTarget f.size s
  else .fault causeSTKBND (badOf sp) s

/-- The end of a step of a repeated instruction: PROG counts on, or the instruction is complete (R228, R231). -/
def Thread.repeatStep (t : Thread) (last : Bool) (size : Nat) : Thread :=
  if last then (t.setProg 0).adv size else t.setProg (t.prog + 1)

/-- BMOV: one word for each step (R228 to R230). -/
def bodyBmov (th : Nat) (f : FInstr) (s : State) : Outc :=
  let t := s.thread th
  let k := t.prog
  let count := fld f.s2 0 7
  if count ≤ k then .done (s.modThread th (fun t => (t.setProg 0).adv f.size))
  else
    let src := t.greg f.s + wordOf k
    let dst := t.greg f.d + wordOf k
    let last := k + 1 = count
    match s.loadWord th src 0xFF Target.symbols with
    | .dacc => .fault causeDACC (badOf src) s
    | .wait w => loadAttempt th w s
    | .eccu s => .fault causeECCU (badOf src) s
    | .word s w =>
      match s.store th [{ ea := dst, data := w, mask := 0xFF }] Target.symbols with
      | .dacc ea => .fault causeDACC (badOf ea) s
      | .wait w => .attempt w s
      | .ok s => .done (s.modThread th (fun t => t.repeatStep last f.size))
    | .later tg =>
      match (s.checkAccess th dst true).only Target.symbols with
      | .dacc => .fault causeDACC (badOf dst) s
      | .bank b => .attempt (.bank b) s
      | .ok dt =>
        let e := s.sbEntry th { ea := dst, data := 0, mask := 0xFF } dt
        .done (s.beginLoad th tg src (.copy e last) none)

/-- The accumulator pair as one number (R231). -/
def Thread.acc (t : Thread) : Nat := t.acch.toNat * 2 ^ 72 + t.accl.toNat

/-- Write the accumulator pair, modulo 2^144. -/
def Thread.setAcc (t : Thread) (n : Nat) : Thread := { t with accl := wordOf n, acch := wordOf (n / 2 ^ 72) }

/-- The arithmetic of one MACX step (R231). -/
def Thread.macAcc (t : Thread) (cl : Bool) (a b : Word) : Thread :=
  t.setAcc (if cl then t.acc ^^^ clmul a b else t.acc + fld a 0 32 * fld b 0 32)

/-- The address that follows a in a MACX: the next one under MODk, or a + 1 (R212, R231). -/
def Thread.macNext (t : Thread) (useMod : Bool) (k : Nat) (a : Word) : Option Word :=
  if useMod then t.modNext k a 1 else some (a + 1)

/-- Both words lie in one physical bank (R232). -/
def sameBank : Check → Check → Bool
  | .ok (.spad a _), .ok (.spad b _) => a / 4096 = b / 4096
  | _, _ => false

/-- MACX: one step, in one execution, or in two when both words lie in one bank (R231, R232). -/
def macStep (th : Nat) (cl wa wb : Bool) (count : Nat) (f : FInstr) (s : State) : Outc :=
  let t := s.thread th
  let k := if f.long then t.prog else 0
  if count ≤ k then .done (s.modThread th (fun t => (t.setProg 0).adv f.size))
  else
    let pa := t.greg f.d
    let pb := t.greg f.s
    match t.macNext wa 0 pa, t.macNext wb 1 pb with
    | none, _ => .fault causeDACC (badOf pa) s
    | _, none => .fault causeDACC (badOf pb) s
    | some na, some nb =>
      let same := sameBank ((s.checkAccess th pa false).only Target.isSpad) ((s.checkAccess th pb false).only Target.isSpad)
      let second (s : State) (a : Word) : Outc :=
        match s.loadWord th pb 0xFF Target.isSpad with
        | .dacc | .later _ => .fault causeDACC (badOf pb) s
        | .wait w => loadAttempt th w s
        | .eccu s => .fault causeECCU (badOf pb) s
        | .word s b => .done (s.modThread th (fun t =>
            let t := (((t.macAcc cl a b).setGreg f.d na).setGreg f.s nb)
            let t := { t with latchV := false }
            if f.long then t.repeatStep (k + 1 = count) f.size else t.adv f.size))
      if t.latchV then second s t.latch
      else
        match s.loadWord th pa 0xFF Target.isSpad with
        | .dacc | .later _ => .fault causeDACC (badOf pa) s
        | .wait w => loadAttempt th w s
        | .eccu s => .fault causeECCU (badOf pa) s
        | .word s a =>
          if same then .done (s.modThread th (fun t => { t with latch := a, latchV := true }))
          else second s a

def bodyMacx (th : Nat) (f : FInstr) (s : State) : Outc :=
  macStep th (bit f.s2 14) (bit f.s2 13) (bit f.s2 12) (fld f.s2 0 6 + 1) f s
def bodyMacxI (th : Nat) (f : FInstr) (s : State) : Outc := macStep th false false false 1 f s
def bodyMacxC (th : Nat) (f : FInstr) (s : State) : Outc := macStep th true false false 1 f s

/-- A bank atomic: it waits for the store buffer, then reads and writes its word in one step (R233, R234). -/
def atomic (op : Word → Word → Word) (th : Nat) (f : FInstr) (s : State) : Outc :=
  let t := s.thread th
  if t.sb ≠ [] then .attempt .drain s
  else
    let ea := t.greg f.s + (f.s2.extractLsb' 0 10).signExtend 72
    let b := match f.b with | .reg r => t.greg r | .imm w => w
    match (s.checkAccess th ea true).only Target.isSpad with
    | .dacc => .fault causeDACC (badOf ea) s
    | .bank bp => .attempt (.bank bp) s
    | .ok (.spad phys _) =>
      let r := s.readSpad (thG th) phys
      if r.2.2 then .fault causeECCU (badOf ea) r.1
      else .done ((r.1.writeSpad (thG th) phys (op r.2.1 b) 0xFF).modThread th (fun t => (t.begin f.d r.2.1 none).adv f.size))
    | .ok _ => .fault causeDACC (badOf ea) s

def bodyAadd (th : Nat) (f : FInstr) (s : State) : Outc := atomic (· + ·) th f s
def bodyAswp (th : Nat) (f : FInstr) (s : State) : Outc := atomic (fun _ b => b) th f s

/-! ## One meaning for each command -/

def execLdw (th : Thid) (s : State) : Host.Outcome State Fault Refusal := .next (s.runInstr th.toNat .ldw (bodyLdw th.toNat))
def execStw (th : Thid) (s : State) : Host.Outcome State Fault Refusal := .next (s.runInstr th.toNat .stw (bodyStw th.toNat))
def execLd (th : Thid) (s : State) : Host.Outcome State Fault Refusal := .next (s.runInstr th.toNat .ld (bodyLd th.toNat))
def execSt (th : Thid) (s : State) : Host.Outcome State Fault Refusal := .next (s.runInstr th.toNat .st (bodySt th.toNat))
def execStm (th : Thid) (s : State) : Host.Outcome State Fault Refusal := .next (s.runInstr th.toNat .stm (bodyStm th.toNat))
def execLds (th : Thid) (s : State) : Host.Outcome State Fault Refusal := .next (s.runInstr th.toNat .lds (bodyLds th.toNat))
def execSts (th : Thid) (s : State) : Host.Outcome State Fault Refusal := .next (s.runInstr th.toNat .sts (bodySts th.toNat))
def execPush (th : Thid) (s : State) : Host.Outcome State Fault Refusal := .next (s.runInstr th.toNat .push (bodyPush th.toNat))
def execPop (th : Thid) (s : State) : Host.Outcome State Fault Refusal := .next (s.runInstr th.toNat .pop (bodyPop th.toNat))
def execBmov (th : Thid) (s : State) : Host.Outcome State Fault Refusal := .next (s.runInstr th.toNat .bmov (bodyBmov th.toNat))
def execMacx (th : Thid) (s : State) : Host.Outcome State Fault Refusal := .next (s.runInstr th.toNat .macx (bodyMacx th.toNat))
def execMacxI (th : Thid) (s : State) : Host.Outcome State Fault Refusal :=
  .next (s.runInstr th.toNat .macxI (bodyMacxI th.toNat))
def execMacxC (th : Thid) (s : State) : Host.Outcome State Fault Refusal :=
  .next (s.runInstr th.toNat .macxC (bodyMacxC th.toNat))
def execAadd (th : Thid) (s : State) : Host.Outcome State Fault Refusal := .next (s.runInstr th.toNat .aadd (bodyAadd th.toNat))
def execAswp (th : Thid) (s : State) : Host.Outcome State Fault Refusal := .next (s.runInstr th.toNat .aswp (bodyAswp th.toNat))

end Sys2Proof.Machine
end

