-- ==== Sys2Proof/Machine/Control.lean ====
section
/-!
DEFINITION. Control transfers (R217 to R219, R236, R259), control registers, SYNC and TRAP (R169, R186, R237, R260), and DONE
(R238 to R241).
-/
namespace Sys2Proof.Machine

/-! ## Transfers -/

/-- The branch target of form J: the PC plus the signed displacement, modulo 2^24 (R236). -/
def FInstr.dest (f : FInstr) (pc : BitVec 24) : BitVec 24 := pc + (f.s2.signExtend 24)

def bodyB (th : Nat) (f : FInstr) (s : State) : Outc := .done (s.modThread th (fun t => { t with pc := f.dest t.pc }))

/-- JR: bits 71:24 of the target are ignored (R219). -/
def bodyJr (th : Nat) (f : FInstr) (s : State) : Outc :=
  .done (s.modThread th (fun t => { t with pc := (t.greg f.s).setWidth 24 }))

/-- CALL and CALLR: the push of the following PC with KIND 0, then the jump; RSOVF at 15 entries (R217). -/
def callTo (th : Nat) (target : Thread → BitVec 24) (f : FInstr) (s : State) : Outc :=
  let t := s.thread th
  if t.rsp ≥ 15 then .fault causeRSOVF none s
  else .done (s.modThread th (fun t =>
    { t.pushR (stackEntry false t.status (t.pc + BitVec.ofNat 24 f.size)) with pc := target t }))

def bodyCall (th : Nat) (f : FInstr) (s : State) : Outc := callTo th (fun t => f.dest t.pc) f s
def bodyCallr (th : Nat) (f : FInstr) (s : State) : Outc := callTo th (fun t => (t.greg f.s).setWidth 24) f s

/-- The STATUS of a stack entry; reserved bits of STATUS read 0 (R185, R216). -/
def entryStatus (e : Word) : BitVec 32 := (e.extractLsb' 24 32) &&& 0xFFFF001F

/-- The top entry of the return stack, read with its check bits: a correctable error is counted (R271, R503). -/
def State.popEntry (s : State) (th : Nat) : Option (State × Word) :=
  let t := s.thread th
  let i := t.rsp - 1
  match mget 0 t.ecc (48 + i) with
  | 0 => some (s, mget 0 t.rstack i)
  | 1 => some (s.count 0x50, mget 0 t.rstack i)
  | _ => none

/-- RET (R218). -/
def bodyRet (th : Nat) (_ : FInstr) (s : State) : Outc :=
  let t := s.thread th
  if t.rsp = 0 then .fault causeRSUNF none s
  else match s.popEntry th with
    | none => .fatal s
    | some (s, e) => .done (s.modThread th (fun t => { t with pc := e.setWidth 24, rsp := t.rsp - 1 }))

/-- An entry of KIND 1 lies below the top of the return stack. -/
def Thread.inHandlerBelow (t : Thread) : Bool := (upto (t.rsp - 1)).any (fun i => bit (mget 0 t.rstack i) 56)

/-- RETX: the ceiling check, then PC and STATUS of the top entry; NMIACT clears below its depth (R218, R259). -/
def bodyRetx (th : Nat) (_ : FInstr) (s : State) : Outc :=
  let t := s.thread th
  if t.rsp = 0 then .fault causeRSUNF none s
  else match s.popEntry th with
    | none => .fatal s
    | some (s, e) =>
      let st := entryStatus e
      if bit st 31 && !t.tceilA && !t.inHandlerBelow then .fault causePRIVRET none s
      else .done (s.modThread th (fun t =>
        let rsp := t.rsp - 1
        { t with pc := e.setWidth 24, status := st, rsp := rsp, nmiact := t.nmiact && !(rsp ≤ t.nmidepth.toNat) }))

/-! ## Control registers -/

/-- The value of control register n, zero-extended; pending copies of the synchronising ones (R171, R186). -/
def State.readCtl (s : State) (th n : Nat) : Word :=
  let t := s.thread th
  match n with
  | 0 => t.status.setWidth 72
  | 1 => t.accl
  | 2 => t.acch
  | 3 => t.dsbase.setWidth 72
  | 4 => t.dslim.setWidth 72
  | 5 => wordOf t.rsp
  | 8 => mget 0 t.modP 0
  | 9 => mget 0 t.modP 1
  | 10 => mget 0 t.modP 2
  | 11 => mget 0 t.modP 3
  | 16 => t.tvec.setWidth 72
  | 17 => t.cause.setWidth 72
  | 18 => t.badins.setWidth 72
  | 19 => t.badaddr.setWidth 72
  | 20 => t.lcrpc.setWidth 72
  | 21 => t.lcrst.setWidth 72
  | 22 => wordOf (b1 t.tceilP)
  | 32 => wordOf th
  | 33 => s.stamp (10 + thG th)
  | _ => 0

/-- A MODk value with its reserved bits 0 (R187). -/
def modValue (w : Word) : Word := w &&& ~~~(BitVec.ofNat 72 (0x7FFF <<< 56))

/-- The pending TCEIL is written; SVS is written 0 where it would stand at 1 under TCEIL 0 (R260). -/
def Thread.setTceil (t : Thread) (v : Bool) : Thread :=
  { t with tceilP := v, thcfgP := if v then t.thcfgP else setBit t.thcfgP 11 false, syncp := true }

/-- Write control register n; `host` writes have no privilege limit and may raise TCEIL (R185, R186, R260, R278). -/
def Thread.writeCtl (t : Thread) (n : Nat) (w : Word) (host : Bool) : Thread :=
  match n with
  | 0 =>
    if host || t.isS then { t with status := (w.setWidth 32) &&& 0xFFFF001F }
    else { t with status := setFld t.status 0 5 (fld w 0 5) }
  | 1 => { t with accl := w }
  | 2 => { t with acch := w }
  | 3 => { t with dsbase := w.setWidth 17 }
  | 4 => { t with dslim := w.setWidth 17 }
  | 8 | 9 | 10 | 11 => { t with modP := mput 0 t.modP (n - 8) (modValue w), syncp := true }
  | 16 => { t with tvec := w.setWidth 24 }
  | 17 => { t with cause := w.setWidth 6 }
  | 20 => { t with lcrpc := w.setWidth 24 }
  | 21 => { t with lcrst := w.setWidth 32 }
  | 22 => if host then t.setTceil (bit w 0) else if bit w 0 then t else t.setTceil false
  | _ => t

def bodyMfc (th : Nat) (f : FInstr) (s : State) : Outc :=
  let v := s.readCtl th (fld f.s2 0 6)
  .done (s.modThread th (fun t => (t.setGreg f.d v).adv f.size))

def bodyMtc (th : Nat) (f : FInstr) (s : State) : Outc :=
  .done (s.modThread th (fun t => (t.writeCtl (fld f.s2 0 6) (t.greg f.s) false).adv f.size))

/-! ## SYNC and TRAP -/

/-- The thread-scope pending copies become active (R168, R169). -/
def Thread.commit (t : Thread) : Thread :=
  { t with modA := t.modP, tceilA := t.tceilP, thcfgA := t.thcfgP, syncp := false }

/-- The pending slot table of a core. -/
def State.slotPending (s : State) (g c : Nat) : SMap (BitVec 32) :=
  (upto 4).foldl (fun m k => mput 0 m k (s.reg (aCore g c + 0x10 + 4 * k))) []

/-- The pending bank map of a core. -/
def State.bankPending (s : State) (g c : Nat) : SMap (BitVec 32) :=
  (upto 8).foldl (fun m k => mput 0 m k (s.reg (aCore g c + 0xC0 + 4 * k))) []

/-- No thread is TIMED in two adjacent slots, 15 and 0 included (R154). -/
def slotTableOk (tab : SMap (BitVec 32)) : Bool :=
  (upto 16).all (fun i => slotOwner tab i = none || slotOwner tab i ≠ slotOwner tab ((i + 1) % 16))

/-- The core-scope pending copies written since their last commit become active: the slot table at the next revolution boundary,
unless R154 refuses it, the bank map at once (R168, R169, R170). A choice made before the commit stands (R157, R172; log entry 95). -/
def State.commitCore (s : State) (g c : Nat) : State :=
  let k := coreKey g c
  let s :=
    if !(s.core k).slotDirty then s
    else
      let tab := s.slotPending g c
      if slotTableOk tab then s.modCore k (fun v => { v with slotNext := some tab, slotDirty := false })
      else s.orReg (aCore g c + 4) 8
  if (s.core k).bankDirty then
    let m := s.bankPending g c
    s.modCore k (fun v => { v with bankAct := m, bankDirty := false })
  else s

/-- SYNC: it waits for the store buffer, then commits the thread's and the core's pending copies (R167, R169). -/
def bodySync (th : Nat) (f : FInstr) (s : State) : Outc :=
  if (s.thread th).sb ≠ [] then .attempt .drain s
  else .done (((s.commitCore (thG th) (thC th)).modThread th Thread.commit).modThread th (fun t => t.adv f.size))

def bodyTrap (_ : Nat) (_ : FInstr) (s : State) : Outc := .fault causeTRAP none s

/-! ## DONE -/

/-- An emit entry from its two words (R54). -/
def emitOf (e0 e1 : Word) : Emit :=
  { port := fld e0 0 7, cls := fld e0 8 3, tsupd := bit e0 11, oven := bit e0 12, skip := fld e0 13 8, trim := fld e0 21 8,
    ovoff := fld e0 29 11, e1 := e1 }

/-- The emit entries of a list of words, two for each. -/
def emitsOf : List Word → List Emit
  | e0 :: e1 :: rest => emitOf e0 e1 :: emitsOf rest
  | _ => []

/-- The reserved fields of an E0 word are 0 (R54). -/
def e0Ok (w : Word) : Bool := fld w 40 32 = 0 && !bit w 7

/-- A fault of DONE: PROG reads 0 and nothing of the list is kept (R240). -/
def State.doneReset (s : State) (th : Nat) : State :=
  s.modThread th (fun t => { t.setProg 0 with emits := [] })

/-- The last step of DONE: the completion, the freed entry, and the next packet or DESC (R55, R175, R239). A pending load lands
before the next packet's words, which stay (R160; log entry 114). -/
def State.doneLast (s : State) (th : Nat) (d : Desc) (emits : List Emit) (size : Nat) : State :=
  let g := thG th
  let s := s.complete g (d.completion emits)
  let s := s.modThread th (fun t =>
    { (t.land.setProg 0).adv size with emits := [], descs := t.descs.tail })
  let s := if (s.thread th).descs = [] then s.modThread th (fun t => ({ t with wait := .desc } : Thread).stopHalt) else s.packetStart th
  s.freeEntry g

/-- The completion is placed when the queue has room, else the step is an attempt (R56, R239). -/
def State.doneFinal (s : State) (th : Nat) (d : Desc) (words : List Word) (size : Nat) : Outc :=
  let need := cqNeed (words.length / 2)
  if (s.grove (thG th)).cqRoom need then .done (s.doneLast th d (emitsOf words) size)
  else .attempt (.cqfull need) s

/-- DONE: drain, the emit list one word for each step, then the completion; without a descriptor it parks (R238 to R241). -/
def bodyDone (th : Nat) (f : FInstr) (s : State) : Outc :=
  let t := s.thread th
  match t.descs with
  | [] =>
    if t.sb ≠ [] then .attempt .drain s
    else if s.hasShare th && s.thService th then
      .done ((s.modThread th (fun t => ({ (t.land.setProg 0).adv f.size with wait := .desc } : Thread).stopHalt)).pool (thG th))
    else .done (s.modThread th (fun t => ({ (t.setProg 0).adv f.size with wait := .parkedDone } : Thread).stopHalt))
  | d :: _ =>
    let first := t.prog = 0 || t.emits.length ≠ t.prog
    if first && t.sb ≠ [] then .attempt .drain s
    else
      let op := if first then t.greg f.s else t.doneOp
      let words := if first then [] else t.emits
      let n := fld op 20 5
      if n ≥ 17 then .fault causeRSVD (badOf op) (s.doneReset th)
      else if n = 0 then s.doneFinal th d [] f.size
      else
        let ea := wordOf (fld op 0 17 + words.length)
        match s.loadWord th ea 0xFF Target.isSpad with
        | .dacc | .later _ => .fault causeDACC (badOf ea) (s.doneReset th)
        | .wait w => loadAttempt th w s
        | .eccu s => .fault causeECCU (badOf ea) (s.doneReset th)
        | .word s w =>
          let words := words ++ [w]
          if words.length % 2 = 1 && !e0Ok w then .fault causeRSVD (badOf ea) (s.doneReset th)
          else if words.length = 2 * n then s.doneFinal th d words f.size
          else .done (s.modThread th (fun t => { t.setProg words.length with doneOp := op, emits := words }))

/-! ## One meaning for each command -/

def execB (th : Thid) (s : State) : Host.Outcome State Fault Refusal := .next (s.runInstr th.toNat .b (bodyB th.toNat))
def execCall (th : Thid) (s : State) : Host.Outcome State Fault Refusal := .next (s.runInstr th.toNat .call (bodyCall th.toNat))
def execJr (th : Thid) (s : State) : Host.Outcome State Fault Refusal := .next (s.runInstr th.toNat .jr (bodyJr th.toNat))
def execCallr (th : Thid) (s : State) : Host.Outcome State Fault Refusal :=
  .next (s.runInstr th.toNat .callr (bodyCallr th.toNat))
def execRet (th : Thid) (s : State) : Host.Outcome State Fault Refusal := .next (s.runInstr th.toNat .ret (bodyRet th.toNat))
def execRetx (th : Thid) (s : State) : Host.Outcome State Fault Refusal := .next (s.runInstr th.toNat .retx (bodyRetx th.toNat))
def execMfc (th : Thid) (s : State) : Host.Outcome State Fault Refusal := .next (s.runInstr th.toNat .mfc (bodyMfc th.toNat))
def execMtc (th : Thid) (s : State) : Host.Outcome State Fault Refusal := .next (s.runInstr th.toNat .mtc (bodyMtc th.toNat))
def execSync (th : Thid) (s : State) : Host.Outcome State Fault Refusal := .next (s.runInstr th.toNat .sync (bodySync th.toNat))
def execTrap (th : Thid) (s : State) : Host.Outcome State Fault Refusal := .next (s.runInstr th.toNat .trap (bodyTrap th.toNat))

/-- DONE of a thread that ends its packet: a thread that holds a descriptor (R239). -/
def execDone (th : Thid) (s : State) : Host.Outcome State Fault Refusal :=
  .next (if (s.thread th.toNat).descs ≠ [] || (s.hasShare th.toNat && s.thService th.toNat) then
    s.runInstr th.toNat .done (bodyDone th.toNat) else s)

/-- DONE of a thread without a descriptor, in maintenance mode or resident: it parks (R241). -/
def execDonePark (th : Thid) (s : State) : Host.Outcome State Fault Refusal :=
  .next (if (s.thread th.toNat).descs ≠ [] || (s.hasShare th.toNat && s.thService th.toNat) then s
    else s.runInstr th.toNat .done (bodyDone th.toNat))

end Sys2Proof.Machine
end

