-- ==== Sys2Proof/Machine/Units.lean ====
section
/-!
DEFINITION. Instructions that act on the grove's units: locks, events and channels (R242, R243), the helpers (R245 to R250),
LKUP (R251) and the extension opcodes (R252 to R254).
-/
namespace Sys2Proof.Machine

/-! ## Lock unit -/

/-- The unit number of form L (R196). -/
def Thread.unitNo (t : Thread) (f : FInstr) (n : Nat) : Nat := (t.greg f.s + wordOf (fld f.s2 0 8)).toNat % n

/-- A lock-unit fault names its unit in BADADDR. -/
def badUnit (u : Nat) : Option (BitVec 40) := some (BitVec.ofNat 40 u)

/-- LOCK: the order check, then the grant or the queue (R242, R302, R304). -/
def bodyLock (th : Nat) (f : FInstr) (s : State) : Outc :=
  let g := thG th
  let u := (s.thread th).unitNo f 256
  if bit (s.reg (aLocks g + 0x400 + 4 * thC th)) (thT th) && (s.heldLocks th).any (fun v => u ≤ v) then
    .fault causeLOCKORD (badUnit u) s
  else
    let l := s.lock g u
    if l.holder.isNone && l.waiters = [] then
      .done ((s.setLock g u { l with holder := some th }).modThread th (fun t => t.adv f.size))
    else .done ((s.setLock g u { l with waiters := l.waiters ++ [th] }).modThread th (fun t => { t with wait := .lock u }))

/-- TRYL: P lands as the grant (R242, R303). -/
def bodyTryl (th : Nat) (f : FInstr) (s : State) : Outc :=
  let g := thG th
  let u := (s.thread th).unitNo f 256
  let l := s.lock g u
  let ok := l.holder.isNone && l.waiters = []
  let s := if ok then s.setLock g u { l with holder := some th } else s
  .done (s.modThread th (fun t => (t.begin 0 0 (some ok)).adv f.size))

/-- UNLK (R242). -/
def bodyUnlk (th : Nat) (f : FInstr) (s : State) : Outc :=
  let u := (s.thread th).unitNo f 256
  if (s.thread th).sb ≠ [] then .attempt .drain s
  else if !s.holdsLock th u then .fault causeDACC (badUnit u) s
  else .done ((s.releaseLock (thG th) u).modThread th (fun t => t.adv f.size))

/-- WAITE: the thread goes on with the end of a grove cycle at which the flag reads 1, this one included (R242, R244). -/
def bodyWaite (th : Nat) (f : FInstr) (s : State) : Outc :=
  .done (s.modThread th (fun t => { t with wait := .event (t.unitNo f 64) }))

/-- SIGE (R242). -/
def bodySige (th : Nat) (f : FInstr) (s : State) : Outc :=
  let u := (s.thread th).unitNo f 64
  if (s.thread th).sb ≠ [] then .attempt .drain s
  else .done ((s.setFlag (thG th) u true).modThread th (fun t => t.adv f.size))

/-- CLRE (R242). -/
def bodyClre (th : Nat) (f : FInstr) (s : State) : Outc :=
  let u := (s.thread th).unitNo f 64
  .done ((s.setFlag (thG th) u false).modThread th (fun t => t.adv f.size))

/-- SEND: the word joins the staging slot; with LAST the message becomes visible, or the thread waits for a slot (R243). -/
def bodySend (th : Nat) (f : FInstr) (s : State) : Outc :=
  let g := thG th
  let t := s.thread th
  let u := t.unitNo f 64
  if t.sb ≠ [] then .attempt .drain s
  else
    let other := match t.staging with | some (v, _) => v ≠ u | none => false
    let words := match t.staging with | some (_, l) => l | none => []
    if other || words.length ≥ 4 then .fault causeDACC (badUnit u) s
    else
      let w := t.greg f.d
      if !bit f.s2 14 then
        .done (s.modThread th (fun t => { t.adv f.size with staging := some (u, words ++ [w]) }))
      else
        let c := s.chan g u
        if c.msgs.length ≥ 4 then
          .done ((s.setChan g u { c with writers := c.writers ++ [th] }).modThread th
            (fun t => { t with sendW := w, wait := .chanW u }))
        else
          let s := s.modThread th (fun t => { t.adv f.size with staging := none })
          .done ((s.setChan g u { c with msgs := c.msgs ++ [{ words := words ++ [w], reader := none }] }).settle g u)

/-- RECV: the next word of the bound message, or the oldest unbound one, or a wait (R243). -/
def bodyRecv (th : Nat) (f : FInstr) (s : State) : Outc :=
  let g := thG th
  let t := s.thread th
  let u := t.unitNo f 64
  let c := s.chan g u
  match t.bound with
  | some v =>
    if v ≠ u then .fault causeDACC (badUnit u) s
    else match msgIndex (fun m => m.reader = some th) c.msgs 0 with
      | some i => .done (((s.takeWord th g u i f.d).modThread th (fun t => t.adv f.size)).settle g u)
      | none => .done (s.modThread th (fun t => t.adv f.size))
  | none =>
    match msgIndex (fun m => m.reader = none) c.msgs 0 with
    | some i => .done (((s.takeWord th g u i f.d).modThread th (fun t => t.adv f.size)).settle g u)
    | none =>
      .done ((s.setChan g u { c with readers := c.readers ++ [th] }).modThread th (fun t => { t with
        wait := .chanR u
        outst := some { unit := .locks, dest := .result f.d, pc := t.pc, addr := BitVec.ofNat 40 u,
                        since := (s.grove g).cyc, undo := none, ans := none, ansP := none } }))

/-! ## Helpers -/

/-- The data bits of symbol k of a descriptor's packet. -/
def State.sym (s : State) (d : Desc) (k : Nat) : Nat := fld (lane (s.pktWord d.cell d.len (k / 8)) (k % 8)) 0 8

/-- n symbols from k, as bytes. -/
def State.syms (s : State) (d : Desc) (k n : Nat) : List Byte := (upto n).map (fun i => BitVec.ofNat 8 (s.sym d (k + i)))

/-- Block Time in units of 2^-16 ns, modulo 2^64 (R84). -/
def t16 (w : Word) : Nat := w.toNat * 1000000000 / 65536 % 2 ^ 64

/-- What PARSE has found (R247). -/
structure Parsed where
  l4off : Nat := 0
  l3off : Nat := 0
  l4p   : Nat := 0
  etype : Nat := 0
  ntag  : Nat := 0
  hsr   : Bool := false
  prpt  : Bool := false
  l3k   : Nat := 0
  frag  : Bool := false
  opt   : Bool := false
  trunc : Bool := false
  deriving DecidableEq, Repr

/-- The result word of PARSE. -/
def Parsed.word (p : Parsed) : Word :=
  wordOf (p.l4off * 2 ^ 50 + p.l3off * 2 ^ 36 + p.l4p * 2 ^ 28 + p.etype * 2 ^ 12 + p.ntag * 2 ^ 10 + b1 p.hsr * 2 ^ 9 +
    b1 p.prpt * 2 ^ 8 + p.l3k * 2 ^ 6 + b1 p.frag * 2 ^ 5 + b1 p.opt * 2 ^ 4 + b1 p.trunc * 2 ^ 3)

/-- A big-endian 16-bit value at symbol k. -/
def State.sym16 (s : State) (d : Desc) (k : Nat) : Nat := s.sym d k * 256 + s.sym d (k + 1)

/-- The IPv6 header chain from symbol k with next header nh; lim is the end of what may be read (R247). Model's choice, log entry 127: an
extension header that is cut off has set OPT. -/
def State.parseV6 (s : State) (d : Desc) (lim : Nat) : Nat → Nat → Nat → Parsed → Parsed
  | 0, _, _, p => { p with trunc := true }
  | n + 1, k, nh, p =>
    if nh = 0 || nh = 43 || nh = 60 then
      let p := { p with opt := true }
      if k + 2 > lim || k + (s.sym d (k + 1) + 1) * 8 > lim then { p with trunc := true }
      else s.parseV6 d lim n (k + (s.sym d (k + 1) + 1) * 8) (s.sym d k) p
    else if nh = 44 then
      let p := { p with opt := true }
      if k + 8 > lim then { p with trunc := true }
      else if s.sym16 d (k + 2) / 8 ≠ 0 then { p with frag := true, l4p := s.sym d k }
      else s.parseV6 d lim n (k + 8) (s.sym d k) p
    else { p with l4p := nh, l4off := if nh = 59 then 0 else k }

/-- The IP header at symbol k, version v (R247). Model's choices, log entry 127: an IHL below 5 is taken as it stands, the version that an
EtherType names is not checked, and an IPv4 header cut off leaves L4P, FRAG and OPT 0. -/
def State.parseIp (s : State) (d : Desc) (lim k v : Nat) (p : Parsed) : Parsed :=
  if v = 4 then
    let p := { p with l3off := k, l3k := 1 }
    let hl := 4 * (s.sym d k % 16)
    if k + 20 > lim || k + hl > lim then { p with trunc := true }
    else
      let frag := s.sym16 d (k + 6) % 8192 ≠ 0
      { p with l4p := s.sym d (k + 9), opt := hl > 20, frag := frag, l4off := if frag then 0 else k + hl }
  else if v = 6 then
    let p := { p with l3off := k, l3k := 2 }
    if k + 40 > lim then { p with trunc := true }
    else s.parseV6 d lim 64 (k + 40) (s.sym d (k + 6)) p
  else p

/-- The EtherType at symbol k and the tags before the last one (R247). Model's choices, log entry 127: the EtherType of a second HSR tag is
ETYPE and ends the parse, and PRPT stays 0 under TRUNC. -/
def State.parseEth (s : State) (d : Desc) (lim xtpid : Nat) : Nat → Nat → Parsed → Parsed
  | 0, _, p => { p with trunc := true }
  | n + 1, k, p =>
    if k + 2 > lim then { p with trunc := true }
    else
      let e := s.sym16 d k
      if e = 0x8100 || e = 0x88A8 || (xtpid ≠ 0 && e = xtpid) then
        if p.ntag = 2 then { p with trunc := true } else s.parseEth d lim xtpid n (k + 4) { p with ntag := p.ntag + 1 }
      else if e = 0x892F && !p.hsr then s.parseEth d lim xtpid n (k + 6) { p with hsr := true }
      else
        let size := d.len - 4 - (k + 2)
        let t := d.len - 10
        let prpt := d.len ≥ k + 12 && s.sym16 d (d.len - 6) = 0x88FB && s.sym16 d (t + 2) % 4096 = size
        let p := { p with etype := e, prpt := prpt }
        if e = 0x0800 then s.parseIp d lim (k + 2) 4 p
        else if e = 0x86DD then s.parseIp d lim (k + 2) 6 p
        else p

/-- PARSE from symbol k (R247): START 0 an Ethernet header before the FCS, START 1 an IP header. -/
def State.parseAt (s : State) (d : Desc) (start k xtpid : Nat) : Parsed :=
  if start = 0 then
    let lim := min (d.len - 4) (k + 256)
    if k + 14 > lim then { trunc := true } else s.parseEth d lim xtpid 8 (k + 12) {}
  else
    let lim := min d.len (k + 256)
    s.parseIp d lim k (s.sym d k / 16) {}

/-- The range of CRCF and CSUM: start and length; none where R245 or R246 raises DACC. -/
def helperRange (d : Desc) (op : Word) (toend : Bool) : Option (Nat × Nat) :=
  let start := fld op 0 14
  let n := if toend then d.len - start else fld op 16 14
  if n = 0 || start + n > d.len then none else some (start, n)

/-- The FCS of a range and whether its last symbols equal it (R248). -/
def crcAnswer (poly : Nat) (l : List Byte) : Word × Bool :=
  let n := if poly = 0 then 4 else 2
  let f (x : List Byte) : Nat := if poly = 0 then crc32 x else crc16 x
  (wordOf (f l), n ≤ l.length && leNat (l.drop (l.length - n)) = f (l.take (l.length - n)))

/-- The sum of 16-bit words, symbol 2j the high byte, an odd end padded with 0 (R249). -/
def sum16 : List Byte → Nat
  | a :: b :: rest => a.toNat * 256 + b.toNat + sum16 rest
  | [a] => a.toNat * 256
  | [] => 0

/-- A ones' complement sum folded to 16 bits. -/
def fold16 (n : Nat) : Nat := if n = 0 then 0 else if n % 65535 = 0 then 65535 else n % 65535

/-- TSCF: the packet word with the symbols of CF' in it, and whether CF spans two words (R250). -/
def State.tscfAnswer (s : State) (d : Desc) (o half : Nat) : Word × Bool :=
  let cf := beNat (s.syms d o 8)
  let new := beBytes 8 ((cf + 2 ^ 64 - t16 d.its) % 2 ^ 64)
  let k := o / 8 + half
  let w := s.pktWord d.cell d.len k
  let lanes := (upto 8).map (fun i =>
    let pos := 8 * k + i
    if o ≤ pos && pos < o + 8 then (new[pos - o]?.getD 0).setWidth 9 else lane w i)
  (ofLanes lanes, o % 8 ≠ 0)

/-- The helper that serves an instruction. -/
inductive Helper where
  | parse | crc | tscf
  deriving DecidableEq, Repr

/-- What a helper answers, and the packet symbols that count as read: first and number. -/
structure HelperAns where
  w     : Word
  p     : Option Bool
  start : Nat
  n     : Nat
  deriving DecidableEq, Repr

/-- The words of a packet that hold n symbols from symbol k. -/
def symWords (k n : Nat) : List Nat := (upto ((k + n + 7) / 8 - k / 8)).map (fun i => k / 8 + i)

/-- A request joins its helper's queue; the thread waits in LOAD for the result (R245). The words read are counted or reported, and an
uncorrectable one makes the answer ECCU, as for a load (R503; log entry 97). -/
def State.askHelper (s : State) (th : Nat) (h : Helper) (reg : Nat) (d : Desc) (a : HelperAns) (size : Nat) : State :=
  let ks := symWords a.start a.n
  let bad := ks.find? (fun k => s.pktMark d.cell d.len k = 2)
  let s := ks.foldl (fun s k => s.pktCheck d.cell d.len k) s
  let r : HelperReq := { th := th, ans := if bad.isSome then .eccu else .word a.w, p := a.p }
  let s := s.modGrove (thG th) (fun v => match h with
    | .parse => { v with parseQ := v.parseQ ++ [r] }
    | .crc => { v with crcQ := v.crcQ ++ [r] }
    | .tscf => { v with tscfQ := v.tscfQ ++ [r] })
  s.modThread th (fun t => { t.adv size with
    wait := .load
    outst := some { unit := .helper, dest := .result reg, pc := t.pc, addr := BitVec.ofNat 40 (0x100000 + bad.getD 0),
                    since := (s.grove (thG th)).cyc, undo := none, ans := none, ansP := none } })

/-- The symbol address of packet symbol k (R213). -/
def badSym (k : Nat) : Option (BitVec 40) := some (BitVec.ofNat 40 (0x800000 + k))

/-- The thread's store buffer holds a store to the packet window (R245). -/
def Thread.pwStore (t : Thread) : Bool := t.sb.any (fun e => 0x100000 ≤ e.addr.toNat && e.addr.toNat < 0x100800)

/-- The frame of a helper instruction: it waits for buffered packet stores, needs a descriptor, and asks for its answer. -/
def helperStep (th : Nat) (h : Helper) (f : FInstr) (s : State)
    (ans : Desc → Thread → Option HelperAns) : Outc :=
  let t := s.thread th
  let start := fld (t.greg f.s) 0 14
  if t.pwStore then .attempt .drainPw s
  else match t.descs with
    | [] => .fault causeDACC (badSym start) s
    | d :: _ => match ans d t with
      | none => .fault causeDACC (badSym start) s
      | some a => .done (s.askHelper th h f.d d a f.size)

def bodyParse (th : Nat) (f : FInstr) (s : State) : Outc :=
  helperStep th .parse f s (fun d t =>
    let k := fld (t.greg f.s) 0 14
    if k ≥ d.len then none
    else some { w := (s.parseAt d (fld f.s2 13 2) k (fld (s.reg (aHelp (thG th))) 0 16)).word, p := none,
                start := k, n := min 256 (d.len - k) })

def bodyCrcf (th : Nat) (f : FInstr) (s : State) : Outc :=
  helperStep th .crc f s (fun d t => (helperRange d (t.greg f.s) (bit f.s2 11)).map (fun r =>
    let a := crcAnswer (fld f.s2 12 3) (s.syms d r.1 r.2)
    { w := a.1, p := some a.2, start := r.1, n := r.2 }))

def bodyCsum (th : Nat) (f : FInstr) (s : State) : Outc :=
  helperStep th .crc f s (fun d t => (helperRange d (t.greg f.s) (bit f.s2 11)).map (fun r =>
    let add := if bit f.s2 10 then fld (t.greg f.d) 0 16 else 0
    let sum := fold16 (sum16 (s.syms d r.1 r.2) + add)
    { w := wordOf sum, p := some (sum = 0xFFFF), start := r.1, n := r.2 }))

def bodyTscf (th : Nat) (f : FInstr) (s : State) : Outc :=
  helperStep th .tscf f s (fun d t =>
    let o := fld (t.greg f.s) 0 14
    if o + 8 > d.len then none
    else
      let half := b1 (bit f.s2 14)
      let a := s.tscfAnswer d o half
      some { w := a.1, p := some a.2, start := min o (8 * (o / 8 + half)), n := 8 * (o / 8 + half) + 8 - min o (8 * (o / 8 + half)) })

/-! ## LKUP -/

/-- TBLCFG of table t (R352). -/
def aTable (t : Nat) : Nat := 0xA1000 + 0x20 * t

/-- LKUP: the table must be configured and of the kind asked for; the request leaves for the lookup engine (R251, R332). -/
def bodyLkup (th : Nat) (f : FInstr) (s : State) : Outc :=
  let t := s.thread th
  let table := fld f.s2 7 8
  let lpm := bit f.s2 6
  let cfg := s.reg (aTable table)
  if table ≥ 64 || !bit cfg 31 || bit cfg 30 ≠ lpm then .fault causeDACC (badUnit table) s
  else
    let key := BitVec.ofNat 144 ((t.greg ((f.s + 1) % 32)).toNat * 2 ^ 72 + (t.greg f.s).toNat)
    let s := s.push (168 + thG th) (.lookup
      { th := th, since := (s.grove (thG th)).cyc, table := table, lpm := lpm, key := key })
    .done (s.modThread th (fun t => { t.adv f.size with
      wait := .load
      outst := some { unit := .lookup, dest := .result f.d, pc := t.pc, addr := BitVec.ofNat 40 table,
                      since := (s.grove (thG th)).cyc, undo := none, ans := none, ansP := none } }))

/-! ## Extension -/

/-- An XERR: its XSTAT bit and LASTTH (R254, R255). -/
def State.xErr (s : State) (th b : Nat) : State :=
  let a := aExt (thG th) + 4
  s.setReg a (setFld (setBit (s.reg a) b true) 0 12 th)

/-- An extension instruction: refused with EN 0, otherwise one request and a wait in XUNIT (R252 to R254). -/
def bodyXop (th : Nat) (f : FInstr) (s : State) : Outc :=
  let g := thG th
  let t := s.thread th
  if !bit (s.reg (aExt g)) 31 then .fault causeXERR none (s.xErr th 21)
  else
    let r : XReq := { th := th, op := BitVec.ofNat 4 (fld f.raw 25 7 - 0x70), imm := f.s2, a := t.greg f.s, b := t.greg f.d,
                      xfer := false, since := none }
    let s := (s.modGrove g (fun v => v.setX (v.xreqs ++ [r]))).count (aExt g + 8)
    .done (s.modThread th (fun t => { t.adv f.size with
      wait := .xunit
      outst := some { unit := .extension, dest := .result f.d, pc := t.pc, addr := 0, since := (s.grove g).cyc,
                      undo := none, ans := none, ansP := none } }))

/-! ## One meaning for each command -/

def execLock (th : Thid) (s : State) : Host.Outcome State Fault Refusal := .next (s.runInstr th.toNat .lock (bodyLock th.toNat))
def execTryl (th : Thid) (s : State) : Host.Outcome State Fault Refusal := .next (s.runInstr th.toNat .tryl (bodyTryl th.toNat))
def execUnlk (th : Thid) (s : State) : Host.Outcome State Fault Refusal := .next (s.runInstr th.toNat .unlk (bodyUnlk th.toNat))
def execWaite (th : Thid) (s : State) : Host.Outcome State Fault Refusal :=
  .next (s.runInstr th.toNat .waite (bodyWaite th.toNat))
def execSige (th : Thid) (s : State) : Host.Outcome State Fault Refusal := .next (s.runInstr th.toNat .sige (bodySige th.toNat))
def execClre (th : Thid) (s : State) : Host.Outcome State Fault Refusal := .next (s.runInstr th.toNat .clre (bodyClre th.toNat))
def execSend (th : Thid) (s : State) : Host.Outcome State Fault Refusal := .next (s.runInstr th.toNat .send (bodySend th.toNat))
def execRecv (th : Thid) (s : State) : Host.Outcome State Fault Refusal := .next (s.runInstr th.toNat .recv (bodyRecv th.toNat))
def execParse (th : Thid) (s : State) : Host.Outcome State Fault Refusal :=
  .next (s.runInstr th.toNat .parse (bodyParse th.toNat))
def execCrcf (th : Thid) (s : State) : Host.Outcome State Fault Refusal := .next (s.runInstr th.toNat .crcf (bodyCrcf th.toNat))
def execCsum (th : Thid) (s : State) : Host.Outcome State Fault Refusal := .next (s.runInstr th.toNat .csum (bodyCsum th.toNat))
def execTscf (th : Thid) (s : State) : Host.Outcome State Fault Refusal := .next (s.runInstr th.toNat .tscf (bodyTscf th.toNat))
def execLkup (th : Thid) (s : State) : Host.Outcome State Fault Refusal := .next (s.runInstr th.toNat .lkup (bodyLkup th.toNat))
def execExtensionOp (th : Thid) (s : State) : Host.Outcome State Fault Refusal :=
  .next (s.runInstr th.toNat .xop (bodyXop th.toNat))
/-- The probe is a request like any other; its answer is the unit's identity word (R253). -/
def execExtensionProbe (th : Thid) (s : State) : Host.Outcome State Fault Refusal :=
  .next (s.runInstr th.toNat .xprobe (bodyXop th.toNat))

end Sys2Proof.Machine
end

