-- ==== Sys2Proof/Machine/ThreadOps.lean ====
section
/-!
DEFINITION. What register writes do to threads and cores: start and park (R174, R175), the modes (R176 to R179), the
synchronising registers (R168 to R171), interrupts (R265, R268), holds (R267, R273, R274) and debug (R275 to R279, R509).
-/
namespace Sys2Proof.Machine

/-! ## Start and park -/

/-- THCMD is accepted: not for a thread with a share on a core in service mode (R175). -/
def State.thcmdOk (s : State) (th : Nat) : Bool := !(s.hasShare th && s.thService th)

/-- THCMD START (R174, R175). Model's choice, log entry 121: a thread that is PARKED and in HALT too does not count as PARKED for it. -/
def State.startThread (s : State) (th : Nat) : State :=
  let t := s.thread th
  if s.thcmdOk th && (t.wait = .parked || t.wait = .parkedDone) && !t.halted && !t.held then
    s.setThread th { t with pc := (s.reg (aThread th + 8)).setWidth 24, wait := t.resumeWait, parkReq := false, retryDue := false }
  else s

/-- THCMD PARK: at the next boundary at which an interrupt could be taken (R174). -/
def State.parkThread (s : State) (th : Nat) : State :=
  let t := s.thread th
  if s.thcmdOk th && t.wait ≠ .parked && t.wait ≠ .parkedDone && !t.halted && !t.held then
    (s.setThread th { t with parkReq := true }).parkCheck th
  else s

/-- A write of THPC: only while the thread is PARKED or HALT (R174). -/
def State.writeThpc (s : State) (th : Nat) (d : BitVec 32) : State :=
  let t := s.thread th
  if t.halted || (!t.held && (t.wait = .parked || t.wait = .parkedDone)) then s.setReg (aThread th + 8) (d &&& 0xFFFFFF) else s

/-! ## Modes -/

/-- The credit capacity of a grove: COUNT + 1 of its static threads, and GPOOL.SIZE (R49). -/
def State.capacity (s : State) (g : Nat) : Nat :=
  (upto 512).foldl (fun a i => if s.shareMode (g * 512 + i) = 1 then a + s.shareSize (g * 512 + i) else a)
    (fld (s.reg (aDisp g + 0x1000)) 0 12)

/-- CORECTL.MODE is written 1 (R176, R179). -/
def State.requestService (s : State) (g c : Nat) : State :=
  let k := s.core (coreKey g c)
  if k.service || k.mreq then s
  else (s.setCore (coreKey g c) { k with mreq := true }).setReg (aCore g c) 1

/-- CORECTL.MODE is written 0: it cancels a request, or takes effect at the next revolution boundary (R177, R179). -/
def State.requestMaint (s : State) (g c : Nat) : State :=
  let k := s.core (coreKey g c)
  if k.mreq then (s.setCore (coreKey g c) { k with mreq := false }).setReg (aCore g c) 0
  else if k.service && !k.maintReq then (s.setCore (coreKey g c) { k with maintReq := true }).setReg (aCore g c) 0
  else s

/-- The grove enters service mode with its first core: the dispatcher's credits and FREE start at the capacity (R51, R73, R176).
Entries of descriptors left from an earlier period are not taken off, so FREE can rise above the capacity (log entry 108). -/
def State.groveService (s : State) (g : Nat) : State :=
  if (s.grove g).service then s
  else
    let n := s.capacity g
    let s := { s with trunk := { s.trunk with credits := mput 0 s.trunk.credits g n } }
    s.modGrove g (fun v => { v with service := true, free := n })

/-- The core enters service mode: each thread with a share is in DESC (R176). -/
def State.enterService (s : State) (g c : Nat) : State :=
  let s := s.groveService g
  let s := s.modCore (coreKey g c) (fun k => { k with service := true, mreq := false })
  let s := (upto 16).foldl (fun s t =>
    let th := thid g c t
    if s.hasShare th then s.modThread th (fun x => { x with wait := .desc }) else s) s
  s.pool g

/-- The answer of a request whose instruction has been given up in mid-way goes nowhere: the thread only waits for it (R163). -/
def Outst.orphan (o : Outst) : Outst :=
  match o.dest with
  | .latch _ | .copy _ _ => { o with dest := .result 0 }
  | _ => o

/-- A thread with a share is cut off by the change to maintenance mode: its descriptors are given up and it is PARKED with its
registers kept; one in HALT or HELD is PARKED when it leaves that state (R64, R177). -/
def State.cutThread (s : State) (th : Nat) : State :=
  ((s.cancelWait th).giveUp th).modThread th (fun t =>
    ({ t with wait := .parked, parkReq := false, tried := false, latchV := false, pendSt := none, emits := [], retryDue := false,
              outst := t.outst.map Outst.orphan } : Thread).stopHalt)

/-- The core enters maintenance mode (R177). -/
def State.enterMaint (s : State) (g c : Nat) : State :=
  let s := s.modCore (coreKey g c) (fun k => { k with service := false, maintReq := false })
  let s := (upto 16).foldl (fun s t => if s.hasShare (thid g c t) then s.cutThread (thid g c t) else s) s
  if (upto 32).any (fun c => (s.core (coreKey g c)).service) then s
  else s.modGrove g (fun v => { v with service := false })

/-! ## Synchronising registers -/

/-- Write pending THCFG: a write that would leave SVS 1 under TCEIL 0 writes SVS as 0 (R182, R260). -/
def Thread.writeThcfg (t : Thread) (d : BitVec 32) : Thread :=
  let v := d &&& 0xF03
  { t with thcfgP := if t.tceilP then v else setBit v 11 false, syncp := true }

/-- Write a pending SLOTTAB register (R168, R181). A pending core-scope copy sets no thread's SYNCP (R171; log entry 109). -/
def State.writeSlottab (s : State) (g c k : Nat) (d : BitVec 32) : State :=
  (s.setReg (aCore g c + 0x10 + 4 * k) (d &&& 0x1F1F1F1F)).modCore (coreKey g c) (fun v => { v with slotDirty := true })

/-- Write a pending BANKMAP register (R315; log entry 109). -/
def State.writeBankmap (s : State) (g c k : Nat) (d : BitVec 32) : State :=
  (s.setReg (aCore g c + 0xC0 + 4 * k) (d &&& 0x1F1F1F1F)).modCore (coreKey g c) (fun v => { v with bankDirty := true })

/-- CORESYNC: the core's pending copies, and those of the threads named (R170). -/
def State.coresync (s : State) (g c : Nat) (d : BitVec 32) : State :=
  let s := if bit d 16 then s.commitCore g c else s
  (upto 16).foldl (fun s t => if bit d t then s.modThread (thid g c t) Thread.commit else s) s

/-! ## Interrupts -/

/-- IRAISE: each 1 of LINES sets the line, NMI sets NMIP (R265, R268). -/
def State.iraise (s : State) (th : Nat) (d : BitVec 32) : State :=
  s.modThread th (fun t => { t with lines := t.lines ||| d.setWidth 8, nmip := t.nmip || bit d 16 })

/-- A write of IPEND clears the lines named and their TSRC bits (R265). -/
def State.ipendClear (s : State) (th : Nat) (d : BitVec 32) : State :=
  s.modThread th (fun t => { t with lines := t.lines &&& ~~~(d.setWidth 8), tsrc := t.tsrc &&& ~~~(d.setWidth 8) })

/-- NMIRAISE: the grove field must name this grove (R268, R284). -/
def State.nmiRaise (s : State) (g : Nat) (d : BitVec 32) : State :=
  let th := fld d 0 12
  if thG th = g then s.modThread th (fun t => { t with nmip := true }) else s

/-- A write of RECOV is ignored when it names a thread with a share (R267). -/
def State.writeRecov (s : State) (g : Nat) (d : BitVec 32) : State :=
  if s.hasShare (g * 512 + fld d 0 9) then s else s.setReg (aExc g) (d &&& 0x1FF)

/-- HREL: the release of a held thread, parked (ACT 0) or ready to make its entry again at its next issue (ACT 1), with what the entry
that the hold replaced would have written (R257, R258, R273). A thread that was held when its core left service mode is PARKED now,
and with ACT 1 makes no entry, for a PARKED thread issues none (R177; log entry 103). -/
def State.release (s : State) (g th : Nat) (act : Bool) : State :=
  if thG th ≠ g || !(s.thread th).held then s
  else
    let s := s.modGrove g (fun v => { v with holdQ := v.holdQ.filter (fun h => h.th ≠ th) })
    let t := s.thread th
    let st := setFld (t.lcrst &&& 0xFFFF001F) 16 6 0
    if act then
      let t := { t with held := false, rsp := 0, status := t.lcrst &&& 0xFFFF001F, pc := t.lcrpc }
      s.setThread th (if t.wait = .parked then t.stopHalt else { t with wait := .ready, retryDue := true })
    else
      let s := (s.setThread th { t with held := false, rsp := 0, status := st }).setReg (aThread th + 8) (t.lcrpc.setWidth 32)
      if s.hasShare th && s.thService th then
        ((s.modThread th (fun t => ({ t with wait := .desc }).stopHalt)).giveUp th).pool g
      else s.modThread th (fun t => ({ t with wait := .parked }).stopHalt)

/-- WDKICK with KICK 1: the watchdog counts anew (R274). -/
def State.kick (s : State) (g : Nat) : State := s.modGrove g (fun v => { v with wdCount := 0, wdFired := false })

/-! ## Debug -/

/-- A halt request: at once in DESC or PARKED, else at the next boundary, or at the release of a held thread (R275). -/
def State.haltThread (s : State) (th : Nat) : State :=
  s.modThread th (fun t =>
    if t.halted then t
    else if !t.held && (t.wait = .desc || t.wait = .parked || t.wait = .parkedDone) then
      { t with halted := true, hcause := 1, haltReq := false, step := none }
    else { t with haltReq := true })

/-- The end of HALT: BSKIP after a breakpoint (R275, R276). -/
def Thread.leaveHalt (t : Thread) (step : Option Bool) : Thread :=
  { t with halted := false, bskip := t.bskip || t.hcause = 2, hcause := 0, step := step }

/-- RESUME (R275). -/
def State.resumeThread (s : State) (th : Nat) : State :=
  s.modThread th (fun t => if t.halted then t.leaveHalt none else t)

/-- STEP (R276). -/
def State.stepThread (s : State) (th : Nat) (stepirq : Bool) : State :=
  s.modThread th (fun t => if t.halted then t.leaveHalt (some stepirq) else t)

/-- ABORTCH: the staged words of a halted or held thread are discarded and CHABRT is pending (R279). -/
def State.abortStaging (s : State) (th : Nat) : State :=
  s.modThread th (fun t =>
    match t.staging with
    | some (u, _) => if t.halted || t.held then { t with staging := none, chabp := true, chabch := u } else t
    | none => t)

/-- DBGCMD: its bits act as separate writes in the order ABORTCH, STEP, RESUME, HALT (R509). -/
def State.dbgcmd (s : State) (th : Nat) (d : BitVec 32) : State :=
  let s := if bit d 3 then s.abortStaging th else s
  let s := if bit d 2 then s.stepThread th (bit d 4) else s
  let s := if bit d 1 then s.resumeThread th else s
  if bit d 0 then s.haltThread th else s

/-- DBGHALT: halt or resume the threads selected; RESUME comes first, as in DBGCMD (R275, R283, R509). -/
def State.dbghalt (s : State) (g c : Nat) (d : BitVec 32) : State :=
  (upto 16).foldl (fun s t =>
    if bit d t then
      let s := if bit d 17 then s.resumeThread (thid g c t) else s
      if bit d 16 then s.haltThread (thid g c t) else s
    else s) s

/-- REG selects a register (R278). -/
def dbgRegOk (r : Nat) : Bool := r ≤ 32 || (48 ≤ r && r ≤ 63) || (64 ≤ r && (mfcPriv (r - 64)).isSome)

/-- The thread is in HALT, HELD or PARKED (R278). -/
def Thread.stopped (t : Thread) : Bool := t.halted || t.held || t.wait = .parked || t.wait = .parkedDone

/-- The value of a debug register. -/
def State.dbgRead (s : State) (th r : Nat) : Word :=
  let t := s.thread th
  if r < 32 then t.greg r
  else if r = 32 then t.pc.setWidth 72
  else if r < 64 then mget 0 t.rstack (r - 48)
  else s.readCtl th (r - 64)

/-- The capture of a debug register: a corrected register or return stack entry is counted, and an uncorrectable one is reported and
captured as a free value (R503; log entry 116). -/
def State.dbgCapture (s : State) (th r : Nat) : Word × State :=
  match if r ≠ 0 && r ≠ 32 && r < 64 then mget 0 (s.thread th).ecc r else 0 with
  | 0 => (s.dbgRead th r, s)
  | 1 => (s.dbgRead th r, s.count 0x50)
  | _ =>
    let (n, s) := s.fresh
    (Config.freeWord n 0, s.eccEvent (10 + thG th) 2 (thG th) (Config.freeField n % 2 ^ 40))

/-- DBGSEL: the capture of the selected register, or ACCERR with DBGDATA 0 (R278). -/
def State.dbgsel (s : State) (g c : Nat) (d : BitVec 32) : State :=
  let s := s.setReg (aCore g c + 0xA0) (d &&& 0xF007F)
  let th := thid g c (fld d 16 4)
  let r := fld d 0 7
  if dbgRegOk r && (s.thread th).stopped then
    let w := s.dbgCapture th r
    w.2.modCore (coreKey g c) (fun k => { k with dbgdata := w.1 })
  else (s.modCore (coreKey g c) (fun k => { k with dbgdata := 0 })).orReg (aCore g c + 0xB4) 1

/-- A debug write of a thread's register; RSP exposes the stack entries as they stand, and BADINS, BADADDR, THID and BTIME are
read-only (R278, R281). -/
def Thread.dbgWrite (t : Thread) (r : Nat) (w : Word) : Thread :=
  if r < 32 then t.setGreg r w
  else if r = 32 then { t with pc := w.setWidth 24 }
  else if r < 64 then { t with rstack := mput 0 t.rstack (r - 48) w, ecc := mdel t.ecc r }
  else if r = 69 then { t with rsp := min 16 (fld w 0 5) }
  else t.writeCtl (r - 64) w true

/-- DBGDATA2: the commit of the staged word, in maintenance mode only (R278). -/
def State.dbgCommit (s : State) (g c : Nat) (d : BitVec 32) : State :=
  let k := coreKey g c
  let w := setFld (s.core k).dbgdata 64 8 d.toNat
  let s := s.modCore k (fun v => { v with dbgdata := w })
  let sel := s.reg (aCore g c + 0xA0)
  let th := thid g c (fld sel 16 4)
  let r := fld sel 0 7
  if dbgRegOk r && (s.thread th).stopped && !(s.core k).service then s.modThread th (fun t => t.dbgWrite r w)
  else s.orReg (aCore g c + 0xB4) 1

end Sys2Proof.Machine
end

