-- ==== Sys2Proof/Machine/CoreEvents.lean ====
section
/-!
DEFINITION. Events of the groves and cores that no register write makes: exception entry and debug halts at a boundary, idle
slots, the revolution boundary's changes, and the answers of helpers and of the extension unit.
-/
namespace Sys2Proof.Machine

/-! ## Boundary entries -/

/-- The cause of an entry at a boundary (R256, R263, R268). -/
def Due.cause (s : State) (th : Nat) : Due → Nat
  | .retry => (s.thread th).ocause.toNat
  | .chabrt => causeCHABRT
  | .hold _ reason => if reason = 2 then causeECCU else causeRSOVF
  | .stall => causeSTALL
  | .wdog => causeWDOG
  | .nmiext => causeNMIEXT
  | .line i => if bit (s.thread th).tsrc i then causeTIMER else causeEVENT
  | _ => causeBREAK

/-- What EXINFO reports of it. -/
def Due.kind (s : State) (th : Nat) : Due → EntryKind
  | .retry => (s.thread th).retry.kind
  | .hold h _ => .nmi h
  | .stall | .wdog | .nmiext => .nmi (s.recovery (thG th))
  | .line i => .line i
  | _ => .fault

/-- What BADADDR takes (R256). -/
def Due.bad (s : State) (th : Nat) : Due → Option (BitVec 40)
  | .retry => (s.thread th).retry.bad
  | .breakEntry k => some (BitVec.ofNat 40 k)
  | .chabrt => some (BitVec.ofNat 40 (s.thread th).chabch)
  | _ => none

/-- What BADINS takes: only a retried entry may write it (R257, R273). -/
def Due.badins (s : State) (th : Nat) : Due → Option (BitVec 37)
  | .retry => (s.thread th).retry.badins
  | _ => none

/-- Taking the entry ends what was pending (R266, R268, R279). -/
def Due.consume (s : State) (th : Nat) : Due → State
  | .chabrt => s.modThread th (fun t => { t with chabp := false })
  | .hold h _ => s.modGrove (thG th) (fun v => { v with
      holdQ := v.holdQ.map (fun e => if e.th = h then { e with reported := true } else e) })
  | .stall => s.modGrove (thG th) (fun v => { v with nmiStall := false })
  | .wdog => s.modGrove (thG th) (fun v => { v with nmiWdog := false })
  | .nmiext => s.modThread th (fun t => { t with nmip := false })
  | .line i => s.modThread th (fun t => { t with lines := setBit t.lines i false, tsrc := setBit t.tsrc i false })
  | _ => s

/-- The entry that is due at a boundary: a wait it ends has not taken effect (R262). An entry that finds RSP at 16 holds the
thread, and the source stays pending (R270). -/
def State.takeDue (s : State) (th : Nat) (d : Due) : State :=
  let full := (s.thread th).rsp ≥ 16
  let cause := d.cause s th
  let kind := d.kind s th
  let bad := d.bad s th
  let badins := d.badins s th
  let s := (s.cancelWait th).modThread th (fun t => { t with bskip := false })
  let s := s.enter th cause (s.thread th).pc bad badins kind
  if full then s else d.consume s th

/-- EXCEPTION_ENTRY: the chosen thread makes the entry that is due at its boundary, or the one of a decode fault (R201, R258). -/
def State.boundaryEntry (s : State) (th : Nat) : State :=
  let g := thG th
  let c := thC th
  let sel := s.choice g c
  if s.coreRuns g c && sel.t = some (thT th) then
    match s.dueNow th with
    | some d => if d.isHalt then s else ((s.openCycle g).takeDue th d).coreTick g c sel
    | none =>
      match s.fetch th with
      | .instr _ => s
      | .fault cause bad badins =>
        ((((s.openCycle g).fetchEcc th).modThread th (fun t => { t with bskip := false })).enter th cause (s.thread th).pc bad badins
          .fault).coreTick g c sel
  else s

def execExceptionEntry (th : Thid) (s : State) : Host.Outcome State Fault Refusal := .next (s.boundaryEntry th.toNat)

/-- DEBUG_HALT_TAKEN: the thread halts at its boundary, using no issue (R275, R277). -/
def execDebugHaltTaken (th : Thid) (s : State) : Host.Outcome State Fault Refusal :=
  let n := th.toNat
  .next (if !s.groveOn (thG n) then s
    else match s.due n with
      | some .halt =>
        (s.cancelWait n).modThread n (fun t => { t with halted := true, hcause := 1, haltReq := false, step := none })
      | some (.breakHalt k) =>
        s.modThread n (fun t => { t with halted := true, hcause := 2, bpnum := BitVec.ofNat 2 k, step := none })
      | _ => s)

/-- IDLE_SLOT: a core cycle whose slot R151 gives to no thread (R156, R181). -/
def execIdleSlot (g : Fin 8) (c : Fin 32) (s : State) : Host.Outcome State Fault Refusal :=
  let sel := s.choice g.val c.val
  .next (if s.coreRuns g.val c.val && sel.t.isNone then (s.openCycle g.val).coreTick g.val c.val sel else s)

/-! ## Revolution boundaries -/

/-- SLOT_TABLE_ACTIVATE: the committed table becomes active at the first revolution boundary (R168). -/
def execSlotTableActivate (g : Fin 8) (c : Fin 32) (s : State) : Host.Outcome State Fault Refusal :=
  let key := coreKey g.val c.val
  .next (match (s.core key).slotNext with
    | some tab =>
      if s.groveOn g.val && (s.core key).pos = 0 then s.modCore key (fun k => { k with slotAct := tab, slotNext := none }) else s
    | none => s)

/-- SERVICE_MODE_ENTRY (R176). -/
def execServiceModeEntry (g : Fin 8) (c : Fin 32) (s : State) : Host.Outcome State Fault Refusal :=
  let k := s.core (coreKey g.val c.val)
  .next (if s.groveOn g.val && k.pos = 0 && k.mreq && s.shareParked g.val c.val then s.enterService g.val c.val else s)

/-- MAINTENANCE_MODE_ENTRY (R177). -/
def execMaintenanceModeEntry (g : Fin 8) (c : Fin 32) (s : State) : Host.Outcome State Fault Refusal :=
  let k := s.core (coreKey g.val c.val)
  .next (if s.groveOn g.val && k.pos = 0 && k.maintReq then s.enterMaint g.val c.val else s)

/-! ## Answers -/

/-- The data of a load or unit result have arrived: they land with the thread's next instruction (R160, R163). -/
def Thread.arrive (t : Thread) (reg : Nat) (v : Word) (p : Option Bool) : Thread :=
  let t := { t with landing := some { reg := reg, val := v, p := p }, outst := none }
  if t.wait = .load || t.wait = .xunit then { t with wait := .ready } else t

/-- A request that fails: the base register is as before the access (R212, R222), PROG of an LDS reads 0 (R214), and the thread
takes the exception with the PC of the load; a thread that no longer waits on it only drops the request. -/
def State.failLoad (s : State) (th cause : Nat) (bad : Option (BitVec 40)) : State :=
  match (s.thread th).outst with
  | none => s
  | some o =>
    let s := s.modThread th (fun t =>
      let t := { t with outst := none }
      let t := match o.undo with | some (r, v) => t.setGreg r v | none => t
      match o.dest with
      | .latch _ | .join _ _ _ => t.setProg 0
      | _ => t)
    if (s.thread th).wait = .load || (s.thread th).wait = .xunit then s.enter th cause o.pc bad none .fault else s

/-- Take the first request of a thread out of a helper's queue. -/
def takeReq (th : Nat) : List HelperReq → Option (HelperReq × List HelperReq)
  | [] => none
  | r :: rest =>
    if r.th = th then some (r, rest)
    else match takeReq th rest with
      | some (x, l) => some (x, r :: l)
      | none => none

/-- HELPER_RESULT: a helper's result lands in g[D] and P, or the thread takes ECCU (R245, R503). -/
def State.helperResult (s : State) (th : Nat) : State :=
  let g := thG th
  let v := s.grove g
  let found := match takeReq th v.parseQ with
    | some (r, l) => some (r, { v with parseQ := l })
    | none => match takeReq th v.crcQ with
      | some (r, l) => some (r, { v with crcQ := l })
      | none => (takeReq th v.tscfQ).map (fun (x : HelperReq × List HelperReq) => (x.1, { v with tscfQ := x.2 }))
  match found, (s.thread th).outst with
  | some (r, v), some o =>
    match o.dest, r.ans with
    | .result reg, .word w => (s.setGrove g v).modThread th (fun t => t.arrive reg w r.p)
    | .result _, .eccu => (s.setGrove g v).failLoad th causeECCU (some o.addr)
    | _, _ => s
  | _, _ => s

def execHelperResult (th : Thid) (s : State) : Host.Outcome State Fault Refusal :=
  .next (if s.groveOn (thG th.toNat) then s.helperResult th.toNat else s)

/-- EXTENSION_REQUEST_TRANSFER: the oldest request not yet transferred passes to the unit (R472). -/
def execExtensionRequestTransfer (g : Fin 8) (s : State) : Host.Outcome State Fault Refusal :=
  .next (match (upto (s.grove g.val).xreqs.length).find? (fun i =>
      match (s.grove g.val).xreqs[i]? with | some r => !r.xfer | none => false) with
    | some i => if s.groveOn g.val then s.modGrove g.val (fun v => v.setX
        (match v.xreqs[i]? with | some r => lset v.xreqs i { r with xfer := true } | none => v.xreqs)) else s
    | none => s)

/-- The request of a thread is answered or withdrawn. -/
def Grove.dropX (v : Grove) (th : Nat) : Grove := v.setX (v.xreqs.filter (fun r => r.th ≠ th))

/-- No answer has come within n cycles of the first presentation (R254, R472). -/
def XReq.late (r : XReq) (n cyc : Nat) : Bool := match r.since with | some c => c + n ≤ cyc | none => false

/-- EXTENSION_ANSWER: the value lands, or XERR with UERR; an answer for no outstanding request is discarded (R254, R473). -/
def execExtensionAnswer (g : Fin 8) (xathid : Thid) (err : Bool) (data : Word) (s : State) :
    Host.Outcome State Fault Refusal :=
  let th := xathid.toNat
  .next (if thG th ≠ g.val || !s.groveOn g.val || !(s.grove g.val).xreqs.any (fun r => r.th = th && r.xfer) then s
    else
      let s := s.modGrove g.val (fun v => v.dropX th)
      if err then (s.xErr th 22).failLoad th causeXERR none
      else match (s.thread th).outst with
        | some o => match o.dest with
          | .result reg => s.modThread th (fun t => t.arrive reg data none)
          | _ => s
        | none => s)

/-- The answer timeout in grove cycles: TMO × 64, 0 acting as 64 (R254, R255). -/
def State.xTmo (s : State) (g : Nat) : Nat :=
  let n := fld (s.reg (aExt g)) 0 8
  (if n = 0 then 64 else n) * 64

/-- EXTENSION_TIMEOUT: no answer in time: XERR with TOERR; a request not yet transferred is withdrawn (R254, R472). -/
def execExtensionTimeout (th : Thid) (s : State) : Host.Outcome State Fault Refusal :=
  let n := th.toNat
  let g := thG n
  .next (if s.groveOn g && (s.grove g).xreqs.any (fun r => r.th = n && r.late (s.xTmo g) (s.grove g).cyc) then
      ((s.modGrove g (fun v => v.dropX n)).xErr n 23).failLoad n causeXERR none
    else s)

/-! ## The watchdog -/

/-- WATCHDOG_EXPIRY: the count of ticks has reached LIMIT; the second time without a kick is fatal (R274). -/
def execWatchdogExpiry (g : Fin 8) (s : State) : Host.Outcome State Fault Refusal :=
  let limit := fld (s.reg (aExc g.val + 0x18)) 0 16
  .next (if s.groveOn g.val && limit ≠ 0 && limit ≤ (s.grove g.val).wdCount then
      let again := (s.grove g.val).wdFired
      let s := (s.modGrove g.val (fun v => { v with nmiWdog := true, wdCount := 0, wdFired := true })).orReg (aExc g.val + 4)
        0x40000000
      if again then s.groveFatal g.val (s.thread (s.recovery g.val)).ocause.toNat true else s
    else s)

/-- ABANDON_COMPLETION_ENTRY: the next completion of a given-up descriptor enters the queue as an entry frees (R64). -/
def execAbandonCompletionEntry (g : Fin 8) (s : State) : Host.Outcome State Fault Refusal :=
  .next (if s.groveOn g.val then s.serveAband g.val 1 else s)

end Sys2Proof.Machine
end

