-- ==== Sys2Proof/Machine/Trunk.lean ====
section
/-!
DEFINITION. The trunk: cells and admission (R32 to R37, R131 to R135), sequence assignment and dispatch (R38 to R51), the
collector and retirement (R58 to R65), the records of packets (R366, R368), and the trunk's registers (R36, R49, R50).
-/
namespace Sys2Proof.Machine

/-! ## Registers -/

/-- BUFCFG.RESV of port p. -/
def State.resv (s : State) (p : Nat) : Nat := fld (s.reg (0x83000 + 16 * p)) 0 12
/-- BUFCFG.LIMIT of port p. -/
def State.bufLimit (s : State) (p : Nat) : Nat := fld (s.reg (0x83000 + 16 * p)) 12 16
/-- MAXLEN.LEN of port p. -/
def State.maxLen (s : State) (p : Nat) : Nat := fld (s.reg (0x83008 + 16 * p)) 0 14
/-- Change the trunk. -/
def State.modTrunk (s : State) (f : Trunk → Trunk) : State := { s with trunk := f s.trunk }
/-- Step 12 has set DISPCTL.EN and no start reset has come since: the trunk serves (R135). -/
def State.inService (s : State) : Bool := s.start.phase = .service
/-- Sequence assignment and dispatch run (R68). -/
def State.dispOn (s : State) : Bool := s.inService && bit (s.reg 0x80000) 0

/-! ## Cells -/

/-- The number of cells of the buffer (R32). -/
def cellCount : Nat := 524288

/-- A free index at or after i, among n, when `used` lists at most `fuel` of them. -/
def freeFrom (n : Nat) (used : List Nat) : Nat → Nat → Nat
  | 0, i => i % n
  | k + 1, i => if used.contains (i % n) then freeFrom n used k (i + 1) else i % n

/-- A number added to a rising list. -/
def rinsert (x : Nat) : List Nat → List Nat
  | [] => [x]
  | y :: ys => if x < y then x :: y :: ys else if x = y then y :: ys else y :: rinsert x ys

/-- Cells of the shared pool in use (R33). -/
def State.poolUsed (s : State) : Nat := (upto 128).foldl (fun a p => a + ((s.port p).used - s.resv p)) 0
/-- Cells of the shared pool (R33). -/
def State.poolSize (s : State) : Nat := cellCount - (upto 128).foldl (fun a p => a + s.resv p) 0

/-- Port p may take a cell: one of its own, or one of the pool (R33). -/
def State.cellOk (s : State) (p : Nat) : Bool :=
  s.trunk.alloc.length < cellCount &&
    ((s.port p).used < s.resv p || (s.poolUsed < s.poolSize && (s.port p).used < s.bufLimit p))

/-- Take a cell for port p: which free cell is a free value (R32, R33). -/
def State.allocCell (s : State) (p : Nat) : Option (Nat × State) :=
  if !s.cellOk p then none
  else
    let (n, s) := s.fresh
    let c := freeFrom cellCount s.trunk.alloc (s.trunk.alloc.length + 1) (Config.freeCell n)
    some (c, (s.modTrunk (fun t => { t with alloc := rinsert c t.alloc })).modPort p (fun q => { q with used := q.used + 1 }))

/-- Release cells charged to port p. -/
def State.freeCells (s : State) (p : Nat) (cells : List Nat) : State :=
  let s := s.modTrunk (fun t => { t with
    alloc := t.alloc.filter (fun c => !cells.contains c)
    buf := cells.foldl (fun b c => mclear b (8 * c) (8 * c + 8)) t.buf
    ecc := cells.foldl (fun b c => mclear b (8 * c) (8 * c + 8)) t.ecc })
  s.modPort p (fun q => { q with used := q.used - cells.length })

/-- The frame or packet of port p has been retired or discarded (R87). -/
def State.inflDown (s : State) (p : Nat) : State := s.modPort p (fun q => { q with infl := q.infl - 1 })

/-- Release the cells of the packet that CELL names, if it holds any. -/
def State.releasePkt (s : State) (cell : Nat) : State :=
  match mfind s.trunk.pkts cell with
  | none => s
  | some k => (s.modTrunk (fun t => { t with pkts := mdel t.pkts cell })).freeCells k.port k.cells

/-! ## Records of packets -/

/-- The active mode records packets of this ingress port and class (R366). -/
def State.recordsPkt (s : State) (port cls : Nat) : Bool :=
  s.recd.modeA = 3 || (s.recd.modeA = 2 && bit (mget 0 s.recd.selA (port / 32)) (port % 32) && bit s.recd.ctlA cls)

/-- A DROP record (R368). -/
def State.dropRecord (s : State) (k : Packet) (dom seq reason eport : Nat) : State :=
  if s.recordsPkt k.port k.cls then
    s.sendRec 3 2 seq (k.port * 2 ^ 29 + dom * 2 ^ 23 + reason * 2 ^ 20 + eport * 2 ^ 13) (s.stamp 3) [] false
  else s

/-- A frame of port p is discarded before sequence assignment: the port's count, and an IDISC record (R368). The class of a
frame cut off before its end indication is a free value, since none has been given. -/
def State.idisc (s : State) (p : Nat) (cls : Option Nat) (reason ring syms : Nat) (its : Word) : State :=
  let n := (s.port p).idiscs
  let s := s.modPort p (fun q => { q with idiscs := (n + 1) % 65536 })
  let (v, s) := s.fresh
  if s.recordsPkt p (cls.getD (Config.freeField v % 8)) then
    s.sendRec 3 3 n (p * 2 ^ 29 + reason * 2 ^ 27 + ring * 2 ^ 23 + min syms 0x3FFF) its [] false
  else s

/-! ## Ingress -/

/-- The low-word address of counter k of port p: ING_OK, ING_NOBUF, ING_LONG, ING_ABORT (R66). -/
def aIng (p k : Nat) : Nat := 0x84000 + 32 * p + 8 * k

/-- Discard the open frame of port p; reason 0 no cell, 1 too long, 2 abort (R34, R35). Before its end the rest is ignored. -/
def State.discardFrame (s : State) (p : Nat) (f : Frame) (reason : Nat) (cls : Option Nat) (syms : Nat) (ended : Bool) : State :=
  let s := (s.freeCells p f.cells).countAt (aIng p (reason + 1)) f.its
  let s := if f.nwords = 0 then s else s.inflDown p
  let s := s.idisc p cls reason 0 syms f.its
  s.modPort p (fun q => { q with frame := if ended then none else some { f with cells := [], dead := true } })

/-- The frame with one more word in the buffer, or none when no cell can be allocated (R32, R33). -/
def State.bufWord (s : State) (p : Nat) (f : Frame) (w : Word) : Option (Frame × State) :=
  let place (f : Frame) (s : State) : Frame × State :=
    let k := bufKey f.cells f.nwords
    ({ f with nwords := f.nwords + 1, last := w }, s.modTrunk (fun t => { t with buf := mput 0 t.buf k w, ecc := mdel t.ecc k }))
  if f.nwords % 8 = 0 then
    match s.allocCell p with
    | none => none
    | some (c, s) => some (place { f with cells := f.cells ++ [c] } s)
  else some (place f s)

/-- One word of an open frame reaches the trunk (R33 to R35). Model's choice, log entry 80: a word that takes the frame beyond
MAXLEN and would find no cell counts in ING_LONG alone, since the frame is discarded before a cell is asked for. -/
def State.appendWord (s : State) (p : Nat) (f : Frame) (w : Word) : State :=
  if 8 * f.nwords > s.maxLen p then s.discardFrame p f 1 none (8 * f.nwords + 8) false
  else match s.bufWord p f w with
    | none => s.discardFrame p f 0 none (8 * f.nwords + 8) false
    | some (f', s) => s.modPort p (fun q => { q with frame := some f', infl := if f.nwords = 0 then q.infl + 1 else q.infl })

/-- A word of the INE engine reaches the trunk: a frame opens only in service, from step 12 on, while the port is UP, with a word that the
engine wrote then; a frame that begins otherwise is ignored up to its end (R68, R87, R134, R135). -/
def State.ingressWord (s : State) (p : Nat) (w its : Word) (live : Bool) : State :=
  let q := s.port p
  match q.frame with
  | some f => if f.dead then s else s.appendWord p f w
  | none =>
    let f : Frame := { cells := [], nwords := 0, its := its, last := 0, dead := false }
    if live && s.inService && q.st = .up then s.appendWord p f w
    else s.modPort p (fun q => { q with frame := some { f with dead := true } })

/-- The lowest lane of a word with a K symbol, 8 when none has (R121). -/
def lowK (w : Word) : Nat := ((upto 8).find? (fun i => bit w (9 * i + 8))).getD 8

/-- The open frame ends good with its final length; excess cells are released (R32, R35, R132). -/
def State.endGood (s : State) (p : Nat) (f : Frame) (len cls : Nat) (err : Bool) : State :=
  if len = 0 then
    let s := s.freeCells p f.cells
    (if f.nwords = 0 then s else s.inflDown p).modPort p (fun q => { q with frame := none })
  else if len > s.maxLen p then s.discardFrame p f 1 (some cls) len true
  else
    let need := (len + 63) / 64
    let s := s.freeCells p (f.cells.drop need)
    let cells := f.cells.take need
    let first := cells.head?.getD 0
    let pkt : Packet :=
      { cells := cells, len := len, its := f.its, err := err, ring := 0, src := 0, cls := cls, port := p, live := 0 }
    let s := s.modTrunk (fun t => { t with pkts := mins t.pkts first pkt, ended := t.ended ++ [first] })
    (s.modPort p (fun q => { q with frame := none })).countAt (aIng p 0) f.its

/-- The end by the lowest K lane of the last word (R131, R132). -/
def State.endByK (s : State) (p : Nat) (f : Frame) (cls : Nat) (err : Bool) : State :=
  let k := lowK f.last
  let bad := k < 8 && lane f.last k ≠ 0x1FD
  s.endGood p f (8 * (f.nwords - 1) + k) cls (err || bad)

/-- An end indication reaches the trunk (R132): bits [9:0] of the value written, with SHR and BCNT for FIN. A BCNT of 72 gives
8 valid lanes. -/
def State.endFrame (s : State) (p : Nat) (m : IngressMsg) : State :=
  match (s.port p).frame with
  | none => s
  | some f =>
    if f.dead then s.modPort p (fun q => { q with frame := none })
    else match m with
      | .word _ _ _ => s
      | .auto cls => s.endByK p f cls.toNat false
      | .fin bits extra bcnt =>
        let fin := bit bits 4
        let vl := fld bits 0 4
        let cls := fld bits 5 3
        let err := bit bits 8
        if bit bits 9 || (fin && vl ≠ 0) || vl > 8 then s.discardFrame p f 2 (some cls) (8 * f.nwords) true
        else if fin then
          let err := err || bcnt % 8 ≠ 0
          let n := min 8 (bcnt / 8)
          if n = 0 then s.endGood p f (8 * f.nwords) cls err
          else match s.bufWord p f extra with
            | none => s.discardFrame p f 0 (some cls) (8 * f.nwords + n) true
            | some (f', s) => s.endGood p f' (8 * f.nwords + n) cls err
        else if vl ≠ 0 then s.endGood p f (8 * (f.nwords - 1) + vl) cls err
        else s.endByK p f cls err

/-! ## Sequence assignment and dispatch -/

/-- The domain of class c on port p (R38, R71). -/
def State.domain (s : State) (p c : Nat) : Nat := fld (s.reg (0x81000 + 8 * p + 4 * (c / 4))) (8 * (c % 4)) 6

def Trunk.dom (t : Trunk) (d : Nat) : Dom := mget {} t.doms d

/-- The packet is an express copy whose duplicate check has not been answered: it keeps its place in the order (R40, R93). -/
def State.dupWaits (s : State) (cell : Nat) : Bool := s.rings.any (fun e => e.2.ddq.any (fun d => d.cell = cell))

/-- The oldest frame that ended good gets its number and a slot; which free slot is a free value (R38 to R44). -/
def State.assign (s : State) : State :=
  match s.trunk.ended with
  | [] => s
  | cell :: rest =>
    if !s.dispOn || s.trunk.slots.length ≥ 16384 || s.dupWaits cell then s
    else match mfind s.trunk.pkts cell with
      | none => s.modTrunk (fun t => { t with ended := rest })
      | some k =>
        let (n, s) := s.fresh
        let tag := freeFrom 16384 (s.trunk.slots.map (·.1)) (s.trunk.slots.length + 1) (Config.freeSlot n)
        let d := s.domain k.port k.cls
        let dm := s.trunk.dom d
        let dm' : Dom := { dm with next := (dm.next + 1) % 65536, since := if dm.next = dm.head then s.hw else dm.since }
        s.modTrunk (fun t => { t with
          ended := rest
          slots := mins t.slots tag { dom := d, seq := dm.next, cell := cell, done := none }
          doms := mput {} t.doms d dm'
          issueQ := t.issueQ ++ [tag]
          peak := max t.peak (t.slots.length + 1) })

/-- The grove that takes the next descriptor: the most credits, ties by rotation; true for a tie (R46, R47). -/
def State.pickGrove (s : State) (taken : List Nat) : Option (Nat × Bool) :=
  let ok := (upto 8).filter (fun g =>
    bit (s.reg 0x80000) (16 + g) && mget 0 s.trunk.credits g ≥ 1 && !taken.contains g)
  let best := ok.foldl (fun m g => max m (mget 0 s.trunk.credits g)) 0
  let ties := ok.filter (fun g => mget 0 s.trunk.credits g = best)
  match ((upto 8).map (fun i => (s.trunk.tie + 1 + i) % 8)).find? (fun g => ties.contains g) with
  | some g => some (g, ties.length > 1)
  | none => none

/-- The descriptor of a numbered packet (R53). -/
def State.descOf (s : State) (tag : Nat) : Option Desc :=
  match mfind s.trunk.slots tag with
  | none => none
  | some sl => (mfind s.trunk.pkts sl.cell).map (fun k =>
      { tag := tag, dom := sl.dom, seq := sl.seq, cell := sl.cell, len := k.len, its := k.its, err := k.err, ring := k.ring,
        src := k.src, cls := k.cls, port := k.port })

/-- One trunk cycle of the dispatcher: up to n more descriptors, at most one to each grove (R46). Every tag in the queue holds a
slot, and so its packet (R45). -/
def State.issueDescs (s : State) : Nat → List Nat → State
  | 0, _ => s
  | n + 1, taken =>
    match s.trunk.issueQ with
    | [] => s
    | tag :: rest =>
      match s.pickGrove taken, s.descOf tag with
      | some (g, tie), some d =>
        ((s.modTrunk (fun t => { t with
          issueQ := rest
          credits := mput 0 t.credits g (mget 0 t.credits g - 1)
          tie := if tie then g else t.tie })).push (128 + g) (.desc d)).issueDescs n (g :: taken)
      | _, _ => s

/-- The cells of packets that left the collector before their descriptors were issued are released (log entry 79). -/
def State.releaseLost (s : State) : State :=
  (s.trunk.lost.foldl (fun (s : State) c => s.releasePkt c) s).modTrunk (fun t => { t with lost := [] })

/-! ## The collector -/

/-- A completion is accepted: it is recorded in its slot, or it is stale and its cells are released (R60). -/
def State.acceptComp (s : State) (c : Completion) : State :=
  match mfind s.trunk.slots c.tag with
  | some sl =>
    if sl.dom = c.dom && sl.seq = c.seq then
      s.modTrunk (fun t => { t with slots := mins t.slots c.tag { sl with done := some c.emits } })
    else (s.releasePkt c.cell).count 0x85020
  | none => (s.releasePkt c.cell).count 0x85020

/-- Threads that wait for completion queue entries execute again once there is room (R56, R507). -/
def State.wakeCq (s : State) (g : Nat) : State :=
  let room (t : Thread) : Bool := match t.wait with | .cqfull n => (s.grove g).cqRoom n | _ => false
  (s.threadsOf g room).foldl (fun s th => s.modThread th (fun t => { t with wait := .ready })) s

/-- The next entry of the completion queue of grove g reaches its lane of the collector, which holds 8 (R21, R59, R410). -/
def State.laneDeliver (s : State) (g : Nat) : State :=
  let v := s.grove g
  if v.lane < min 8 v.cqOcc && s.groveOn g then s.modGrove g (fun v => { v with lane := v.lane + 1 }) else s

/-- The collector takes one entry of the lane of grove g; a completion is accepted with its last entry (R59). -/
def State.acceptEntry (s : State) (g : Nat) : State :=
  match (s.grove g).cq with
  | [] => s
  | i :: rest =>
    if (s.grove g).lane = 0 then s
    else if i.left ≤ 1 then
      ((s.modGrove g (fun v => { v with cq := rest, lane := v.lane - 1 })).wakeCq g).acceptComp i.comp
    else (s.modGrove g (fun v => { v with cq := { i with left := i.left - 1 } :: rest, lane := v.lane - 1 })).wakeCq g

/-- A copy ends its use of its packet's cells: with the last one the cells are released (R58). -/
def State.copyLeft (s : State) (cell : Nat) : State :=
  match mfind s.trunk.pkts cell with
  | none => s
  | some k =>
    if k.live ≤ 1 then s.releasePkt cell
    else s.modTrunk (fun t => { t with pkts := mins t.pkts cell { k with live := k.live - 1 } })

/-- QLIM of class c of port p (R102). -/
def State.qlim (s : State) (p c : Nat) : Nat := fld (s.reg (aEgress p + 0x14 + 4 * (c / 2))) (16 * (c % 2)) 16

/-- The queue of class c of a port. -/
def Port.queue (q : Port) (c : Nat) : List Copy := mget [] q.queues c

/-- One copy at retirement: discarded as COPYBAD, COPYOFF or EG_QDROP, or queued (R58, R74, R75). Model's choice, log entry 81: a
bad copy for a port that is OFF or DRAINING counts in COPYBAD alone. Model's choice, log entry 122: a copy that its full queue discards
has been handed to egress, so it counts in COPIES too (R67). -/
def State.enqueue (s : State) (k : Packet) (cell dom seq : Nat) (e : Emit) : State :=
  if e.skip + e.trim ≥ k.len || (e.oven && (8 * e.ovoff + 8 ≤ e.skip || k.len - e.trim ≤ 8 * e.ovoff)) then
    (s.count 0x85028).dropRecord k dom seq 2 e.port
  else if (s.port e.port).st = .off || (s.port e.port).st = .draining then
    (s.count 0x85030).dropRecord k dom seq 3 e.port
  else
    let s := s.count 0x85010
    if ((s.port e.port).queue e.cls).length ≥ s.qlim e.port e.cls then
      (s.count (aEgress e.port + 0x2008)).dropRecord k dom seq 4 e.port
    else
      let copy : Copy :=
        { emit := e, cell := cell, len := k.len, its := k.its, iport := k.port, dom := dom, seq := seq, cls := k.cls, bad := 0 }
      let s := s.modPort e.port (fun q => { q with queues := mput [] q.queues e.cls (q.queue e.cls ++ [copy]) })
      s.modTrunk (fun t => match mfind t.pkts cell with
        | some k => { t with pkts := mins t.pkts cell { k with live := k.live + 1 } }
        | none => t)

/-- The slot of the head of domain d. -/
def Trunk.headSlot (t : Trunk) (d : Nat) : Option (Nat × Slot) :=
  t.slots.find? (fun e => e.2.dom = d && e.2.seq = (t.dom d).head)

/-- The head of its domain leaves the collector (R61). -/
def State.leaveSlot (s : State) (tag : Nat) (sl : Slot) : State :=
  let s := s.modTrunk (fun t =>
    let dm := t.dom sl.dom
    { t with slots := mdel t.slots tag, doms := mput {} t.doms sl.dom { dm with head := (dm.head + 1) % 65536, since := s.hw } })
  let s := s.count 0x85000
  match mfind s.trunk.pkts sl.cell with
  | some k => s.inflDown k.port
  | none => s

/-- Retire a packet with its completion: a drop, or its copies in emit-list order (R58, R61, R62). -/
def State.retire (s : State) (tag : Nat) (sl : Slot) (emits : List Emit) : State :=
  let s := s.leaveSlot tag sl
  match mfind s.trunk.pkts sl.cell with
  | none => s
  | some k =>
    match emits with
    | [] => ((s.count 0x85008).dropRecord k sl.dom sl.seq 0 0).releasePkt sl.cell
    | _ =>
      let s := emits.foldl (fun s e => s.enqueue k sl.cell sl.dom sl.seq e) s
      match mfind s.trunk.pkts sl.cell with
      | some k => if k.live = 0 then s.releasePkt sl.cell else s
      | none => s

/-- The head of domain d has been the head without being ready for the limit of HOLT (R63). -/
def State.holDue (s : State) (d : Nat) : Bool :=
  let limit := fld (s.reg 0x8000C) 0 16
  limit ≠ 0 && (s.trunk.dom d).since + limit * 128 ≤ s.hw

/-- A head retires under its timeout, as a drop whose cells stay until its completion arrives (R63). One whose descriptor has not
been issued leaves the issue queue, for only a packet that holds a slot is issued (R45), and has its cells released by the next
cycle of the dispatcher (log entry 79). -/
def State.retireLate (s : State) (tag : Nat) (sl : Slot) : State :=
  let k := mfind s.trunk.pkts sl.cell
  let s := ((s.leaveSlot tag sl).count 0x85008).count 0x85018
  let s := s.modTrunk (fun t =>
    if t.issueQ.contains tag then { t with issueQ := t.issueQ.filter (fun x => x ≠ tag), lost := t.lost ++ [sl.cell] } else t)
  let s := match k with | some k => s.dropRecord k sl.dom sl.seq 1 0 | none => s
  s.event 3 0x07 (sl.dom * 2 ^ 22 + sl.seq * 2 ^ 6) [wordOf tag]

/-- Consecutive ready heads of domain d retire, within a budget; the second component is what is left of it (R61). In a cycle
whose timeout is that of domain d, a head whose limit has passed retires too, and uses one of the cycle's retirements (R63). -/
def State.retireDom (s : State) (late : Option Nat) (d : Nat) : Nat → State × Nat
  | 0 => (s, 0)
  | n + 1 =>
    match s.trunk.headSlot d with
    | some (tag, sl) =>
      match sl.done with
      | some emits => (s.retire tag sl emits).retireDom late d n
      | none => if late = some d && s.holDue d then (s.retireLate tag sl).retireDom late d n else (s, n + 1)
    | none => (s, n + 1)

/-- The domains in turn, in one trunk cycle; the rotation pointer names the last domain served (R61). -/
def State.retireFrom (s : State) (late : Option Nat) : List Nat → Nat → State
  | [], _ => s
  | d :: ds, budget =>
    if budget = 0 then s
    else
      let r := s.retireDom late d budget
      let s := if r.2 < budget then r.1.modTrunk (fun t => { t with rot := d }) else r.1
      s.retireFrom late ds r.2

/-- One trunk cycle of retirement: up to 8 packets (R61), among them the head of the domain whose timeout expires in it (R63). -/
def State.retireCycle (s : State) (late : Option Nat) : State :=
  s.retireFrom late ((upto 64).map (fun i => (s.trunk.rot + 1 + i) % 64)) 8

/-- The next trunk cycle, if the heartwood cycle has one left: Block Time reaches it (R357; log entry 4). -/
def State.trunkTurn (s : State) : Option State := if s.beatReady 8 then some (s.beatOn 8) else none

/-- RETIREMENT: the collector's next trunk cycle (R61). -/
def State.retirement (s : State) : State :=
  match s.trunkTurn with
  | some s => s.retireCycle none
  | none => s

/-- The trunk cycle in which the head-of-line timeout of domain d expires: its head retires in the domain's turn of the rotation;
a completion accepted before it has made the head ready (R63, R65). -/
def State.holTimeout (s : State) (d : Nat) : State :=
  match s.trunk.headSlot d, s.trunkTurn with
  | some (_, sl), some t => if sl.done.isNone && s.holDue d then t.retireCycle (some d) else s
  | _, _ => s

/-! ## Registers -/

/-- BUFCFG of port p: a host write that breaks R36 is ignored and sets CFGERR (R36). -/
def State.writeBufcfg (s : State) (p : Nat) (d : BitVec 32) (image : Bool) : State :=
  let total := (upto 128).foldl (fun a q => if q = p then a else a + s.resv q) (fld d 0 12)
  if !image && (total > cellCount || fld d 0 12 > fld d 12 16) then s.orReg 0x80004 0x40000
  else s.setReg (0x83000 + 16 * p) (d &&& 0x0FFFFFFF)

/-- A new MAXLEN discards the open frame that it leaves too long, in the cycle of the write (R35). -/
def State.writeMaxlen (s : State) (p : Nat) (d : BitVec 32) : State :=
  let s := s.setReg (0x83008 + 16 * p) (d &&& 0x3FFF)
  match (s.port p).frame with
  | some f => if !f.dead && 8 * (f.nwords - 1) > s.maxLen p then s.discardFrame p f 1 none (8 * f.nwords) false else s
  | none => s

/-- DOMMAP (R71). -/
def State.writeDommap (s : State) (p h : Nat) (d : BitVec 32) : State := s.setReg (0x81000 + 8 * p + 4 * h) (d &&& 0x3F3F3F3F)

/-- Every core of grove g is in maintenance mode. -/
def State.allMaint (s : State) (g : Nat) : Bool := (upto 32).all (fun c => !(s.core (coreKey g c)).service)

/-- SHARE of thread i of grove g (offset 4i) or GPOOL: refused with SHERR outside maintenance mode, above the capacity, for MODE
3, and for a share of the recovery thread (R49, R50, R73, R267). -/
def State.writeShare (s : State) (g off : Nat) (d : BitVec 32) (image : Bool) : State :=
  let isPool := off = 0x1000
  let s' := s.setReg (aDisp g + off) (d &&& (if isPool then 0xFFF else 0xF))
  let bad := (!isPool && fld d 2 2 = 3) || (!image && (!s.allMaint g || s'.capacity g > 2048 ||
    (!isPool && fld d 2 2 ≠ 0 && g * 512 + off / 4 = s.recovery g)))
  if bad then s.orReg (aDisp g + 0x1004) 0x1000000 else s'

/-- DABANDON: the thread gives up its descriptors when it is held, halted, or on a core in maintenance mode (R64). A static thread
that is halted in the middle of its packet keeps its registers; a descriptor that is placed with it afterwards becomes its
present one without a packet start, which comes only in DESC (R175; the model's choice, log entry 82). -/
def State.dabandon (s : State) (g : Nat) (d : BitVec 32) : State :=
  let th := g * 512 + fld d 0 9
  let t := s.thread th
  if t.held || t.halted || !(s.core (thCore th)).service then s.giveUp th else s

/-- INFPEAK: the peak since the last read; then the present count (R70). -/
def State.readInfpeak (s : State) : State := s.modTrunk (fun t => { t with peak := t.slots.length })

/-! ## One meaning for each event -/

/-- INGRESS_WORD. -/
def execIngressWord (p : Fin 128) (s : State) : Host.Outcome State Fault Refusal :=
  .next (match s.peekLink p.val with
    | some (.ingress (.word w its live)) => (s.popLink p.val).ingressWord p.val w its live
    | _ => s)

/-- FRAME_END. -/
def execFrameEnd (p : Fin 128) (s : State) : Host.Outcome State Fault Refusal :=
  .next (match s.peekLink p.val with
    | some (.ingress (.word _ _ _)) => s
    | some (.ingress m) => (s.popLink p.val).endFrame p.val m
    | _ => s)

/-- SEQUENCE_ASSIGNMENT. -/
def execSequenceAssignment (s : State) : Host.Outcome State Fault Refusal := .next s.assign

/-- DESCRIPTOR_ISSUE: one trunk cycle of the dispatcher. -/
def execDescriptorIssue (s : State) : Host.Outcome State Fault Refusal := .next (if s.dispOn then s.releaseLost.issueDescs 4 [] else s)

/-- GROVE_CREDIT_RETURN (R51). -/
def execGroveCreditReturn (g : Fin 8) (s : State) : Host.Outcome State Fault Refusal :=
  .next (match s.peekLink (136 + g.val) with
    | some .credit =>
      (s.popLink (136 + g.val)).modTrunk (fun t => { t with credits := mput 0 t.credits g.val (mget 0 t.credits g.val + 1) })
    | _ => s)

/-- DESCRIPTOR_ARRIVAL (R52). -/
def execDescriptorArrival (g : Fin 8) (s : State) : Host.Outcome State Fault Refusal :=
  .next (match s.peekLink (128 + g.val) with
    | some (.desc d) => if s.groveOn g.val then (s.popLink (128 + g.val)).placeDesc g.val d else s
    | _ => s)

/-- COMPLETION_ACCEPT (R59, R60). -/
def execCompletionAccept (g : Fin 8) (s : State) : Host.Outcome State Fault Refusal := .next (s.acceptEntry g.val)

/-- RETIREMENT (R61). -/
def execRetirement (s : State) : Host.Outcome State Fault Refusal := .next s.retirement

/-- HOLT_TIMEOUT (R63). -/
def execHoltTimeout (d : Fin 64) (s : State) : Host.Outcome State Fault Refusal := .next (s.holTimeout d.val)

end Sys2Proof.Machine
end

