-- ==== Sys2Proof/Machine/Delivery.lean ====
section
/-!
DEFINITION. What happens to loads and stores after their instruction: the data of a load arrive (R160, R163, R229), the store
buffer drains (R165, R166, R294), the packet window is served (R208), and what is not answered in time fails (R206).
-/
namespace Sys2Proof.Machine

/-! ## Data of loads -/

/-- The store of a BMOV word whose data have come enters the buffer; when it is full the thread waits in SBFULL (R229). -/
def State.placeCopy (s : State) (th : Nat) (e : SbEntry) (last : Bool) : State :=
  if (s.thread th).sb.length ≥ 2 then s.modThread th (fun t => { t with pendSt := some (e, last), wait := .sbfull 1 })
  else
    let e := { e with ord := (s.core (thCore th)).ordNext, since := (s.grove (thG th)).cyc }
    (s.addEntry th e).modThread th (fun t =>
      ({ t.repeatStep last 2 with pendSt := none, wait := .ready }).endStep .bmov)

/-- The data of a load reach their thread (R160, R163, R214, R229). -/
def State.deliverWord (s : State) (th : Nat) (o : Outst) (w : Word) : State :=
  let waiting := (s.thread th).wait = .load
  match o.dest with
  | .land reg first n => s.modThread th (fun t => t.arrive reg (takeLanes w first n) none)
  | .result reg => s.modThread th (fun t => t.arrive reg w o.ansP)
  | .join reg first n => s.modThread th (fun t => t.arrive reg (t.latch ||| (takeLanes w 0 n <<< (9 * first))) none)
  | .latch first =>
    if waiting then s.modThread th (fun t =>
      { t.setProg 1 with latch := takeLanes w first (8 - first), latchV := true, outst := none, wait := .ready })
    else s.modThread th (fun t => { t with outst := none })
  | .copy e last =>
    let s := s.modThread th (fun t => { t with outst := none })
    if waiting then s.placeCopy th { e with data := w } last else s

/-- The answer of a load or unit request reaches its thread: data, DACC or ECCU (R163, R205, R206). -/
def State.deliver (s : State) (th : Nat) (o : Outst) (a : Answer) : State :=
  match a with
  | .word w => s.deliverWord th o w
  | .dacc => s.failLoad th causeDACC (some o.addr)
  | .eccu => s.failLoad th causeECCU (some o.addr)

/-- A word address of the core control window, whose accesses have no bound (R204, R206). -/
def coreWindow (a : BitVec 40) : Bool := 0x300000 ≤ a.toNat && a.toNat < 0x300400

/-- Remove the first message that p names, and say whether there was one. -/
def cutFirst (p : Message → Bool) : List Message → Option (Message × List Message)
  | [] => none
  | m :: rest =>
    if p m then some (m, rest)
    else (cutFirst p rest).map (fun r => (r.1, m :: r.2))

/-- The packet window request of an access that is given up does not reach the trunk any more (R206). -/
def State.dropRequest (s : State) (th : Nat) (write : Bool) : State :=
  let key := 144 + thG th
  let l := s.link key
  let mine : Message → Bool | .window r => r.th = th && r.write = write | _ => false
  match cutFirst mine l.buf with
  | some (m, rest) => s.setLink key (({ l with buf := rest, credit := min 8 (l.credit + m.size) } : Link).send l.wait.length)
  | none => match cutFirst mine l.out with
    | some (m, rest) => s.setLink key (({ l with out := rest, credit := min 8 (l.credit + m.size) } : Link).send l.wait.length)
    | none => match cutFirst mine l.wait with
      | some (_, rest) => s.setLink key { l with wait := rest }
      | none => s

/-- LOAD_TIMEOUT: no answer within 4,096 core cycles (R206). -/
def State.loadTimeout (s : State) (th : Nat) : State :=
  match (s.thread th).outst with
  | some o =>
    if (o.unit = .window && !coreWindow o.addr || o.unit = .packet) && o.ans.isNone &&
        o.since + 4096 ≤ (s.grove (thG th)).cyc then
      (if o.unit = .packet then s.dropRequest th false else s).failLoad th causeDACC (some o.addr)
    else s
  | none => s

/-! ## The store buffer drains -/

/-- Where an entry goes. -/
inductive SbTarget where
  | spad (phys : Nat) (portB : Bool)
  | packet (k : Nat)
  | ext (ea : Nat)
  | window
  deriving DecidableEq, Repr

/-- The target of an entry that passed its check. -/
def SbEntry.target (e : SbEntry) : SbTarget :=
  match e.phys with
  | some (p, b) => .spad p b
  | none =>
    let a := e.addr.toNat
    if 0x100000 ≤ a && a < 0x100800 then .packet (a - 0x100000)
    else if a ≥ 2 ^ 39 then .ext (a - 2 ^ 39)
    else .window

/-- After an entry has left the buffer, the waits that it ends (R164, R166, R167, R229, R507). -/
def State.sbWake (s : State) (th : Nat) : State :=
  let t := s.thread th
  match t.pendSt with
  | some (e, last) => s.placeCopy th e last
  | none =>
    let go : Bool := match t.wait with
      | .sbfull n => t.sb.length + n ≤ 2
      | .drain => t.sb = []
      | .drainPw => !t.pwStore
      | .ovlap ord => !t.sb.any (fun e => e.ord = ord)
      | _ => false
    if go then s.modThread th (fun t => { t with wait := .ready }) else s

/-- The oldest entry of a thread leaves its buffer. -/
def State.dropHead (s : State) (th : Nat) : State :=
  (s.modThread th (fun t => { t with sb := t.sb.tail })).sbWake th

/-- The oldest entry may be sent: it has not been, and external memory has a place for it (R165, R398). -/
def State.sendable (s : State) (th : Nat) : Option SbEntry :=
  match (s.thread th).sb with
  | e :: _ =>
    if e.sent then none
    else match e.target with
      | .ext ea => if s.memRoom ea (2 + thG th) true then some e else none
      | _ => some e
  | [] => none

/-- The entry that the write channel of the thread's core sends next is this thread's (R165). -/
def State.nextToSend (s : State) (th : Nat) : Option SbEntry :=
  match s.sendable th with
  | none => none
  | some e =>
    if (upto 16).all (fun t => match s.sendable (thid (thG th) (thC th) t) with
        | some x => e.ord ≤ x.ord
        | none => true)
    then some e else none

/-- The oldest entry is marked sent, or also accepted. -/
def State.markHead (s : State) (th : Nat) (acc : Bool) : State :=
  s.modThread th (fun t => match t.sb with
    | e :: rest => { t with sb := { e with sent := true, acc := acc, since := (s.grove (thG th)).cyc } :: rest }
    | [] => t)

/-- The write channel sends one entry: a scratchpad word is written and the entry leaves; the others keep theirs until their
target accepts (R165, R208, R398). -/
def State.sendEntry (s : State) (th : Nat) (e : SbEntry) : State :=
  match e.target with
  | .spad phys b => (s.writePort (thG th) phys b e.data e.mask).dropHead th
  | .packet k =>
    match (s.thread th).descs with
    | d :: _ => (s.markHead th false).push (144 + thG th)
        (.window { th := th, cell := d.cell, len := d.len, write := true, word := k, data := e.data, mask := e.mask })
    | [] => s.markHead th true
  | .ext ea => (s.markHead th false).memSend
      { cls := 2 + thG th, write := true, ea := ea, mask := e.mask, data := e.data, src := .store th, since := 0 }
  | .window => s.markHead th false

/-- Both ports of a dual-port bank write one word in one cycle: port A's write lands, port B's is lost (R294). -/
def State.collide (s : State) (tha thb : Nat) (e : SbEntry) (phys : Nat) : State :=
  let s := ((s.storeSpad (thG tha) phys e.data e.mask).dropHead tha).dropHead thb
  s.orReg (aBanks (thG tha) + 0x100 + 4 * (phys / 4096)) 4

/-- STORE_BUFFER_DRAIN: one write channel cycle of th's core, and of the core of `other` in the same cycle if one is named. -/
def State.drain (s : State) (th : Nat) (other : Option Nat) : State :=
  match s.nextToSend th with
  | none => s
  | some e =>
    match other with
    | none => s.sendEntry th e
    | some o =>
      if thG o ≠ thG th || thCore o = thCore th then s.sendEntry th e
      else match s.nextToSend o with
        | none => s.sendEntry th e
        | some x =>
          match e.target, x.target with
          | .spad p false, .spad q true => if p = q then s.collide th o e p else (s.sendEntry th e).sendEntry o x
          | .spad p true, .spad q false => if p = q then s.collide o th x p else (s.sendEntry th e).sendEntry o x
          | _, _ => (s.sendEntry th e).sendEntry o x

/-- An entry is discarded without acceptance: STOTO counts and the STOTO event names it (R206, R369). -/
def State.discardStore (s : State) (th : Nat) : State :=
  match (s.thread th).sb with
  | [] => s
  | e :: _ =>
    ((s.count (aCore (thG th) (thC th) + 0x60)).event (10 + thG th) 0x08 (th * 2 ^ 16) [wordOf e.addr.toNat]).dropHead th

/-- STORE_TIMEOUT: a store to the packet window or a register window was not accepted in 4,096 core cycles (R206). -/
def State.storeTimeout (s : State) (th : Nat) : State :=
  match (s.thread th).sb with
  | e :: _ =>
    let own := match e.target with | .packet _ => true | .window => !coreWindow e.addr | _ => false
    if e.sent && !e.acc && own && e.since + 4096 ≤ (s.grove (thG th)).cyc then
      (match e.target with | .packet _ => s.dropRequest th true | _ => s).discardStore th
    else s
  | [] => s

/-- The target of the thread's oldest entry has accepted it: the next STORE_ACCEPTANCE frees the entry. -/
def State.ackStore (s : State) (th : Nat) : State :=
  s.modThread th (fun t => match t.sb with
    | e :: rest => if e.sent then { t with sb := { e with acc := true } :: rest } else t
    | [] => t)

/-! ## The packet window -/

/-- The trunk reads a word for a thread, with its ECC treatment (R208, R503). -/
def State.servePacketRead (s : State) (r : PwReq) : State :=
  let mark := s.pktMark r.cell r.len r.word
  let w := s.pktWord r.cell r.len r.word
  let ans (s : State) (a : Answer) : State :=
    match (s.thread r.th).outst with
    | some o => if o.unit = .packet && o.addr.toNat = 0x100000 + r.word then s.answer r.th a else s
    | none => s
  ans (s.pktCheck r.cell r.len r.word) (if mark = 2 then .eccu else .word w)

/-- The trunk writes lanes of a word for a thread (R208). A write of fewer than all lanes reads the word: an uncorrectable error is reported
and the word stays marked (R503, R505; log entry 119). -/
def State.servePacketWrite (s : State) (r : PwReq) : State :=
  let k := bufKey (s.cellsOf r.cell) r.word
  let part := r.mask ≠ 0xFF
  let bad := part && s.pktMark r.cell r.len r.word = 2
  let s := if wordsOf r.len ≤ r.word || (mfind s.trunk.pkts r.cell).isNone then s
    else (if part then s.pktCheck r.cell r.len r.word else s).modTrunk (fun t => { t with
      buf := mput 0 t.buf k (mergeLanes (mget 0 t.buf k) r.data r.mask), ecc := if bad then t.ecc else mdel t.ecc k })
  s.ackStore r.th

/-- PACKET_WINDOW_REQUEST: the trunk serves the oldest request of grove g (R208). -/
def State.servePacket (s : State) (g : Nat) : State :=
  match s.peekLink (144 + g) with
  | some (.window r) =>
    if !s.islandUp 3 then s
    else
      let s := s.popLink (144 + g)
      if r.write then s.servePacketWrite r else s.servePacketRead r
  | _ => s

/-! ## One meaning for each event -/

def execStoreBufferDrain (th : Thid) (other : Option Thid) (s : State) : Host.Outcome State Fault Refusal :=
  .next (if s.groveOn (thG th.toNat) then s.drain th.toNat (other.map (·.toNat)) else s)

def execStoreTimeout (th : Thid) (s : State) : Host.Outcome State Fault Refusal :=
  .next (if s.groveOn (thG th.toNat) then s.storeTimeout th.toNat else s)

def execLoadTimeout (th : Thid) (s : State) : Host.Outcome State Fault Refusal :=
  .next (if s.groveOn (thG th.toNat) then s.loadTimeout th.toNat else s)

def execPacketWindowRequest (g : Fin 8) (s : State) : Host.Outcome State Fault Refusal := .next (s.servePacket g.val)

end Sys2Proof.Machine
end

