-- ==== Sys2Proof/Machine/Ports.lean ====
section
/-!
DEFINITION. The ports: their states (R86 to R88, R134, R144), flow-control holds (R78), RING_ATTACH (R99, R100), the egress
scheduler with its gates (R76 to R81), the words of a copy (R85, R136), time stamps (R83, R84) and the transmit slot (R114).
-/
namespace Sys2Proof.Machine

/-! ## Registers of a port -/

/-- PECFG of port p. -/
def State.pecfg (s : State) (p : Nat) : BitVec 32 := s.reg (aIsland p + 0x400 * (p % 32) + 0xC0)
/-- The port is in pin mode. -/
def State.pinMode (s : State) (p : Nat) : Bool := bit (s.pecfg p) 31
/-- ECTL of engine e of port p. -/
def State.ectl (s : State) (p e : Nat) : BitVec 32 := s.reg (aEngine p e)
/-- EGCFG of port p. -/
def State.egcfg (s : State) (p : Nat) : BitVec 32 := s.reg (aEgress p)
/-- TSEL: class c is strict. -/
def State.strict (s : State) (p c : Nat) : Bool := bit (s.egcfg p) (12 + c)

/-! ## The cycle of a port's engines -/

/-- CAV of the port (R136). -/
def Port.cav (q : Port) : Bool := q.offer.any (fun o => o.cut || o.there ≠ 0)

/-- What the engines of the port see in common at present. -/
def Port.shared (q : Port) : Shared :=
  { st := q.st, pinIn := q.pinIn, rxl := q.rxl, rxt := q.rxt, link := q.link, linkObs := q.obs.link, hold := q.hold,
    holdAt := q.holdAt, holdIgn := q.holdIgn, pinOe := q.pinOe, cav := q.cav, eoc := q.eoc }

/-- The PCLK cycle in which engine e of port p runs now: the one under way, when the engine has not run in it and only the engines that
have run have changed anything since; otherwise the next one begins (R108, R110; log entry 42). -/
def State.portCycle (s : State) (p e : Nat) : PortCycle :=
  let q := s.port p
  let next : PortCycle := { hw := s.hw, ran := [], seen := q.shared, left := q.shared }
  match q.cyc with
  | some c => if c.hw = s.hw && !c.ran.contains e && q.shared = c.left then c else next
  | none => next

/-- What an instruction sees of what the engines share: the values at the beginning of the cycle (R108). -/
def State.cycleSeen (s : State) (p : Nat) : Shared :=
  match (s.port p).cyc with
  | some c => c.seen
  | none => (s.port p).shared

/-- Engine e has run in the cycle of its port. -/
def State.leaveCycle (s : State) (p e : Nat) : State :=
  s.modPort p (fun q => { q with cyc := q.cyc.map (fun c => { c with ran := e :: c.ran, left := q.shared }) })

/-! ## Rings as ports see them -/

/-- The lane of ring r takes frames: enabled, open, both ports UP (R90). -/
def State.laneActive (s : State) (r : Nat) : Bool :=
  (s.ring r).lane && s.ringEn r && s.portLive (s.portA r) && s.portLive (s.portB r)

/-- RING_ATTACH of a driven ring follows R99; one at high impedance stays (R100). -/
def State.ringAttach (s : State) (r : Nat) : State :=
  let v := s.ring r
  if v.attach = .z then s
  else
    let high := s.laneActive r && !v.faultA && !v.faultB && s.start.phase ≠ .safe
    s.setRing r { v with attach := if high then .high else .low }

/-- Every ring's output follows R99. -/
def State.ringsAttach (s : State) : State := (upto 16).foldl (fun s r => s.ringAttach r) s

/-! ## Flow-control holds -/

/-- EGHOLD.HOLD is written: a bit that rises starts its time, a bit that is 0 ends it (R78, R137). -/
def State.writeHold (s : State) (p : Nat) (v : BitVec 8) : State :=
  s.modPort p (fun q => { q with
    hold := v
    holdAt := (upto 8).foldl (fun m c =>
      if !bit v c then mdel m c else if (mfind m c).isSome then m else mins m c s.hw) q.holdAt
    holdIgn := q.holdIgn &&& v })

/-- PAUSE_LIMIT_EXPIRY: HOLD[c] has been 1 for longer than LIMIT × 1,024 trunk cycles (R78). -/
def State.pauseExpire (s : State) (p c : Nat) : State :=
  let q := s.port p
  let limit := fld (s.reg (aEgress p + 0x24)) 0 16
  match mfind q.holdAt c with
  | some t0 =>
    if limit ≠ 0 && bit q.hold c && !bit q.holdIgn c && t0 + limit * 128 < s.hw then
      (s.setPort p { q with holdIgn := setBit q.holdIgn c true }).count (aEgress p + 0x2020)
    else s
  | none => s

/-! ## Engines as the port state drives them -/

/-- Clear what FLUSH clears (R141). Model's choice, log entry 89: KL cleared shows no K lane, which is 8. -/
def Engine.flush (e : Engine) : Engine :=
  { e with shr := 0, bcnt := 0, b := false, kf := false, kl := 8, new := false, rise := 0, fall := 0 }

/-- What the port shows at present of what R95 asks about: not UP, an engine halted with ERR, LINK 0. -/
def State.shows (s : State) (p : Nat) : Obs :=
  { down := !s.portLive p
    err := (upto 4).any (fun e => (s.eng p e).st = .halted && bit (s.reg (aEngine p e + 8)) 29)
    link := !(s.port p).link, bad := 0 }

/-- What either of two stretches of time has shown. -/
def Obs.also (a b : Obs) : Obs := { down := a.down || b.down, err := a.err || b.err, link := a.link || b.link, bad := a.bad + b.bad }

/-- The tick of port p ends: what it has shown is set aside for the decision, and the next tick begins with the present state (R28,
R95). -/
def State.obsClose (s : State) (p : Nat) : State :=
  let now := s.shows p
  s.modPort p (fun q => { q with last := q.obs.also now, obs := now })

/-- The engine halts with ERR and a code (R109, R111, R118); the tick's observation of R95. -/
def State.engError (s : State) (p e code : Nat) : State :=
  let s := s.modEng p e (fun x => { x with st := .halted, errc := BitVec.ofNat 2 code })
  (s.orReg (aEngine p e + 8) 0x20000000).modPort p (fun q => { q with obs := { q.obs with err := true } })

/-- START, LO and HI of an engine. -/
def State.engStart (s : State) (p e : Nat) : Nat := fld (s.ectl p e) 18 6
def State.engLo (s : State) (p e : Nat) : Nat := fld (s.ectl p e) 12 6
def State.engHi (s : State) (p e : Nat) : Nat := fld (s.ectl p e) 6 6

/-- The PC lies in the engine's range and in the store (R109). -/
def State.pcOk (s : State) (p e pc : Nat) : Bool := s.engLo p e ≤ pc && pc ≤ s.engHi p e && pc < 48

/-- The automatic start of an engine when its port enters STARTING (R144). -/
def State.autoStart (s : State) (p e : Nat) : State :=
  if !bit (s.ectl p e) 30 then s
  else
    let start := s.engStart p e
    let s := s.modEng p e (fun x => { x.flush with
      pc := BitVec.ofNat 6 start, fresh := false, cnta := 0, cntb := 0, ticka := false, tickb := false,
      pushf := false, pullf := false, x := x.xinit, st := .running })
    if start ≥ 48 then s.engError p e 2 else s

/-! ## Port states -/

/-- A word that the engine wrote before the port entered DRAINING and that has not reached the trunk opens no frame (R87). -/
def Message.late : Message → Message
  | .ingress (.word w its _) => .ingress (.word w its false)
  | m => m

/-- What is on the ingress link of port p as it enters DRAINING. -/
def State.linkLate (s : State) (p : Nat) : State :=
  let l := s.link p
  s.setLink p { l with wait := l.wait.map Message.late, out := l.out.map Message.late, buf := l.buf.map Message.late }

/-- The port passes to another state (R86, R87, R116, R144). -/
def State.setPortSt (s : State) (p : Nat) (st : PortSt) : State :=
  let s := s.modPort p (fun q => { q with st := st, obs := { q.obs with down := true } })
  let s := match st with
    | .off =>
      let s := (upto 4).foldl (fun (s : State) e => s.modEng p e (fun x => { x with st := .halted })) s
      s.modPort p (fun q => { q with pinOe := 0 })
    | .starting => (upto 4).foldl (fun s e => s.autoStart p e) s
    | .draining => (s.modPort p (fun q => { q with drain := s.tickNow })).linkLate p
    | .up => s
  s.ringsAttach

/-- PORTCTL: DRAINLIM, and EN under R86 and R88. -/
def State.writePortctl (s : State) (p : Nat) (d : BitVec 32) : State :=
  let s := s.setReg (aPort p) (d &&& 0xFF01)
  match bit d 0, (s.port p).st with
  | true, .off => s.setPortSt p .starting
  | true, .draining => s.modPort p (fun q => { q with pend := true })
  | false, .starting => s.setPortSt p .off
  | false, .up => s.setPortSt p .draining
  | false, .draining => s.modPort p (fun q => { q with pend := false })
  | _, _ => s

/-- PORT_UP: LINK reads 1 in STARTING (R86). -/
def State.portUp (s : State) (p : Nat) : State :=
  if s.portOn p && (s.port p).st = .starting && (s.port p).link then s.setPortSt p .up else s

/-- The egress queues of a port are empty. -/
def Port.queuesEmpty (q : Port) : Bool := (upto 8).all (fun c => q.queue c = [])

/-- The transmitter is idle: no copy offered, no word waiting, no express frame (R87). The last word of a copy,
once the engine has taken it, is the engine's (log entry 110). -/
def Port.txIdle (q : Port) : Bool := q.offer.isNone && q.txl.isNone && q.lane = []

/-- DRAIN_FLUSH: at the boundary that starts tick m + DRAINLIM + 1 the copies left are discarded (R87). -/
def State.drainFlush (s : State) (p : Nat) : State :=
  let q := s.port p
  let limit := max 1 (fld (s.reg (aPort p)) 8 8)
  if q.st = .draining && q.drain + limit + 1 ≤ s.tickNow && !q.queuesEmpty then
    let copies := (upto 8).flatMap (fun c => q.queue c)
    let s := s.setPort p { q with queues := [], deficit := [], inTurn := false }
    let s := s.count (aEgress p + 0x2010) copies.length
    copies.foldl (fun s c =>
      let s := match mfind s.trunk.pkts c.cell with
        | some k => s.dropRecord k c.dom c.seq 6 p
        | none => s
      s.copyLeft c.cell) s
  else s

/-- DRAIN_COMPLETE: INFL 0, queues empty, transmitter idle (R86, R87, R88). -/
def State.drainComplete (s : State) (p : Nat) : State :=
  let q := s.port p
  if s.portOn p && q.st = .draining && q.infl = 0 && q.queuesEmpty && q.txIdle then
    if q.pend then (s.setPort p { q with pend := false }).setPortSt p .starting else s.setPortSt p .off
  else s

/-! ## Gates -/

/-- Entry i of a bank: its gates and its interval. -/
def Port.gent (q : Port) (bank i : Nat) : BitVec 40 := mget 0 q.gents (1024 * bank + i)
def Port.gcyc (q : Port) (bank : Nat) : Nat := (mget 0 q.gcycle bank).toNat
/-- The entries of a bank in use. Model's choice, log entry 87: a LEN of 1,025 to 2,047, for which R104 gives no list, acts as 1,024. -/
def Port.glen' (q : Port) (bank : Nat) : Nat := min 1024 (mget 0 q.glen bank).toNat
def Port.gbas (q : Port) (bank : Nat) : Nat := (mget 0 q.gbase bank).toNat

/-- One cycle of a bank as stretches of gates, cut off or stretched to CYCLE (R79): n entries from i with `rem` ns left. -/
def Port.gateSegs (q : Port) (bank : Nat) : Nat → Nat → Nat → List (Nat × BitVec 8)
  | 0, _, _ => []
  | n + 1, i, rem =>
    if rem = 0 then []
    else
      let e := q.gent bank i
      let g := e.extractLsb' 32 8
      if n = 0 then [(rem, g)]
      else
        let d := min rem (fld e 0 32)
        (d, g) :: q.gateSegs bank n (i + 1) (rem - d)

/-- The stretches that follow position `at_` of a cycle. -/
def dropSegs : Nat → List (Nat × BitVec 8) → List (Nat × BitVec 8)
  | _, [] => []
  | at_, (d, g) :: rest => if at_ < d then (d - at_, g) :: rest else dropSegs (at_ - d) rest

/-- The stretches from Block Time t on, of this cycle and the next two, and the fraction of a nanosecond already passed, in units of
2^-32 ns: before BASE the last entry holds (R79). -/
def Port.gateAhead (q : Port) (t : Nat) : List (Nat × BitVec 8) × Nat :=
  let b := q.gact
  let cyc := q.gcyc b
  let n := q.glen' b
  let segs := q.gateSegs b n 0 cyc
  let base := q.gbas b
  if t < base then
    let num := (base - t) * 1000000000
    let ns := (num + 4294967295) / 4294967296
    ((ns, (q.gent b (n - 1)).extractLsb' 32 8) :: (segs ++ segs), ns * 4294967296 - num)
  else
    let num := (t - base) * 1000000000
    (dropSegs (num / 4294967296 % max cyc 1) segs ++ segs ++ segs, num % 4294967296)

/-- GATEEN. -/
def State.gateEn (s : State) (p : Nat) : Bool := bit (s.egcfg p) 1

/-- The gate state as it shows: all open with GATEEN 0 (R79). -/
def State.gates (s : State) (p : Nat) : BitVec 8 := if s.gateEn p then (s.port p).gate else 0xFF

/-- GATE_ENTRY_CHANGE: the port island evaluates the gate state against its own copy of Block Time (R79). A bank without entries or without a cycle gives no gate
state: it is a free value. -/
def State.gateEval (s : State) (p : Nat) : State :=
  let q := s.port p
  if !s.portOn p || !s.gateEn p then s
  else
    let (n, s) := s.fresh
    let v := if q.glen' q.gact = 0 || q.gcyc q.gact = 0 then BitVec.ofNat 8 (Config.freeField n)
      else s.onCopy (6 + p / 32) (fun t => match (q.gateAhead t).1 with
        | (_, g) :: _ => g
        | [] => q.gate)
    s.modPort p (fun q => { q with gate := v })

/-- Time in ns until class c closes, along stretches; none when it stays open through them. -/
def timeOpen (c : Nat) : List (Nat × BitVec 8) → Nat → Option Nat
  | [], _ => none
  | (d, g) :: rest, acc => if bit g c then timeOpen c rest (acc + d) else some acc

/-- The longest run of stretches in which class c is open. -/
def longestOpen (c : Nat) : List (Nat × BitVec 8) → Nat → Nat → Nat
  | [], run, best => max run best
  | (d, g) :: rest, run, best =>
    if bit g c then longestOpen c rest (run + d) best else longestOpen c rest 0 (max run best)

/-- The length of a copy (R77). -/
def Copy.length (k : Copy) : Nat := k.len - k.emit.skip - k.emit.trim

/-- The rate in tenths of Gb/s (R147). -/
def State.rate10 (s : State) (p : Nat) : Nat :=
  match fld (s.pecfg p) 28 3 with
  | 0 => 10 | 1 => 25 | 2 => 50 | 3 => 100 | _ => 250

/-- The guard check is in force for port p (R81). -/
def State.guardOn (s : State) (p : Nat) : Bool := bit (s.egcfg p) 2 && s.gateEn p && !s.pinMode p

/-- The copy ends before its gate closes (R81). -/
def State.guardOk (s : State) (p c : Nat) (k : Copy) : Bool :=
  if !s.guardOn p then true
  else
    let q := s.port p
    let rate := s.rate10 p
    s.onCopy (6 + p / 32) (fun t =>
      let a := q.gateAhead t
      match timeOpen c a.1 0 with
      | none => true
      | some d => decide ((k.length + 20) * 80 * 4294967296 + a.2 * rate ≤ d * rate * 4294967296))

/-- The copy is longer than the longest opening of its gate in one cycle of the active bank (R81). -/
def State.tooLong (s : State) (p c : Nat) (k : Copy) : Bool :=
  let q := s.port p
  let segs := q.gateSegs q.gact (q.glen' q.gact) 0 (q.gcyc q.gact)
  s.guardOn p && (timeOpen c segs 0).isSome &&
    longestOpen c (segs ++ segs) 0 0 * s.rate10 p < (k.length + 20) * 80

/-! ## Gate lists -/

/-- The bank is active or waits to become active (R80). -/
def Port.bankLocked (q : Port) (bank : Nat) : Bool := bank = q.gact || q.garm.isSome

/-- A write of the gate-list window is ignored and sets CFGERR (R80). -/
def State.gateErr (s : State) (p : Nat) : State := s.orReg (aEgress p + 0x28) 1

/-- A write of a field of the bank that GLSEL selects (R80, R104); offset from M:0x0008_C000. -/
def State.writeGate (s : State) (off : Nat) (d : BitVec 32) (image : Bool) : State :=
  let sel := s.reg 0x8C000
  let p := fld sel 16 7
  let b := fld sel 12 1
  let i := 1024 * b + fld sel 0 10
  let q := s.port p
  if !image && q.bankLocked b then s.gateErr p
  else match off with
    | 0x04 => s.setPort p { q with gents := mmod 0 q.gents i (fun e => setFld e 32 8 (fld d 0 8)) }
    | 0x08 => s.setPort p { q with gents := mmod 0 q.gents i (fun e => setFld e 0 32 d.toNat) }
    | 0x0C => s.setPort p { q with gcycle := mput 0 q.gcycle b d }
    | 0x10 => s.setPort p { q with glen := mput 0 q.glen b (d.setWidth 11) }
    | 0x14 => s.setPort p { q with gbase := mmod 0 q.gbase b (fun w => setFld w 0 32 d.toNat) }
    | 0x18 => s.setPort p { q with gbase := mmod 0 q.gbase b (fun w => setFld w 32 32 d.toNat) }
    | _ => s.setPort p { q with gbase := mmod 0 q.gbase b (fun w => setFld w 64 8 (fld d 0 8)) }

/-- The first start of a cycle of a bank at least 1 µs from now, in ns after its BASE (R80). -/
def State.swapAt (s : State) (p b : Nat) : Nat :=
  let q := s.port p
  let cyc := q.gcyc b
  let num : Int := ((s.now : Int) - (q.gbas b : Int)) * 1000000000 + 1000 * 4294967296
  if num ≤ 0 then 0 else ((num.toNat + cyc * 4294967296 - 1) / (cyc * 4294967296)) * cyc

/-- GLSWAP: the inactive bank is armed, or refused with CFGERR (R80). A write that names the active bank does nothing. -/
def State.glswap (s : State) (d : BitVec 32) : State :=
  let p := fld d 16 7
  let b := fld d 12 1
  let q := s.port p
  if q.glen' b = 0 || q.gcyc b = 0 || (upto (q.glen' b)).any (fun i => fld (q.gent b i) 0 32 < 64) then s.gateErr p
  else if b = q.gact then s
  else s.setPort p { q with garm := some (s.swapAt p b) }

/-- GATE_BANK_SWAP: the armed bank becomes active at its cycle start (R80). -/
def State.gateSwap (s : State) (p : Nat) : State :=
  let q := s.port p
  match q.garm with
  | some ns =>
    let b := 1 - q.gact
    if s.portOn p && s.onCopy (6 + p / 32) (fun t => decide (q.gbas b ≤ t ∧ ns ≤ nsOf (t - q.gbas b))) then
      (s.setPort p { q with gact := b, garm := none }).gateEval p
    else s
  | none => s

/-! ## The scheduler -/

/-- QUANT of class c, 0 acting as 64 (R77). -/
def State.quant (s : State) (p c : Nat) : Nat :=
  let v := fld (s.reg (aEgress p + 4 + 4 * (c / 2))) (16 * (c % 2)) 16
  if v = 0 then 64 else v

/-- Class c of port p is eligible (R76). -/
def State.eligibleClass (s : State) (p c : Nat) : Bool :=
  let q := s.port p
  match q.queue c with
  | [] => false
  | k :: _ => bit (s.gates p) c && s.guardOk p c k && !(bit q.hold c && !bit q.holdIgn c)

/-- Length of the head copy of class c. -/
def Port.headLen (q : Port) (c : Nat) : Nat := match q.queue c with | k :: _ => k.length | [] => 0

/-- DRR turns: each eligible class after the pointer adds its QUANT until one can send its head (R77). -/
def State.drrTurns (s : State) (p : Nat) (elig : Nat → Bool) : Nat → State × Option Nat
  | 0 => (s, none)
  | n + 1 =>
    let q := s.port p
    match ((upto 8).map (fun i => (q.turn + 1 + i) % 8)).find? elig with
    | none => (s, none)
    | some c =>
      let deficit := mget 0 q.deficit c + s.quant p c
      let go := q.headLen c ≤ deficit
      let s := s.setPort p { q with turn := c, inTurn := go, deficit := mput 0 q.deficit c deficit }
      if go then (s, some c) else s.drrTurns p elig n

/-- The class that sends next: strict classes first, then the DRR turn (R77). Eligibility is looked at when a copy is to be chosen
(log entry 111). -/
def State.pickClass (s : State) (p : Nat) : State × Option Nat :=
  let el := (upto 8).filter (fun c => s.eligibleClass p c)
  match el.reverse.find? (fun c => s.strict p c) with
  | some c => (s, some c)
  | none =>
    let q := s.port p
    if q.inTurn && el.contains q.turn && !s.strict p q.turn && q.headLen q.turn ≤ mget 0 q.deficit q.turn then
      (s, some q.turn)
    else
      (s.modPort p (fun q => { q with inTurn := false })).drrTurns p (fun c => el.contains c && !s.strict p c) 131072

/-- Take the head copy of class c out of its queue (R77). -/
def State.dequeue (s : State) (p c : Nat) (charge : Nat) : State :=
  s.modPort p (fun q =>
    let rest := (q.queue c).tail
    { q with
      queues := mput [] q.queues c rest
      deficit := if rest = [] then mdel q.deficit c else mput 0 q.deficit c (mget 0 q.deficit c - charge)
      inTurn := q.inTurn && !(rest = [] && q.turn = c) })

/-- A copy is discarded at the head of its queue, with its record and counter. -/
def State.discardHead (s : State) (p c reason ctr : Nat) (k : Copy) : State :=
  let s := (s.dequeue p c 0).count ctr
  let s := match mfind s.trunk.pkts k.cell with
    | some pk => s.dropRecord pk k.dom k.seq reason p
    | none => s
  s.copyLeft k.cell

/-- Head copies of class c that the scheduler discards: longer than any opening (R81), or with an uncorrectable error in the copy
store (R503; the address of that event is a free value). A corrected error of an entry counts in ECCCORT as the entry is read. -/
def State.discardHeads (s : State) (p c : Nat) : Nat → State
  | 0 => s
  | n + 1 =>
    match (s.port p).queue c with
    | [] => s
    | k :: _ =>
      if k.bad = 1 then
        (s.count 0x40).modPort p (fun q => { q with queues := mput [] q.queues c ({ k with bad := 0 } :: (q.queue c).tail) })
          |>.discardHeads p c n
      else if k.bad ≠ 0 then
        let (f, s) := s.fresh
        (((s.discardHead p c 2 0x85028 k).eccEvent 3 3 0 (Config.freeField f % 2 ^ 40))).discardHeads p c n
      else if s.tooLong p c k then (s.discardHead p c 5 (aEgress p + 0x2018) k).discardHeads p c n
      else s

/-- COPY_SELECT: when the transmitter is free the scheduler offers a copy to the port (R76, R77, R81, R92, R134, R135, R136). -/
def State.copySelect (s : State) (p : Nat) : State :=
  let q := s.port p
  if !s.inService || !s.portOn p || !(q.st = .up || q.st = .draining) || q.offer.isSome || q.lane ≠ [] then s
  else
    let s := (upto 8).foldl (fun s c => s.discardHeads p c (2 * ((s.port p).queue c).length)) s
    match s.pickClass p with
    | (s, none) => s
    | (s, some c) =>
      match (s.port p).queue c with
      | [] => s
      | k :: _ =>
        (s.dequeue p c (if s.strict p c then 0 else k.length)).modPort p (fun q =>
          { q with offer := some { copy := k, pos := 0, there := 0, ets := none, cut := false }, etsWait := some k })

/-! ## The words of a copy -/

/-- The lanes of a word that TRKR returns for an uncorrectable word of the buffer, or for a copy that is cut (R135, R503). -/
def errWord : Word := ofLanes (List.replicate 8 0x1FE)

/-- The buffer holds an uncorrectable error in word i of the packet of a copy (R503). -/
def State.copyBad (s : State) (k : Copy) (i : Nat) : Bool :=
  i < wordsOf k.len && mget 0 s.trunk.ecc (bufKey (s.cellsOf k.cell) i) = 2

/-- Packet word i of a copy with its override; of an uncorrectable word the symbols 0x1FE (R54, R503). -/
def State.copyWordRaw (s : State) (k : Copy) (i : Nat) : Word :=
  if s.copyBad k i then errWord else if k.emit.oven && k.emit.ovoff = i then k.emit.e1 else s.pktWord k.cell k.len i

/-- Symbol i of a copy, before the update of R85. -/
def State.copySym (s : State) (k : Copy) (i : Nat) : BitVec 9 :=
  let at_ := k.emit.skip + i
  lane (s.copyWordRaw k (at_ / 8)) (at_ % 8)

/-- The symbols of a copy with the one-step update (R85). -/
def State.copySyms (s : State) (p : Nat) (k : Copy) (ets : Word) : List (BitVec 9) :=
  let syms := (upto k.length).map (fun i => s.copySym k i)
  let off := fld (s.egcfg p) 20 11
  if k.emit.tsupd && bit (s.egcfg p) 3 && !s.pinMode p && off + 12 ≤ k.length then
    let bytes := syms.map (fun x => BitVec.ofNat 8 x.toNat)
    let cf := beNat ((bytes.drop off).take 8)
    let new := (beBytes 8 ((cf + t16 ets) % 2 ^ 64)).map (fun b => b.setWidth 9)
    let syms := syms.take off ++ new ++ syms.drop (off + 8)
    let body := syms.take (k.length - 4)
    body ++ (leBytes 4 (crc32 (body.map (fun x => BitVec.ofNat 8 x.toNat)))).map (fun b => b.setWidth 9)
  else syms

/-- How many words TRKR returns for a copy (R136): in word mode always one that holds the terminating symbol. -/
def State.copyWords (s : State) (p : Nat) (k : Copy) : Nat :=
  if s.pinMode p then (k.length + 7) / 8 else k.length / 8 + 1

/-- The packet words that word j of a copy takes symbols from. -/
def Copy.reads (k : Copy) (j : Nat) : List Nat :=
  ((upto 2).map (fun i => (k.emit.skip + 8 * j) / 8 + i)).filter (fun i =>
    8 * j < k.length && i < wordsOf k.len && 8 * i < k.emit.skip + min (8 * j + 8) k.length)

/-- Word j of a copy, with what follows its last symbol (R136); one that takes symbols from an uncorrectable word reads 0x1FE in every
lane, whatever R85 and R136 put there (R503). -/
def State.copyWord (s : State) (p : Nat) (k : Copy) (ets : Word) (j : Nat) : Word :=
  let syms := s.copySyms p k ets
  if (k.reads j).any (fun i => s.copyBad k i) then errWord
  else ofLanes ((upto 8).map (fun i =>
    match syms[8 * j + i]? with
    | some x => x
    | none => if 8 * j + i = k.length && !s.pinMode p then 0x1FD else 0x107))

/-- The next word of the copy that port p has been offered reaches the port, whose buffer holds 8 that are not read (R21, R136, R410). -/
def State.copyDeliver (s : State) (p : Nat) : State :=
  match (s.port p).offer with
  | some o =>
    if !o.cut && o.there < s.copyWords p o.copy && o.there < o.pos + 8 && s.islandUp 3 && s.portOn p then
      s.modPort p (fun q => { q with offer := some { o with there := o.there + 1 } })
    else s
  | none => s

/-! ## Time stamps -/

/-- The first word of a copy leaves: ETS, the ETSQ entry, the EGR record (R83, R84, R368). -/
def State.stampCopy (s : State) (p : Nat) (k : Copy) : State :=
  let ets := s.stamp (6 + p / 32)
  let s := s.modPort p (fun q => { q with
    etsWait := none
    offer := match q.offer with
      | some o => if o.copy = k then some { o with ets := some ets } else some o
      | none => none })
  let s :=
    if !k.emit.tsupd then s
    else if (s.port p).etsq.length ≥ 8 then s.orReg (aPort p + 4) 0x80
    else s.modPort p (fun q => { q with etsq := q.etsq ++ [{ ets := ets, dom := k.dom, seq := k.seq }] })
  if s.recordsPkt k.iport k.cls then
    let resid := min 0xFFFF (nsOf (ets.toNat - k.its.toNat) / 64)
    s.sendRec (6 + p / 32) 1 k.seq (p * 2 ^ 29 + k.dom * 2 ^ 23 + k.iport * 2 ^ 16 + resid) ets [] false
  else s

/-- A read of ETSQ: the head entry leaves the queue and is latched (R84). -/
def State.popEts (s : State) (p : Nat) : State × Option Ets :=
  let q := s.port p
  (s.setPort p { q with etsq := q.etsq.tail, etsLast := q.etsq.head? }, q.etsq.head?)

/-! ## TRKR -/

/-- The final word of a copy has been read: the transmitter is free, the copy's cells are left (R58, R76, R103, R136). The copy counts
with its ETS, or with the time of this read when its first word has not left yet (R28; log entry 92). -/
def State.copyDone (s : State) (p : Nat) (cell : Nat) (ets : Option Word) : State :=
  ((s.modPort p (fun q => { q with offer := none, eoc := true, tail := !s.pinMode p })).countAt (aEgress p + 0x2000)
    (ets.getD (s.stamp (6 + p / 32)))).copyLeft cell

/-- A TRKR read: the next word of the offered copy, or none when no word is staged (R130, R135, R136). In pin mode the first read
stamps the copy (R83). A copy that R85 updates before any stamp was taken adds a free value. -/
def State.trkr (s : State) (p : Nat) : Option (Word × State) :=
  match (s.port p).offer with
  | none => none
  | some o =>
    if o.cut then
      some (errWord, s.modPort p (fun q => { q with offer := none, eoc := true, tail := !s.pinMode p }))
    else if o.there ≤ o.pos then none
    else
      let s := if s.pinMode p && o.pos = 0 then s.stampCopy p o.copy else s
      let (n, s) := s.fresh
      let ets? := (s.port p).offer.bind (·.ets)
      let w := s.copyWord p o.copy (ets?.getD (wordOf (Config.freeField n))) o.pos
      let s := (o.copy.reads o.pos).foldl (fun s i =>
        let key := bufKey (s.cellsOf o.copy.cell) i
        match mget 0 s.trunk.ecc key with
        | 0 => s
        | 1 => s.count 0x40
        | _ => s.eccEvent 3 3 0 key) s
      if o.pos + 1 ≥ s.copyWords p o.copy then some (w, s.copyDone p o.copy.cell ets?)
      else some (w, s.modPort p (fun q => { q with
        eoc := false
        offer := match q.offer with | some o => some { o with pos := o.pos + 1 } | none => none }))

/-! ## The transmit lanes -/

/-- The terminate word of a cut-off frame (R90, R91, R97). -/
def termWord : Word := ofLanes (0x1FE :: List.replicate 7 0x107)

/-- A word on the transmit lanes. -/
def State.present (s : State) (p : Nat) (w : Word) : State := s.modPort p (fun q => { q with ptxd := w, ptxv := true })

/-- A transit frame has left: its counters and its TRANSIT record (R103, R107, R368). -/
def State.transitSent (s : State) (p : Nat) (x : XFrame) : State :=
  if x.frag then s
  else
    let s := ((s.countAt (aEgress p + 0x2000) x.ets).countAt (aEgress p + 0x2028) x.ets).countAt (0x13000 + 0x40 * x.ring) x.ets
    if s.recd.modeA ≥ 2 && bit s.recd.ctlA 28 then
      s.sendRec (6 + p / 32) 4 x.seq (x.ring * 2 ^ 32 + b1 x.dir * 2 ^ 31 + min x.syms 0x3FFF) x.ets [] false
    else s

/-- The express lane presents the next word of the frame at the head of the transit buffer (R83, R92). -/
def State.laneSlot (s : State) (p : Nat) (x : XFrame) (rest : List XFrame) : State :=
  let x := if x.started then x else { x with started := true, ets := s.stamp (6 + p / 32) }
  match x.words with
  | [] => (s.modPort p (fun q => { q with lane := rest })).transitSent p x
  | [w] => ((s.present p w).modPort p (fun q => { q with lane := rest })).transitSent p x
  | w :: ws => (s.present p w).modPort p (fun q => { q with lane := { x with words := ws } :: rest })

/-- The slot of a port outside express frames: TXL, or an idle word (R83, R114). The last word of a copy is on the lanes with the
first word that holds a control symbol after TRKR returned it, or when nothing is left in TXL (log entry 84). -/
def State.txlSlot (s : State) (p : Nat) : State :=
  match (s.port p).txl with
  | none => (s.present p idleWord).modPort p (fun q => { q with tail := false })
  | some w =>
    let s := (s.present p w).modPort p (fun q => { q with txl := none, tail := q.tail && lowK w = 8 })
    match (s.port p).etsWait with
    | some k => if lane w 0 = 0x1FB then s.stampCopy p k else s
    | none => s

/-- A copy is being sent: it is offered, or its last word has still to leave (R92). -/
def Port.sending (q : Port) : Bool := q.offer.isSome || q.tail

/-- TX_TRANSFER_SLOT: an express frame in progress goes on, one that waits starts when no copy is being sent, otherwise the slot
takes TXL; in pin mode the lanes carry nothing (R92, R114, R460). In SAFE the lanes carry only the terminate word of a frame that was
cut off (R97). -/
def State.txSlot (s : State) (p : Nat) : State :=
  let q := s.port p
  if s.pinMode p then s
  else if !s.portOn p then
    match q.lane with
    | x :: rest => if s.start.phase = .safe && x.frag && !s.clkGone (2 + p / 32) then s.laneSlot p x rest else s
    | [] => s
  else match q.lane with
    | x :: rest => if x.started || !q.sending then s.laneSlot p x rest else s.txlSlot p
    | [] => s.txlSlot p

/-- PTXV is high for one cycle for each word (R460); after the terminate word SAFE holds the lanes at their reset level (R455). -/
def State.lowerTx (s : State) : State :=
  (s.ports.map (·.1)).foldl (fun (s : State) p =>
    if (s.port p).ptxv then s.modPort p (fun q => { q with ptxv := false, ptxd := if s.start.phase = .safe then idleWord else q.ptxd })
    else s) s

/-- The outputs of port p at the boundary: PTXD, PTXV, the pins and their enables; clamps hold them at 0 while its island is not ON
(R455). -/
def State.portPins (s : State) (p : Nat) : Word × Bool × BitVec 4 × BitVec 4 :=
  let q := s.port p
  if (s.isl (6 + p / 32)).st = .on then (q.ptxd, q.ptxv, q.pinOut, q.pinOe) else (0, false, 0, 0)

/-- PRATE and PMODE of port p: RATE and MODE of PECFG, 0 while the island is not ON (R455). -/
def State.modePins (s : State) (p : Nat) : Nat × Bool :=
  if (s.isl (6 + p / 32)).st = .on then (fld (s.pecfg p) 28 3, s.pinMode p) else (0, false)

/-! ## One meaning for each event -/

def execCopySelect (p : Fin 128) (s : State) : Host.Outcome State Fault Refusal := .next (s.copySelect p.val)
def execPauseLimitExpiry (p : Fin 128) (c : Fin 8) (s : State) : Host.Outcome State Fault Refusal :=
  .next (s.pauseExpire p.val c.val)
def execGateEntryChange (p : Fin 128) (s : State) : Host.Outcome State Fault Refusal := .next (s.gateEval p.val)
def execGateBankSwap (p : Fin 128) (s : State) : Host.Outcome State Fault Refusal := .next (s.gateSwap p.val)
def execPortUp (p : Fin 128) (s : State) : Host.Outcome State Fault Refusal := .next (s.portUp p.val)
def execDrainFlush (p : Fin 128) (s : State) : Host.Outcome State Fault Refusal := .next (s.drainFlush p.val)
def execDrainComplete (p : Fin 128) (s : State) : Host.Outcome State Fault Refusal := .next (s.drainComplete p.val)
def execTxTransferSlot (p : Fin 128) (s : State) : Host.Outcome State Fault Refusal := .next (s.txSlot p.val)

end Sys2Proof.Machine
end

