-- ==== Sys2Proof/Machine/Engines.lean ====
section
/-!
DEFINITION. The port engines: their instructions (R108 to R133), halts, resumes and register writes (R138 to R144, R148), and
the words and pin edges that reach a port (R113, R115).
-/
namespace Sys2Proof.Machine

/-! ## Instruction words -/

/-- The types of instruction (R118). -/
inductive EOp where
  | mov | shin | shout | wait | jmp | setp | push | pull | cnt | mark
  deriving DecidableEq, Repr

/-- The type that bits [23:20] name. -/
def engOp (w : BitVec 24) : Option EOp :=
  match fld w 20 4 with
  | 0 => some .mov | 1 => some .shin | 2 => some .shout | 3 => some .wait | 4 => some .jmp
  | 5 => some .setp | 6 => some .push | 7 => some .pull | 8 => some .cnt | 9 => some .mark
  | _ => none

/-- Location codes that may be a source, and those that may be a destination (R119). -/
def movSources : List Nat := [0, 1, 2, 3, 4, 5, 6, 0xB, 0xC, 0xD, 0xE, 0xF, 0x10, 0x11]
def movDests : List Nat := [0, 1, 2, 3, 4, 5, 7, 8, 9, 0xA, 0xC, 0xD, 0xE, 0xF]

/-- N is in range for a SHIN or SHOUT: one pin bit, 1 to 8 symbols of the lanes, 1 to 15 bits of X (R122, R123). -/
def shiftNOk (kind n : Nat) : Bool :=
  match kind with
  | 0 => n = 1
  | 1 => 1 ≤ n && n ≤ 8
  | _ => 1 ≤ n

/-- The reserved pattern (R118, R120), a word whose type is defined. -/
def engFieldsBad (op : EOp) (w : BitVec 24) : Bool :=
  let a := fld w 18 2
  let b := fld w 16 2
  let m := fld w 14 2
  let n := fld w 10 4
  match op with
  | .mov =>
    !movDests.contains (fld w 15 5) || !movSources.contains (fld w 10 5) ||
      (fld w 10 5 ≠ 0x11 && (fld w 6 2 ≠ 0 || (fld w 8 2 = 0 && fld w 0 6 ≠ 0)))
  | .shin => a = 3 || m = 3 || fld w 0 10 ≠ 0 || !shiftNOk a n || (a ≠ 0 && b ≠ 0) || (a = 1 && m = 2)
  | .shout => a = 3 || m ≥ 2 || fld w 0 10 ≠ 0 || !shiftNOk a n || (a ≠ 0 && b ≠ 0) || (a = 1 && m ≠ 0)
  | .wait =>
    let kind := fld w 17 3
    fld w 12 2 ≠ 0 || (kind ≠ 4 && fld w 0 12 ≠ 0) || (bit w 16 && !(kind = 0 || kind = 5 || kind = 7)) ||
      ((kind = 3 || kind = 4 || kind = 6 || kind = 7) && m ≠ 0) || (kind = 5 && m = 3)
  | .jmp =>
    let c := fld w 16 4
    fld w 6 8 ≠ 0 || ((c = 3 || c = 4) && m = 3) || (!(c = 1 || c = 2 || c = 3 || c = 4) && m ≠ 0)
  | .setp => fld w 0 4 ≠ 0
  | .push => fld w 0 15 ≠ 0
  | .pull => fld w 0 17 ≠ 0
  | .cnt => a = 3 || (a = 2 && b = 3)
  | .mark => a = 3 || fld w 0 16 ≠ 0 || (a ≠ 2 && b ≠ 0)

/-- The type of a word that is not the reserved pattern. -/
def engDecode (w : BitVec 24) : Option EOp :=
  match engOp w with
  | some op => if engFieldsBad op w then none else some op
  | none => none

/-- The word at the engine's PC; the store has no word above 47, and a fetch there is the reserved pattern. -/
def State.engFetch (s : State) (p e : Nat) : BitVec 24 :=
  let pc := (s.eng p e).pc.toNat
  if pc < 48 then mget 0 (s.port p).store pc else 0xF00000

/-- Engines INE, OUTE and TXE (R111). -/
def State.ine (s : State) (p : Nat) : Nat := fld (s.pecfg p) 26 2
def State.oute (s : State) (p : Nat) : Nat := fld (s.pecfg p) 24 2
def State.txe (s : State) (p : Nat) : Nat := fld (s.pecfg p) 22 2
/-- The owner of output pin k. -/
def State.pinOwner (s : State) (p k : Nat) : Nat := fld (s.pecfg p) (14 + 2 * k) 2

/-- The engine owns every endpoint that the instruction names (R111). -/
def State.ownsEndpoints (s : State) (p e : Nat) (op : EOp) (w : BitVec 24) : Bool :=
  match op with
  | .mov =>
    let d := fld w 15 5
    (!(d = 8 || d = 9 || d = 0xA) || s.ine p = e) && (d ≠ 7 || s.txe p = e) && (fld w 10 5 ≠ 0xB || s.oute p = e)
  | .shout => fld w 18 2 ≠ 1 || s.txe p = e
  | _ => true

/-! ## The frame of an instruction -/

/-- What an instruction comes to: it repeats (R130), or it is done and the PC goes on. -/
inductive EOut where
  | hold (s : State)
  | go (s : State) (pc : Nat)

/-- The counters in TICK mode fall at the end of a cycle in which the engine runs (R128). -/
def Engine.ticked (x : Engine) : Engine :=
  { x with cnta := if x.ticka && x.cnta ≠ 0 then x.cnta - 1 else x.cnta
           cntb := if x.tickb && x.cntb ≠ 0 then x.cntb - 1 else x.cntb }

/-- One PCLK cycle of an engine whose instruction is of type op. `body` sees the engine as the cycle began, what the engines share as the
cycle of the port began, and a state in which the cycle's ticks have been counted; a counter that it writes keeps what it wrote (R108,
R109, R111, R128, R130). -/
def State.runEngine (s : State) (p e : Nat) (op : EOp) (body : Engine → BitVec 24 → State → EOut) : State :=
  let x := s.eng p e
  let w := s.engFetch p e
  if !s.portOn p || x.st = .halted || engDecode w ≠ some op then s
  else
    let own := s.ownsEndpoints p e op w
    let c := s.portCycle p e
    let s := (s.modPort p (fun q => { q with cyc := some c })).setEng p e x.ticked
    let s :=
      if !own then s.engError p e 3
      else match body x w s with
        | .hold s => s.modEng p e (fun y => { y with st := .holding })
        | .go s pc =>
          let s := s.modEng p e (fun y => { y with st := .running, pc := BitVec.ofNat 6 pc })
          if s.pcOk p e pc then s else s.engError p e 2
    s.leaveCycle p e

/-- The PC after an instruction that falls through. -/
def Engine.next (x : Engine) : Nat := x.pc.toNat + 1

/-! ## What instructions read and write -/

/-- The pin levels an instruction sees: a port in word mode has no pins, and they read 0 (R115; log entry 41). -/
def State.pinsSeen (s : State) (p : Nat) : BitVec 4 := if s.pinMode p then (s.port p).pinIn else 0

/-- The engine consumes the word in RXL (R113, R129). -/
def State.consume (s : State) (p e : Nat) : State :=
  let t := (s.port p).rxt
  s.modEng p e (fun y => { y with new := false, rxw := t })

/-- KF and KL from a word (R117, R121). -/
def State.kFlags (s : State) (p e : Nat) (v : Word) : State :=
  s.modEng p e (fun y => { y with kf := lowK v < 8, kl := lowK v })

/-- Counter SEL of an engine. -/
def Engine.counter (x : Engine) (sel : Nat) : Nat :=
  match sel with
  | 0 => x.cnta.toNat
  | 1 => x.cntb.toNat
  | _ => x.bcnt

/-- Write counter SEL; `tick` starts TICK mode, any other write ends it (R128). -/
def Engine.setCounter (x : Engine) (sel v : Nat) (tick : Bool) : Engine :=
  match sel with
  | 0 => { x with cnta := BitVec.ofNat 16 v, ticka := tick }
  | 1 => { x with cntb := BitVec.ofNat 16 v, tickb := tick }
  | _ => { x with bcnt := min v 72 }

/-- Output pins that the engine owns take the values of the mask's bits (R111, R126). -/
def State.drivePins (s : State) (p e : Nat) (mask vals : BitVec 4) : State :=
  let own := (upto 4).foldl (fun (m : BitVec 4) k => setBit m k (s.pinOwner p k = e)) 0
  s.modPort p (fun q => { q with pinOut := (q.pinOut &&& ~~~(mask &&& own)) ||| (vals &&& mask &&& own) })

/-- Output enables likewise; they stay 0 while the port is in word mode (R461). -/
def State.driveOe (s : State) (p e : Nat) (mask vals : BitVec 4) : State :=
  if !s.pinMode p then s else
  let own := (upto 4).foldl (fun (m : BitVec 4) k => setBit m k (s.pinOwner p k = e)) 0
  s.modPort p (fun q => { q with pinOe := (q.pinOe &&& ~~~(mask &&& own)) ||| (vals &&& mask &&& own) })

/-- LINK is written (R137); the tick's observation of R95. -/
def State.writeLink (s : State) (p : Nat) (v : Bool) : State :=
  s.modPort p (fun q => { q with link := v, obs := { q.obs with link := q.obs.link || !v } })

/-- What engine e writes in place of the engine that wrote the same field in this cycle: nothing when that one is higher; otherwise the
value of the lower one never lands, and the field is put back first (R110). -/
def State.landsOver (s : State) (e : Nat) (was : Option Nat) (undo write : State → State) : State :=
  match was with
  | none => write s
  | some e' => if e < e' then s else write (undo s)

/-- Engine e writes EGH (R78, R110, R137). -/
def State.engEgh (s : State) (p e : Nat) (v : BitVec 8) : State :=
  match (s.port p).cyc with
  | none => s.writeHold p v
  | some c =>
    (s.landsOver e c.holdBy
      (fun s => s.modPort p (fun q => { q with hold := c.seen.hold, holdAt := c.seen.holdAt, holdIgn := c.seen.holdIgn }))
      (fun s => s.writeHold p v)).modPort p (fun q => { q with cyc := some { c with holdBy := some (max e (c.holdBy.getD 0)) } })

/-- Engine e writes LINK (R95, R110, R137). -/
def State.engLink (s : State) (p e : Nat) (v : Bool) : State :=
  match (s.port p).cyc with
  | none => s.writeLink p v
  | some c =>
    (s.landsOver e c.linkBy
      (fun s => s.modPort p (fun q => { q with link := c.seen.link, obs := { q.obs with link := c.seen.linkObs } }))
      (fun s => s.writeLink p v)).modPort p (fun q => { q with cyc := some { c with linkBy := some (max e (c.linkBy.getD 0)) } })

/-- A TRKW or TRKA write: the word leaves for the trunk with ITS at the frame's first write, and with the mark that the trunk admits a frame
that it opens; a TRKA word with a K symbol also ends the frame (R131, R133 to R135). Model's choice, log entry 123: a write that the trunk
discards opens the frame at the port all the same and clears FRESH. -/
def State.trkWrite (s : State) (p e : Nat) (v : Word) (auto : Bool) : State :=
  let x := s.eng p e
  let first := !(s.port p).inOpen
  let its := if first && x.fresh then x.tsc else s.stamp (6 + p / 32)
  let s := if first then s.modEng p e (fun y => { y with fresh := false }) else s
  let live := s.inService && (s.port p).st = .up
  let s := (s.push p (.ingress (.word v its live))).modPort p (fun q => { q with inOpen := true })
  if auto && lowK v < 8 then
    (s.push p (.ingress (.auto (BitVec.ofNat 3 (fld (s.ectl p e) 27 3))))).modPort p (fun q => { q with inOpen := false })
  else s

/-- A TRKE write: the end indication of the open frame, with SHR and BCNT for FIN (R132). Model's choice, log entry 91: with no frame
open it does nothing, also with FIN 1 and valid lanes in SHR. -/
def State.trkEnd (s : State) (p e : Nat) (v : BitVec 10) : State :=
  if !(s.port p).inOpen then s
  else
    let x := s.eng p e
    (s.push p (.ingress (.fin v x.shr x.bcnt))).modPort p (fun q => { q with inOpen := false })

/-- The value of a MOV source other than TRKR (R119). -/
def State.movRead (s : State) (p : Nat) (x : Engine) (code : Nat) (w : BitVec 24) : Word :=
  match code with
  | 1 => x.shr
  | 2 => x.x
  | 3 => x.cnta.setWidth 72
  | 4 => x.cntb.setWidth 72
  | 5 => wordOf x.bcnt
  | 6 => (s.port p).rxl
  | 0xC => (s.pinsSeen p).setWidth 72
  | 0xD => (s.cycleSeen p).pinOe.setWidth 72
  | 0xE => (s.cycleSeen p).hold.setWidth 72
  | 0xF => wordOf (b1 (s.cycleSeen p).link)
  | 0x10 => x.tsc
  | 0x11 => wordOf (fld w 0 10)
  | _ => 0

/-- The write of a MOV (R119). -/
def State.movWrite (s : State) (p e code : Nat) (v : Word) : State :=
  match code with
  | 1 => s.modEng p e (fun y => { y with shr := v })
  | 2 => s.modEng p e (fun y => { y with x := v })
  | 3 => s.modEng p e (fun y => y.setCounter 0 (fld v 0 16) false)
  | 4 => s.modEng p e (fun y => y.setCounter 1 (fld v 0 16) false)
  | 5 => s.modEng p e (fun y => y.setCounter 2 (fld v 0 7) false)
  | 7 => s.modPort p (fun q => { q with txl := some v })
  | 8 => s.trkWrite p e v false
  | 9 => s.trkWrite p e v true
  | 0xA => s.trkEnd p e (v.setWidth 10)
  | 0xC => s.drivePins p e 0xF (v.setWidth 4)
  | 0xD => s.driveOe p e 0xF (v.setWidth 4)
  | 0xE => s.engEgh p e (v.setWidth 8)
  | 0xF => s.engLink p e (bit v 0)
  | _ => s

/-! ## The instructions -/

/-- The PC after a MOV (R121). -/
def movNext (x : Engine) (w : BitVec 24) (v : Word) : Nat :=
  let k := lowK v < 8
  if fld w 10 5 = 0x11 then x.next
  else match fld w 8 2 with
    | 0 => x.next
    | 1 => fld w 0 6
    | 2 => if k then fld w 0 6 else x.next
    | _ => if k then x.next else fld w 0 6

/-- MOV: it repeats while TXL is full or no copy word is staged (R121, R130). -/
def engMov (p e : Nat) (x : Engine) (w : BitVec 24) (s : State) : EOut :=
  let d := fld w 15 5
  let src := fld w 10 5
  if d = 7 && (s.port p).txl.isSome then .hold s
  else if src = 0xB then
    match s.trkr p with
    | none => .hold s
    | some (v, s) => .go ((s.kFlags p e v).movWrite p e d v) (movNext x w v)
  else
    let v := s.movRead p x src w
    let s := if src = 6 then (s.consume p e).kFlags p e v else s
    .go (s.movWrite p e d v) (movNext x w v)

/-- The low n bits of v in reversed order. -/
def revNat (n v : Nat) : Nat := (upto n).foldl (fun acc i => acc * 2 + v / 2 ^ i % 2) 0

/-- One bit filled into SHR (R122). -/
def Engine.fill (x : Engine) (b : Bool) : Engine :=
  let pos := x.bcnt % 64
  let ln := pos / 8
  { x with shr := setBit (setBit x.shr (9 * ln + pos % 8) b) (9 * ln + 8) false, bcnt := pos + 1, b := b }

/-- New bits enter SHR, the lowest of `bits` first (R122). -/
def Engine.shiftIn (x : Engine) (mode n bits : Nat) : Engine :=
  match mode with
  | 0 => { x with shr := (x.shr >>> n) ||| wordOf (bits * 2 ^ (72 - n)), bcnt := min 72 (x.bcnt + n),
                  b := bits / 2 ^ (n - 1) % 2 = 1 }
  | 1 => { x with shr := (x.shr <<< n) ||| wordOf (revNat n bits), bcnt := min 72 (x.bcnt + n),
                  b := bits / 2 ^ (n - 1) % 2 = 1 }
  | _ => (upto n).foldl (fun x i => x.fill (bits / 2 ^ i % 2 = 1)) x

/-- SHIN (R122). -/
def engShin (p e : Nat) (x : Engine) (w : BitVec 24) (s : State) : EOut :=
  let n := fld w 10 4
  let mode := fld w 14 2
  match fld w 18 2 with
  | 0 => .go (s.modEng p e (fun y => y.shiftIn mode 1 (b1 (bit (s.pinsSeen p) (fld w 16 2))))) x.next
  | 1 =>
    let v := (s.port p).rxl
    let s := (s.consume p e).kFlags p e v
    .go (s.modEng p e (fun y => y.shiftIn mode (9 * n) (fld v 0 (9 * n)))) x.next
  | _ => .go (s.modEng p e (fun y => y.shiftIn mode n (fld x.x 0 n))) x.next

/-- Bits leave SHR (R123). -/
def Engine.shiftOut (x : Engine) (mode n : Nat) : Engine :=
  { x with shr := if mode = 0 then x.shr >>> n else x.shr <<< n, bcnt := x.bcnt - n }

/-- The n bits that leave SHR, as a number whose bit 0 leaves first. -/
def Engine.outBits (x : Engine) (mode n : Nat) : Nat :=
  if mode = 0 then fld x.shr 0 n else revNat n (fld x.shr (72 - n) n)

/-- SHOUT (R123, R130). -/
def engShout (p e : Nat) (x : Engine) (w : BitVec 24) (s : State) : EOut :=
  let n := fld w 10 4
  let mode := fld w 14 2
  match fld w 18 2 with
  | 0 =>
    let k := fld w 16 2
    let v : BitVec 4 := BitVec.ofNat 4 (x.outBits mode 1 * 2 ^ k)
    .go ((s.drivePins p e (BitVec.ofNat 4 (2 ^ k)) v).modEng p e (fun y => y.shiftOut mode 1)) x.next
  | 1 =>
    if (s.port p).txl.isSome then .hold s
    else
      let lanes := (upto 8).map (fun i => if i < n then lane x.shr i else 0x107)
      .go ((s.modPort p (fun q => { q with txl := some (ofLanes lanes) })).modEng p e (fun y => y.shiftOut 0 (9 * n))) x.next
  | _ =>
    let out := revNat n (x.outBits mode n)
    .go (s.modEng p e (fun y => { y.shiftOut mode n with x := (x.x <<< n) ||| wordOf out })) x.next

/-- WAIT (R124, R130): KIND 4 consumes every word that it examines. -/
def engWait (p e : Nat) (x : Engine) (w : BitVec 24) (s : State) : EOut :=
  let q := s.port p
  let inv := bit w 16
  let sel := fld w 14 2
  let pass (c : Bool) (s' : State) : EOut := if c then .go s' x.next else .hold s
  match fld w 17 3 with
  | 0 => pass (bit (s.pinsSeen p) sel != inv) s
  | 1 => pass (bit x.rise sel) (s.modEng p e (fun y => { y with rise := setBit y.rise sel false }))
  | 2 => pass (bit x.fall sel) (s.modEng p e (fun y => { y with fall := setBit y.fall sel false }))
  | 3 => pass x.new s
  | 4 =>
    if !x.new then .hold s
    else
      let s := s.consume p e
      if lane q.rxl (fld w 9 3) = w.extractLsb' 0 9 then
        .go (s.modEng p e (fun y => { y with tsc := q.rxt, fresh := true })) x.next
      else .hold s
  | 5 => pass ((x.counter sel = 0) != inv) s
  | 6 => pass (s.cycleSeen p).cav s
  | _ => pass (x.pullf != inv) s

/-- The condition of a JMP (R125). -/
def State.jmpHolds (s : State) (p : Nat) (x : Engine) (cond sel : Nat) : Bool :=
  match cond with
  | 0 => true
  | 1 => bit (s.pinsSeen p) sel
  | 2 => !bit (s.pinsSeen p) sel
  | 3 => x.counter sel = 0
  | 4 => x.counter sel ≠ 0
  | 5 => x.b
  | 6 => !x.b
  | 7 => x.kf
  | 8 => !x.kf
  | 9 => x.new
  | 0xA => (s.cycleSeen p).cav
  | 0xB => (s.cycleSeen p).eoc
  | 0xC => x.pullf
  | 0xD => !x.pushf
  | 0xE => x.bcnt = 64
  | _ => (s.cycleSeen p).st = .up

/-- JMP (R125). -/
def engJmp (p : Nat) (x : Engine) (w : BitVec 24) (s : State) : EOut :=
  .go s (if s.jmpHolds p x (fld w 16 4) (fld w 14 2) then fld w 0 6 else x.next)

/-- SETP (R126). -/
def engSetp (p e : Nat) (x : Engine) (w : BitVec 24) (s : State) : EOut :=
  .go ((s.drivePins p e (w.extractLsb' 16 4) (w.extractLsb' 12 4)).driveOe p e (w.extractLsb' 8 4) (w.extractLsb' 4 4)) x.next

/-- PUSH (R127, R140). -/
def engPush (p e : Nat) (x : Engine) (w : BitVec 24) (s : State) : EOut :=
  if x.pushf && bit w 17 then .hold s
  else
    let s := if x.pushf then s.orReg (aEngine p e + 8) 0x800000 else s
    let v := match fld w 18 2 with
      | 0 => x.shr
      | 1 => x.x
      | 2 => wordOf (x.cntb.toNat * 65536 + x.cnta.toNat)
      | _ => x.tsc
    let s := s.modEng p e (fun y =>
      let y := { y with pushq := v, pushf := true }
      if bit w 15 then { y with shr := 0, bcnt := 0 } else y)
    let sig := s.reg (aEngine p e + 0x58)
    let s := if bit w 16 && bit sig 31 then
        s.push (152 + fld sig 15 3) (.signal (BitVec.ofNat 12 (fld sig 6 12)) (BitVec.ofNat 3 (fld sig 0 3)))
      else s
    .go s x.next

/-- PULL (R127). -/
def engPull (p e : Nat) (x : Engine) (w : BitVec 24) (s : State) : EOut :=
  if !x.pullf then (if bit w 17 then .hold s else .go s x.next)
  else
    .go (s.modEng p e (fun y =>
      let y := { y with pullf := false }
      match fld w 18 2 with
      | 0 => { y with shr := x.pullq }
      | 1 => { y with x := x.pullq }
      | 2 => y.setCounter 0 (fld x.pullq 0 16) false
      | _ => y.setCounter 1 (fld x.pullq 0 16) false)) x.next

/-- CNT (R128). -/
def engCnt (p e : Nat) (x : Engine) (w : BitVec 24) (s : State) : EOut :=
  let sel := fld w 18 2
  let imm := fld w 0 16
  let cur := x.counter sel
  let v := match fld w 16 2 with
    | 1 => cur - imm
    | 2 => min (cur + imm) 0xFFFF
    | _ => imm
  .go (s.modEng p e (fun y => y.setCounter sel v (fld w 16 2 = 3))) x.next

/-- MARK (R129). -/
def engMark (p e : Nat) (x : Engine) (w : BitVec 24) (s : State) : EOut :=
  let v := match fld w 18 2 with
    | 0 => s.stamp (6 + p / 32)
    | 1 => x.rxw
    | _ => mget 0 (s.port p).pinT (fld w 16 2)
  .go (s.modEng p e (fun y => { y with tsc := v, fresh := true })) x.next

/-! ## Words and edges from outside -/

/-- A word is presented on the receive lanes: it is in RXL, NEW of every engine is set, and an overrun of the INE engine shows in
RXOVR (R113, R459). -/
def State.rxWord (s : State) (p : Nat) (w : Word) : State :=
  if !s.portOn p || s.pinMode p then s
  else
    let ine := s.ine p
    let x := s.eng p ine
    let s := if x.new && x.st ≠ .halted then s.orReg (aEngine p ine + 8) 0x1000000 else s
    let s := s.modPort p (fun q => { q with rxl := w, rxt := s.stamp (6 + p / 32) })
    (upto 4).foldl (fun s e => s.modEng p e (fun y => { y with new := true })) s

/-- A timer capture input sees an edge: the channel's capture is due (R382); the sampling time matters to SRC 3. -/
def State.captureEdge (s : State) (g k : Nat) (e : Edge) (rising : Bool) : State :=
  let cfg := s.reg (aTimers g + 0x40 * k + 4)
  let sel := match fld cfg 29 2 with | 0 => rising | 1 => !rising | _ => true
  if bit cfg 31 && sel then s.setTimer g k { s.timer g k with edges := (s.timer g k).edges ++ [e] } else s

/-- The pad level of an input pin changes (R115): the level seen, its sampling time, the latches, and the timer channels that
capture the pin. A port in word mode has no pins, and one that is not ON sees no edge (R415): only the level is followed. -/
def State.pinEdge (s : State) (p k : Nat) (level : Bool) : State :=
  if bit (s.port p).pinIn k = level then s
  else if !s.portOn p then s.modPort p (fun q => { q with pinIn := setBit q.pinIn k level })
  else
    let s := s.modPort p (fun q => { q with pinIn := setBit q.pinIn k level, pinT := mput 0 q.pinT k (s.stamp (6 + p / 32)) })
    if !s.pinMode p then s
    else
      let s := (upto 4).foldl (fun (s : State) e =>
        let x := s.eng p e
        let was := if level then bit x.rise k else bit x.fall k
        let s := if was then s.orReg (aEngine p e + 8) 0x200000 else s
        s.modEng p e (fun y => if level then { y with rise := setBit y.rise k true } else { y with fall := setBit y.fall k true })) s
      (upto 8).foldl (fun s g => (upto 32).foldl (fun (s : State) c =>
        let cfg := s.reg (aTimers g + 0x40 * c + 4)
        if s.groveOn g && bit cfg 28 && fld cfg 21 7 = p && fld cfg 19 2 = k then s.captureEdge g c (.pin (s.btns (6 + p / 32))) level else s) s) s

/-! ## Register writes -/

/-- HALT: REQ halts the engine, FLUSH clears a halted one or one that REQ halts; FLUSH alone to a running engine is refused
(R141). -/
def State.engHalt (s : State) (p e : Nat) (d : BitVec 32) : State :=
  let x := s.eng p e
  if bit d 0 then s.setEng p e (if bit d 1 then { x.flush with st := .halted } else { x with st := .halted })
  else if !bit d 1 then s
  else if x.st = .halted then s.setEng p e x.flush
  else s.orReg (aEngine p e + 8) 0x2000000

/-- ECTL: RUN resumes a halted engine without ERR whose PC is in range; START, LO and HI change only while it is halted, and
otherwise a change sets WRERR (R141, R142, R148). Model's choice, log entry 124: a write that sets RUN and changes LO or HI is judged by
the range that it writes. -/
def State.writeEctl (s : State) (p e : Nat) (d : BitVec 32) : State :=
  let a := aEngine p e
  let old := s.reg a
  let halted := (s.eng p e).st = .halted
  let s := s.setReg a ((if halted then d else setFld d 6 18 (fld old 6 18)) &&& 0x78FFFFC0)
  let s := if !halted && fld d 6 18 ≠ fld old 6 18 then s.orReg (a + 8) 0x2000000 else s
  if bit d 31 && halted && !bit (s.reg (a + 8)) 29 && s.pcOk p e (s.eng p e).pc.toNat then
    s.modEng p e (fun y => { y with st := .running })
  else s

/-- ESTAT: the W1C bits; PC and BCNT while halted, else a change sets WRERR (R139, R148). Model's choice, log entry 90: a BCNT of 73 to
127, outside the counter's range (R117), loads 72, as a MOV and a CNT LOAD do. Model's choice, log entry 125: ERRCODE keeps the code of
the last error halt, also after ERR is cleared and after a start. -/
def State.writeEstat (s : State) (p e : Nat) (d : BitVec 32) : State :=
  let a := aEngine p e + 8
  let x := s.eng p e
  let s := s.setReg a (s.reg a &&& ~~~(d &&& 0x27E00000))
  if x.st = .halted then s.setEng p e { x with pc := d.extractLsb' 0 6, bcnt := min 72 (fld d 6 7) }
  else if fld d 0 6 ≠ x.pc.toNat || fld d 6 7 ≠ x.bcnt then s.orReg a 0x2000000
  else s

/-- CNT: both counters as plain values, while halted (R128, R139). -/
def State.writeEngCnt (s : State) (p e : Nat) (d : BitVec 32) : State :=
  let x := s.eng p e
  if x.st ≠ .halted then s.orReg (aEngine p e + 8) 0x2000000
  else s.setEng p e { x with cnta := d.extractLsb' 0 16, cntb := d.extractLsb' 16 16, ticka := false, tickb := false }

/-- SHR, while halted (R139). -/
def State.writeShr (s : State) (p e : Nat) (w : Word) : State :=
  let x := s.eng p e
  if x.st ≠ .halted then s.orReg (aEngine p e + 8) 0x2000000 else s.setEng p e { x with shr := w }

/-- X, while halted (R139). -/
def State.writeX (s : State) (p e : Nat) (w : Word) : State :=
  let x := s.eng p e
  if x.st ≠ .halted then s.orReg (aEngine p e + 8) 0x2000000 else s.setEng p e { x with x := w }

/-- PULLQ: it lands when PULLF is 0, else PLOVR (R139). -/
def State.writePullq (s : State) (p e : Nat) (w : Word) : State :=
  let x := s.eng p e
  if x.pullf then s.orReg (aEngine p e + 8) 0x400000 else s.setEng p e { x with pullq := w, pullf := true }

/-- A read of PUSHQ clears PUSHF (R138, R148). -/
def State.readPushq (s : State) (p e : Nat) : State := s.modEng p e (fun y => { y with pushf := false })

/-- A program store word: refused while an engine that is not halted has it in its range (R143). -/
def State.writeEngStore (s : State) (p w : Nat) (d : BitVec 32) : State :=
  let bad := (upto 4).filter (fun e => (s.eng p e).st ≠ .halted && s.engLo p e ≤ w && w ≤ s.engHi p e)
  if bad = [] then s.modPort p (fun q => { q with store := mput 0 q.store w (d.setWidth 24) })
  else bad.foldl (fun s e => s.orReg (aEngine p e + 8) 0x4000000) s

/-- The enabled ring of port p whose pair a MODE and a RATE of that port would break (R89). -/
def State.breaksRing (s : State) (p : Nat) (mode : Bool) (rate : Nat) : Option Nat :=
  (upto 16).find? (fun r =>
    let other := if s.portA r = p then s.portB r else s.portA r
    s.ringEn r && (s.portA r = p || s.portB r = p) && (mode || rate ≠ fld (s.pecfg other) 28 3))

/-- PECFG: the endpoints at once; MODE and RATE only while the port is OFF, RATE 5 to 7 ignored (R112, R116, R147). On a port without
pads a write that selects pin mode is ignored (R7); so is, with RINGSTAT.CFGERR, one whose new MODE or RATE would break the pair of an
enabled ring, but not when the image makes it (R89; log entry 88). The lanes carry nothing in pin mode, and the enables are 0 in word
mode (R460, R461). -/
def State.writePecfg (s : State) (p : Nat) (d : BitVec 32) (image : Bool) : State :=
  let a := aIsland p + 0x400 * (p % 32) + 0xC0
  let old := s.reg a
  if bit d 31 && !bit s.ties.pinpads p then s
  else
    let off := (s.port p).st = .off
    let mode := if off then bit d 31 else bit old 31
    let rate := if off && fld d 28 3 ≤ 4 then fld d 28 3 else fld old 28 3
    let same := mode = bit old 31 && rate = fld old 28 3
    match if image || same then none else s.breaksRing p mode rate with
    | some r => s.orReg (aRing r + 0x14) 0x4000000
    | none =>
      (s.setReg a (setFld (setBit (d &&& 0x0FFFC000) 31 mode) 28 3 rate)).modPort p (fun q =>
        if mode then { q with ptxv := false } else { q with pinOe := 0 })

/-! ## One meaning for each command -/

def execRxWord (p : Fin 128) (w : Word) (s : State) : Host.Outcome State Fault Refusal := .next (s.rxWord p.val w)
def execPinEdge (p : Fin 128) (pin : Fin 4) (level : Bool) (s : State) : Host.Outcome State Fault Refusal :=
  .next (s.pinEdge p.val pin.val level)
def execEngineMov (p : Fin 128) (e : Fin 4) (s : State) : Host.Outcome State Fault Refusal :=
  .next (s.runEngine p.val e.val .mov (engMov p.val e.val))
def execShin (p : Fin 128) (e : Fin 4) (s : State) : Host.Outcome State Fault Refusal :=
  .next (s.runEngine p.val e.val .shin (engShin p.val e.val))
def execShout (p : Fin 128) (e : Fin 4) (s : State) : Host.Outcome State Fault Refusal :=
  .next (s.runEngine p.val e.val .shout (engShout p.val e.val))
def execWait (p : Fin 128) (e : Fin 4) (s : State) : Host.Outcome State Fault Refusal :=
  .next (s.runEngine p.val e.val .wait (engWait p.val e.val))
def execJmp (p : Fin 128) (e : Fin 4) (s : State) : Host.Outcome State Fault Refusal :=
  .next (s.runEngine p.val e.val .jmp (engJmp p.val))
def execSetp (p : Fin 128) (e : Fin 4) (s : State) : Host.Outcome State Fault Refusal :=
  .next (s.runEngine p.val e.val .setp (engSetp p.val e.val))
def execEnginePush (p : Fin 128) (e : Fin 4) (s : State) : Host.Outcome State Fault Refusal :=
  .next (s.runEngine p.val e.val .push (engPush p.val e.val))
def execPull (p : Fin 128) (e : Fin 4) (s : State) : Host.Outcome State Fault Refusal :=
  .next (s.runEngine p.val e.val .pull (engPull p.val e.val))
def execCnt (p : Fin 128) (e : Fin 4) (s : State) : Host.Outcome State Fault Refusal :=
  .next (s.runEngine p.val e.val .cnt (engCnt p.val e.val))
def execMark (p : Fin 128) (e : Fin 4) (s : State) : Host.Outcome State Fault Refusal :=
  .next (s.runEngine p.val e.val .mark (engMark p.val e.val))

/-- ENGINE_RESERVED_FETCH: the engine halts with ERRCODE 1, the PC at the word (R118). The engine does not run in that cycle, so a TICK counter
stays (R128; log entry 112). -/
def execEngineReservedFetch (p : Fin 128) (e : Fin 4) (s : State) : Host.Outcome State Fault Refusal :=
  .next (if s.portOn p.val && (s.eng p.val e.val).st ≠ .halted && (engDecode (s.engFetch p.val e.val)).isNone then
    s.engError p.val e.val 1 else s)

/-- ENGINE_SIGNAL: a signal reaches its grove and sets the interrupt line; a grove that is not ON discards it (R140, R265,
R415). -/
def execEngineSignal (g : Fin 8) (s : State) : Host.Outcome State Fault Refusal :=
  .next (match s.peekLink (152 + g.val) with
    | some (.signal th line) =>
      let on := s.groveOpen g.val
      let s := s.popLink (152 + g.val)
      if on then s.setLine th.toNat line.toNat false else s
    | _ => s)

end Sys2Proof.Machine
end

