-- ==== Sys2Proof/Machine/GroveOps.lean ====
section
/-!
DEFINITION. Grove memory, the DMA engine, the lock unit's registers and the stall census (R289 to R319).
-/
namespace Sys2Proof.Machine

/-! ## Ownership -/

/-- Port B of the bank port. -/
def isPortB (bp : Nat) : Bool := bp ≥ 32

/-- Owner KIND of a bank port. -/
def State.ownerKind (s : State) (g bp : Nat) : Nat := fld (s.bown g bp) 29 2

/-- The bank ports of bank b. -/
def portsOf (b : Nat) : List Nat := if b ≥ 30 then [b, b + 2] else [b]

/-- The owner that a BOWN value names: its KIND, and the core of KIND 1 (R290, R316). -/
def ownerOf (d : BitVec 32) : Nat × Nat := (fld d 29 2, if fld d 29 2 = 1 then fld d 24 5 else 0)

/-- The DMA engine may reach this port of a powered bank (R290, R295). -/
def State.dmaMay (s : State) (g bp : Nat) : Bool :=
  s.bankOn g (bankOf bp) &&
    (s.ownerKind g bp = 2 || ((s.ownerKind g bp = 1 || s.ownerKind g bp = 3) && bit (s.bown g bp) 23))

/-- The port through which the DMA engine reaches bank b. -/
def State.dmaPort (s : State) (g b : Nat) : Option Nat := (portsOf b).find? (fun bp => s.dmaMay g bp)

/-- Address i of a channel's source or destination. -/
def dmaAddr (a : BitVec 40) (i : Nat) : Nat := a.toNat + i

/-- The word of the copy that channel k works on. -/
def Dma.index (d : Dma) : Nat := d.cnt.toNat - d.left

/-- The stores of a thread that have passed their check: in its buffer, before a full buffer, and a BMOV word that waits for its source
(R164, R229). -/
def Thread.stores (t : Thread) : List SbEntry :=
  t.sb ++ (t.pendSt.map (·.1)).toList ++
    (match t.outst with
      | some o => match o.dest with | .copy e _ => if t.wait = .load then [e] else [] | _ => []
      | none => [])

/-- Stores of cores that do not own the port are still to be written: they passed their check under its old owner (R164, R292). -/
def State.oldStores (s : State) (g bp : Nat) : Bool :=
  s.threads.any (fun e => thG e.1 = g && e.1 < 4096 && !s.coreOwns g (thC e.1) bp && e.2.stores.any (fun x =>
    match x.phys with | some (p, b) => p / 4096 = bankOf bp && b = isPortB bp | none => false))

/-- A DMA channel has presented a write at the port, which waits for the end of a clear (R292, R296). -/
def State.dmaHeld (s : State) (g bp : Nat) : Bool :=
  (upto 8).any (fun k => (s.dma g k).busy && (s.dma g k).pres = some bp)

/-- BWADDR of a grove. -/
def aBw (g : Nat) : Nat := aBanks g + 0x210

/-- The bank port that the host window selects. -/
def State.bwPort (s : State) (g : Nat) : Nat :=
  fld (s.reg (aBw g)) 12 5 + if bit (s.reg (aBw g)) 17 then 2 else 0

/-- An access through the host window of grove g has begun and waits. -/
def State.bwQueued (s : State) (g : Nat) : Bool :=
  (match s.mgmt.waiting with
    | x :: _ => x.addr.toNat = if x.wr.isSome then aBw g + 0xC else aBw g + 4
    | [] => false) ||
  s.mgmt.owed.any (fun o => match o.wr with | some (a, _) => a.toNat = aBw g + 0xC | none => false)

/-- Accesses of the port's old owner are outstanding: stores, a DMA word, a window access of the host (R292). Reads of a core and
atomics take effect in one command. -/
def State.portBusy (s : State) (g bp : Nat) : Bool :=
  s.oldStores g bp || s.dmaHeld g bp || ((s.grove g).bwHeld = some bp && s.bwQueued g)

/-- The DMA engine loses the port: a word of its channels bound for it whose data are still on the way is not written (R293). -/
def State.dmaLoses (s : State) (g bp : Nat) : State :=
  (upto 8).foldl (fun s k =>
    let d := s.dma g k
    if d.busy && d.ext && d.data.isNone && dmaAddr d.dst d.index < 0x20000 && dmaAddr d.dst d.index / 4096 = bankOf bp then
      s.setDma g k { d with lost := true }
    else s) s

/-- Refuse a BOWN write or a window access (R291, R295, R317). -/
def State.bownErr (s : State) (g b : Nat) : State := s.orReg (aBanks g + 0x100 + 4 * b) 2

/-- Threads that wait on a bank port execute again (R292, R296, R507). -/
def State.wakeBank (s : State) (g bp : Nat) : State :=
  (s.threadsOf g (fun t => t.wait = .bank bp)).foldl (fun s th => s.modThread th (fun t => { t with wait := .ready })) s

/-- The source may write this BOWN (R291). -/
def State.bownSource (s : State) (g bp : Nat) (src : Src) : Bool :=
  match src with
  | .thread th => th.toNat = s.recovery g || s.coreOwns g (thC th.toNat) bp || s.ownerKind g bp = 0
  | _ => true

/-- The write would give one core both ports of a dual-port bank (R290). -/
def State.bothPorts (s : State) (g bp : Nat) (d : BitVec 32) : Bool :=
  let b := bankOf bp
  b ≥ 30 && fld d 29 2 = 1 &&
    (let other := if isPortB bp then b else b + 2
     s.coreOwns g (fld d 24 5) other)

/-- A powered-off bank keeps no data (R295). -/
def State.eraseBank (s : State) (g b : Nat) : State :=
  s.modGrove g (fun v => { v with
    scratch := mclear v.scratch (b * 4096) (b * 4096 + 4096), secc := mclear v.secc (b * 4096) (b * 4096 + 4096),
    wback := v.wback.filter (fun p => p / 4096 ≠ b) })

/-- A BOWN write is refused (R290, R291, R295). -/
def State.bownRefused (s : State) (g bp : Nat) (d : BitVec 32) (src : Src) : Bool :=
  let b := bankOf bp
  let pwr := if isPortB bp then s.bankOn g b else bit d 31
  !s.bownSource g bp src || (s.grove g).bpend.contains bp || s.bothPorts g bp d ||
    (!pwr && fld d 29 2 ≠ 0) ||
    (!isPortB bp && !bit d 31 && s.bankOn g b &&
      !(portsOf b).all (fun q => s.ownerKind g q = 0 && !(s.grove g).bpend.contains q))

/-- BOWN_WRITE: a new owner, power or DMAOK, or BOWNERR (R291 to R296). -/
def State.writeBown (s : State) (g bp : Nat) (d : BitVec 32) (src : Src) : State :=
  let b := bankOf bp
  if s.bownRefused g bp d src then s.bownErr g b
  else
    let old := s.bown g bp
    let wasOn := s.bankOn g b
    let changed := ownerOf old ≠ ownerOf d
    let window := changed && fld old 29 2 = 3 && s.bwPort g = bp && s.bwQueued g
    let dmaOut := s.dmaMay g bp
    let mine := s.dmaPort g b = some bp
    let s := s.setReg (aBanks g + 4 * bp) (d &&& (if isPortB bp then 0x7F800000 else 0xFF800000))
    let dmaLost := dmaOut && (!s.dmaMay g bp || (changed && fld old 29 2 = 2))
    let s := if dmaLost && mine then s.dmaLoses g bp else s
    let s := if window then s.modGrove g (fun v => { v with bwHeld := some bp }) else s
    let s := if (changed && s.oldStores g bp) || (dmaLost && s.dmaHeld g bp) || window then
        s.modGrove g (fun v => { v with bpend := v.bpend ++ [bp] }) else s
    if isPortB bp then s
    else if bit d 31 && !wasOn then s.modGrove g (fun v => { v with bclr := mins v.bclr b v.cyc })
    else if !bit d 31 && wasOn then
      let s := (s.eraseBank g b).modGrove g (fun v => { v with bclr := mdel v.bclr b })
      (portsOf b).foldl (fun s q => s.wakeBank g q) s
    else s

/-- The BOWN item of an image sets its fields directly; one that the host could not write, such as an owner without PWR, is refused
(R290, R295, R296, R435). -/
def State.imageBown (s : State) (g bp : Nat) (d : BitVec 32) : State :=
  if s.bownRefused g bp d .mgmt then s.bownErr g (bankOf bp)
  else s.setReg (aBanks g + 4 * bp) (d &&& (if isPortB bp then 0x7F800000 else 0xFF800000))

/-! ## The host bank window -/

/-- Port B is selected for a bank without one (R317). -/
def State.bwBad (s : State) (g : Nat) : Bool := bit (s.reg (aBw g)) 17 && fld (s.reg (aBw g)) 12 5 < 30

/-- BWADDR counts on with INC 1 (R317). -/
def State.bwInc (s : State) (g : Nat) : State :=
  let a := s.reg (aBw g)
  if bit a 31 then s.setReg (aBw g) (setFld a 0 17 (fld a 0 17 + 1)) else s

/-- The word that BWADDR selects, as it stands. -/
def State.bwWord (s : State) (g : Nat) : Word :=
  if s.bwBad g || !s.bankOn g (fld (s.reg (aBw g)) 12 5) then 0 else mget 0 (s.grove g).scratch (fld (s.reg (aBw g)) 0 17)

/-- An access through the window must wait: the bank is being cleared, or the port is still in handover to the host (R292, R296). -/
def State.bwWaits (s : State) (g : Nat) : Bool :=
  let bp := s.bwPort g
  !s.bwBad g && ((mfind (s.grove g).bclr (fld (s.reg (aBw g)) 12 5)).isSome ||
    (s.ownerKind g bp = 3 && (s.grove g).bpend.contains bp && (s.grove g).bwHeld ≠ some bp))

/-- The window access that a handover waited for has been made. -/
def State.bwDone (s : State) (g : Nat) : State := s.modGrove g (fun v => { v with bwHeld := none })

/-- A read of BWDATA0: the selected word with its ECC treatment, ERR, and the increment; or the refusal of R317. -/
def State.bwRead (s : State) (g : Nat) : State × Word :=
  let a := fld (s.reg (aBw g)) 0 17
  let aErr := aBw g + 0xC
  if s.bwBad g then ((s.setReg aErr 0).bownErr g (a / 4096), 0)
  else if !s.bankOn g (a / 4096) then ((s.setReg aErr 0).bwInc g, 0)
  else
    let r := (s.bwDone g).readSpad g a
    (((r.1.setReg aErr (if r.2.2 then 0x100 else 0))).bwInc g, r.2.1)

/-- A write of BWDATA2 commits the staged word when the host owns the selected port of a powered bank, or owned it when the write began
to wait (R292, R295, R317). -/
def State.bwCommit (s : State) (g : Nat) (d : BitVec 32) : State :=
  let a := fld (s.reg (aBw g)) 0 17
  let bp := s.bwPort g
  let may := (s.ownerKind g bp = 3 && s.bankOn g (a / 4096)) || (s.grove g).bwHeld = some bp
  if s.bwBad g || !may then s.bownErr g (a / 4096)
  else
    let w := wordOf ((mget 0 s.stag (aBw g + 4)).toNat + (mget 0 s.stag (aBw g + 8)).toNat * 2 ^ 32 + fld d 0 8 * 2 ^ 64)
    ((s.bwDone g).writePort g a (isPortB bp) w 0xFF).bwInc g

/-! ## DMA -/

/-- An address of a copy is allowed: scratchpad, or external memory below MEMTOP (R299, R397). -/
def State.dmaOk (s : State) (a : Nat) : Bool := a < 0x20000 || (2 ^ 39 ≤ a && a < 2 ^ 40 && s.memOk (a - 2 ^ 39))

/-- DSTAT of a channel, where DONE and DERR stick. -/
def aDstat (g k : Nat) : Nat := aDma g + 0x40 * k + 0x18

/-- The channel stops with an error (R301). -/
def State.dmaStop (s : State) (g k code : Nat) : State :=
  let q := { s.dma g k with busy := false, stop := false, data := none, pres := none, lost := false, ext := false }
  (s.setDma g k { q with code := BitVec.ofNat 3 code }).orReg
    (aDstat g k) 0x20000000

/-- DCTL with GO 1 (R299). -/
def State.dmaStart (s : State) (g k : Nat) : State :=
  let d := s.dma g k
  let n := d.cnt.toNat
  if d.busy then s
  else if n = 0 || !(s.dmaOk d.src.toNat && s.dmaOk (d.src.toNat + n - 1) && s.dmaOk d.dst.toNat &&
      s.dmaOk (d.dst.toNat + n - 1)) then
    (s.setDma g k { d with code := 4 }).orReg (aDstat g k) 0x20000000
  else (s.setDma g k { d with
    busy := true, left := n, stop := false, data := none, pres := none, lost := false, ext := false }).setStall g {}

/-- DCTL with STOP 1: after the word in progress (R301). -/
def State.dmaStopReq (s : State) (g k : Nat) : State :=
  let d := s.dma g k
  if !d.busy then s
  else if d.data.isSome || d.ext then s.setDma g k { d with stop := true }
  else s.dmaStop g k 5

/-- The word in progress has been written or accepted: the copy goes on, ends, or stops (R300, R301). -/
def State.dmaNext (s : State) (g k : Nat) : State :=
  let d := s.dma g k
  let left := d.left - 1
  let s := s.setDma g k { d with left := left, data := none, pres := none, ext := false }
  if left = 0 then
    let s := (s.setDma g k { s.dma g k with busy := false, stop := false }).orReg (aDstat g k) 0x40000000
    if d.fen then s.setFlag g d.flag.toNat true else s
  else if d.stop then s.dmaStop g k 5
  else s

/-- The write half of a word whose data are at hand: it waits while the port's handover is pending or the bank is cleared, and is
written once it has been presented, whoever owns the port then (R292, R293, R296). -/
def State.dmaWrite (s : State) (g k : Nat) (w : Word) : State :=
  let d := s.dma g k
  let a := dmaAddr d.dst d.index
  if a ≥ 2 ^ 39 then
    if s.memRoom (a - 2 ^ 39) (2 + g) true then
      (s.setDma g k { d with ext := true, data := some w }).memSend
        { cls := 2 + g, write := true, ea := a - 2 ^ 39, mask := 0xFF, data := w, src := .dma g k, since := 0 }
    else s.setDma g k { d with data := some w }
  else
    let clr := (mfind (s.grove g).bclr (a / 4096)).isSome
    if d.lost then s.dmaStop g k 1
    else if clr && d.pres.isSome then s
    else match d.pres with
    | some bp => (s.writePort g a (isPortB bp) w 0xFF).dmaNext g k
    | none => match s.dmaPort g (a / 4096) with
      | none => s.dmaStop g k 1
      | some bp =>
        if (s.grove g).bpend.contains bp then s.setDma g k { d with data := some w }
        else if clr then s.setDma g k { d with data := some w, pres := some bp }
        else (s.writePort g a (isPortB bp) w 0xFF).dmaNext g k

/-- DMA_WORD: the next half-step of a busy channel: the read of a word, then its write (R299 to R301). -/
def State.dmaWord (s : State) (g k : Nat) : State :=
  let d := s.dma g k
  if !d.busy || d.ext then s
  else match d.data with
    | some w => s.dmaWrite g k w
    | none =>
      let a := dmaAddr d.src d.index
      if a ≥ 2 ^ 39 then
        if s.memRoom (a - 2 ^ 39) (2 + g) false then
          (s.setDma g k { d with ext := true }).memSend
            { cls := 2 + g, write := false, ea := a - 2 ^ 39, mask := 0xFF, data := 0, src := .dma g k, since := 0 }
        else s
      else
        match s.dmaPort g (a / 4096) with
        | none => s.dmaStop g k 1
        | some bp =>
          if (s.grove g).bpend.contains bp || (mfind (s.grove g).bclr (a / 4096)).isSome then s
          else
            let r := s.readSpad g a
            if r.2.2 then r.1.dmaStop g k 2 else r.1.dmaWrite g k r.2.1

/-- The next half-step of the channel would wait: its port's handover is pending, its bank is being cleared, or its class queue is
full. -/
def State.dmaBlocked (s : State) (g k : Nat) : Bool :=
  let d := s.dma g k
  let a := if d.data.isSome then dmaAddr d.dst d.index else dmaAddr d.src d.index
  if a ≥ 2 ^ 39 then !s.memRoom (a - 2 ^ 39) (2 + g) d.data.isSome
  else
    let clr := (mfind (s.grove g).bclr (a / 4096)).isSome
    if d.pres.isSome then clr
    else match s.dmaPort g (a / 4096) with
      | none => false
      | some bp => clr || (s.grove g).bpend.contains bp

/-- The channel that the engine serves next, in rotating order (R300). -/
def State.dmaNow (s : State) (g : Nat) : Option Nat :=
  (rotation 8 (s.grove g).dmaTurn).find? (fun k => (s.dma g k).busy && !(s.dma g k).ext && !s.dmaBlocked g k)

/-! ## The stall census -/

/-- The class of a thread in the census: some true waiting, some false active, none idle (R312). -/
def State.censusClass (s : State) (g : Nat) (t : Thread) : Option Bool :=
  if t.halted || t.held then none
  else match t.wait with
    | .parked | .parkedDone => none
    | .lock _ => some true
    | .event f => if bit (s.reg (aLocks g + 0x498 + 4 * (f / 32))) (f % 32) then none else some true
    | .chanR u | .chanW u => if s.chanWhalt g u then none else some true
    | _ => some false

/-- The grove is stalled (R313). -/
def State.isStalled (s : State) (g : Nat) : Bool :=
  let cls := (s.threads.filter (fun e => thG e.1 = g && e.1 < 4096)).map (fun e => s.censusClass g e.2)
  bit (s.reg (aLocks g + 0x4A8)) 31 && cls.contains (some true) && !cls.contains (some false) &&
    !(upto 8).any (fun k => (s.dma g k).busy)

/-- Follow the stall condition at the present cycle: when it began, and that it has ended (R313). -/
def State.watchStall (s : State) (g : Nat) : State :=
  let v := s.stall g
  s.setStall g (if s.isStalled g then { v with since := some (v.since.getD (s.grove g).cyc) } else {})

/-- What a waiting thread waits on, as CENSTH shows it: KIND and OBJ. -/
def censusObj : Wait → Nat × Nat
  | .lock u => (1, u)
  | .event f => (2, f)
  | .chanR u | .chanW u => (3, u)
  | _ => (0, 0)

/-- STALL_CENSUS: after WINDOW × 256 stalled cycles the census is taken and STALL is raised (R313). -/
def State.census (s : State) (g : Nat) : State :=
  let v := s.grove g
  let window := max 1 (fld (s.reg (aLocks g + 0x4A8)) 0 16) * 256
  match (s.stall g).since with
  | none => s
  | some t0 =>
    if (s.stall g).raised || !s.isStalled g || v.cyc < t0 + window then s
    else
      let ws := s.threadsOf g (fun t => s.censusClass g t = some true)
      let num (k : Nat) : Nat := (ws.filter (fun th => (censusObj (s.thread th).wait).1 = k)).length
      let low := ws.head?.getD 0
      let obj := censusObj (s.thread low).wait
      let stat := BitVec.ofNat 32 (num 1 * 2 ^ 21 + num 2 * 2 ^ 11 + num 3 * 2)
      let th := BitVec.ofNat 32 (obj.1 * 2 ^ 20 + obj.2 * 2 ^ 12 + low)
      let s := s.modGrove g (fun v => { v with nmiStall := true, censtat := stat, censth := th })
      ((s.setStall g { s.stall g with raised := true }).count (aLocks g + 0x4B8)).event (10 + g) 0x04 (g * 2 ^ 25)
        [wordOf (th.toNat * 2 ^ 32 + stat.toNat + 2 ^ 31)]

/-! ## One meaning for each event -/

/-- HANDOVER_COMPLETE: the last access of the old owner has completed (R292). -/
def execHandoverComplete (g : Fin 8) (bp : Fin 34) (s : State) : Host.Outcome State Fault Refusal :=
  .next (if s.groveOn g.val && (s.grove g.val).bpend.contains bp.val && !s.portBusy g.val bp.val then
      (s.modGrove g.val (fun v => { v with bpend := v.bpend.filter (· ≠ bp.val) })).wakeBank g.val bp.val
    else s)

/-- BANK_CLEAR_COMPLETE: 4,096 bank cycles after the wake the bank reads 0 and its waiters go on (R296). -/
def execBankClearComplete (g : Fin 8) (bank : Fin 32) (s : State) : Host.Outcome State Fault Refusal :=
  .next (match mfind (s.grove g.val).bclr bank.val with
    | some t0 =>
      if s.groveOn g.val && t0 + 4096 ≤ (s.grove g.val).cyc then
        let s := (s.eraseBank g.val bank.val).modGrove g.val (fun v => { v with bclr := mdel v.bclr bank.val })
        (portsOf bank.val).foldl (fun s bp => s.wakeBank g.val bp) s
      else s
    | none => s)

/-- ECC_WRITEBACK: the corrected word is written back in an idle cycle (R297). -/
def execEccWriteback (g : Fin 8) (word : BitVec 17) (s : State) : Host.Outcome State Fault Refusal :=
  .next (if s.groveOn g.val && (s.grove g.val).wback.contains word.toNat then
      s.modGrove g.val (fun v => { v with wback := v.wback.filter (· ≠ word.toNat), secc := mdel v.secc word.toNat })
    else s)

/-- SCRUB_READ: the scrubber reads the next word of a powered bank, once every INTV × 64 bank cycles (R298). -/
def execScrubRead (g : Fin 8) (bank : Fin 32) (s : State) : Host.Outcome State Fault Refusal :=
  let ctl := s.reg (aBanks g.val + 0x200)
  let v := s.grove g.val
  .next (if s.groveOn g.val && bit ctl 31 && s.bankOn g.val bank.val && (mfind v.bclr bank.val).isNone &&
        mget 0 v.scrubT bank.val ≤ v.cyc then
      let at_ := mget 0 v.scrubAt bank.val
      let s := (s.readSpad g.val (bank.val * 4096 + at_)).1
      s.modGrove g.val (fun v => { v with
        scrubAt := mput 0 v.scrubAt bank.val ((at_ + 1) % 4096)
        scrubT := mput 0 v.scrubT bank.val (v.cyc + max 1 (fld ctl 0 16) * 64) })
    else s)

/-- The scrubber of the instruction store reads its next word on a spare port, one every INTV × 64 grove cycles: a corrected word is
counted and written back, an uncorrectable one reported (R503). -/
def State.istoreScrub (s : State) (g : Nat) : State :=
  let ctl := s.reg (aBanks g + 0x200)
  let v := s.grove g
  if !bit ctl 31 || v.cyc < v.iscrubT then s
  else
    let s := s.modGrove g (fun v => { v with
      iscrubAt := (v.iscrubAt + 1) % 16384, iscrubT := v.cyc + max 1 (fld ctl 0 16) * 64 })
    match mget 0 v.iecc v.iscrubAt with
    | 0 => s
    | 1 => (s.modGrove g (fun v' => { v' with iecc := mdel v'.iecc v.iscrubAt })).count 0x48
    | _ => s.eccEvent (10 + g) 1 g v.iscrubAt

/-- DMA_WORD: a half-step of the channel whose turn it is (R300). -/
def execDmaWord (g : Fin 8) (k : Fin 8) (s : State) : Host.Outcome State Fault Refusal :=
  .next (if s.groveOn g.val && s.dmaNow g.val = some k.val then
      (s.modGrove g.val (fun v => { v with dmaTurn := k.val })).dmaWord g.val k.val
    else s)

/-- STALL_CENSUS (R313). -/
def execStallCensus (g : Fin 8) (s : State) : Host.Outcome State Fault Refusal :=
  .next (if s.groveOn g.val then s.census g.val else s)

end Sys2Proof.Machine
end

