-- ==== Sys2Proof/Machine/Lookup.lean ====
section
/-!
DEFINITION. The lookup engine (R320 to R355): tables, filters and the cache, lookups, the command slots, the sweeper, and the
registers of the engine. The slots of a table are held here; the words that the engine reads and writes in external memory
pass the memory ports as requests of class 0, and what a response does is in `probeAnswer`, `cmdRead`, `cmdWrote`.
-/
namespace Sys2Proof.Machine

/-! ## Tables -/

/-- TBLCFG.EN of table t; no table has a number above 63 (R320). -/
def State.tblEn (s : State) (t : Nat) : Bool := t < 64 && bit (s.reg (aTable t)) 31
/-- TBLBASE as the registers give it (R321). -/
def State.baseReg (s : State) (t : Nat) : Nat := (s.reg (aTable t + 4)).toNat + fld (s.reg (aTable t + 8)) 0 6 * 2 ^ 32
/-- TBLCFG and TBLBASE of table t; of a disabled one, as it stood (R352). -/
def State.tblShape (s : State) (t : Nat) : BitVec 32 × Nat :=
  let now := (s.reg (aTable t), s.baseReg t)
  if s.tblEn t then now else (mget {} s.lookup.tables t).was.getD now
/-- TBLCFG. -/
def State.tblCfg (s : State) (t : Nat) : BitVec 32 := (s.tblShape t).1
/-- TBLCFG.KIND: longest-prefix. -/
def State.tblLpm (s : State) (t : Nat) : Bool := bit (s.tblCfg t) 30
/-- TBLCFG.MODE (R333). -/
def State.tblMode (s : State) (t : Nat) : Nat := fld (s.tblCfg t) 28 2
/-- TBLCFG.SZ. -/
def State.tblSz (s : State) (t : Nat) : Nat := fld (s.tblCfg t) 20 6
/-- TBLBASE. -/
def State.tblBase (s : State) (t : Nat) : Nat := (s.tblShape t).2
/-- Positions of a table: its slots, then its stash (R321). -/
def State.tblPositions (s : State) (t : Nat) : Nat := 2 ^ s.tblSz t + 1024
/-- Table t. -/
def State.tbl (s : State) (t : Nat) : Table := mget {} s.lookup.tables t
def State.modLookup (s : State) (f : Lookup → Lookup) : State := { s with lookup := f s.lookup }
def State.setTbl (s : State) (t : Nat) (v : Table) : State :=
  s.modLookup (fun l => { l with tables := mput {} l.tables t v })
def State.modTbl (s : State) (t : Nat) (f : Table → Table) : State := s.setTbl t (f (s.tbl t))
/-- The entry at a position. -/
def State.entry (s : State) (t pos : Nat) : Option Entry := mfind (s.tbl t).slots pos
/-- Counter k of table t (R353): 0 LOOKUPS, 1 HITS, 2 INSERTS, 3 DELETES, 4 AGED, 5 INSFAIL, 6 RERUNS, 7 CMISS, 8 MEMERR. -/
def State.tblCount (s : State) (t k : Nat) : State := s.count (0xA2000 + 0x80 * t + 8 * k)
/-- The canopy tick, modulo 2^32. -/
def State.tick32 (s : State) : BitVec 32 := BitVec.ofNat 32 s.tickNow

/-- E3 of an entry (R324). -/
def Entry.e3 (e : Entry) : Word :=
  wordOf (2 ^ 71 + b1 e.static * 2 ^ 70 + e.plen * 2 ^ 62 + e.user.toNat * 2 ^ 32 + e.lasthit.toNat)
/-- The four words of an entry (R324). -/
def Entry.words (e : Entry) : List Word := [e.keyl, e.keyh, e.result, e.e3]
/-- The stored key. -/
def Entry.key (e : Entry) : BitVec 144 := BitVec.ofNat 144 (e.keyh.toNat * 2 ^ 72 + e.keyl.toNat)

/-! ## Keys, the hash and the slot pair -/

/-- The key with the bits below a prefix of L bits cleared (R325). -/
def maskKey (k : BitVec 144) (l : Nat) : BitVec 144 := BitVec.ofNat 144 (k.toNat / 2 ^ (144 - l) * 2 ^ (144 - l))

/-- The entry matches the key at length L (R325). -/
def Entry.matchAt (e : Entry) (k : BitVec 144) (l : Nat) : Bool := e.plen = l && maskKey e.key l = maskKey k l

/-- H of R327: SipHash-2-4 of the masked key, under the seed and the seed xor 256t + L. -/
def State.lkHash (s : State) (t l : Nat) (k : BitVec 144) : BitVec 64 :=
  sipHash s.lookup.seed (s.lookup.seed ^^^ BitVec.ofNat 64 (256 * t + l)) (beBytes 18 (maskKey k l).toNat)

/-- d of R328. -/
def slotStep (h : BitVec 64) (sz : Nat) : Nat := 1 + (fld h 32 32) % (2 ^ sz - 1)

/-- s1 and s2 of R328. -/
def State.slotPair (s : State) (t l : Nat) (k : BitVec 144) : Nat × Nat :=
  let h := s.lkHash t l k
  let s1 := fld h 0 (s.tblSz t)
  (s1, s1 ^^^ slotStep h (s.tblSz t))

/-- The other slot of an entry that lies in a slot of its pair (R328). -/
def State.otherSlot (s : State) (t pos : Nat) (e : Entry) : Nat :=
  pos ^^^ slotStep (s.lkHash t e.plen e.key) (s.tblSz t)

/-- The index of a key or prefix in the filter of length L (R330). -/
def State.plfKey (s : State) (t l : Nat) (k : BitVec 144) : Nat := l * 4608 + fld (s.lkHash t l k) 48 16 % 4608

/-! ## The cache -/

/-- Words in KiW that an enabled table pins (R322). -/
def State.pinned (s : State) (t : Nat) : Nat :=
  if !s.tblEn t then 0
  else 4 + (if s.tblLpm t then 24 else 0) + (if s.tblMode t = 2 then 4 * 2 ^ s.tblSz t / 1024 else 0)

/-- CACHEFREE in KiW (R322, R351). -/
def State.cacheFree (s : State) : Nat := 2048 - (upto 64).foldl (fun a t => a + s.pinned t) 0

/-- A slot that is pinned (R322). -/
def State.isPinned (s : State) (t pos : Nat) : Bool := 2 ^ s.tblSz t ≤ pos || s.tblMode t = 2

/-- The key of a cached slot in `ecc` and `fills`. -/
def eccKey (t pos : Nat) : Nat := 2 ^ 40 * t + pos

/-- The least recently probed slots leave a cache that is too full (R322). -/
def State.cacheTrim (s : State) : State :=
  s.modLookup (fun l => { l with cache := l.cache.drop (l.cache.length - s.cacheFree * 256) })

/-- A slot enters the cache as the most recently probed (R322). -/
def State.cacheIn (s : State) (t pos : Nat) : State :=
  if s.isPinned t pos then s
  else (s.modLookup (fun l => { l with cache := l.cache.filter (fun e => !(e = (t, pos))) ++ [(t, pos)] })).cacheTrim

/-- What a probe of the cache finds. -/
inductive CacheSt where
  | hit | miss | lost
  deriving DecidableEq, Repr

/-- Read a slot of the cache: a corrected error counts, an uncorrectable one discards the copy (R334, R503). -/
def State.cacheRead (s : State) (t pos : Nat) : CacheSt × State :=
  if !(s.isPinned t pos || s.lookup.cache.contains (t, pos)) then (.miss, s)
  else
    let k := eccKey t pos
    match mget 0 s.lookup.ecc k with
    | 0 => (.hit, s)
    | 1 => (.hit, (s.modLookup (fun l => { l with ecc := mdel l.ecc k })).count 0xA0010)
    | _ =>
      let s := (s.modLookup (fun l =>
        { l with ecc := mdel l.ecc k, cache := l.cache.filter (fun e => !(e = (t, pos))) })).count 0xA0010
      (.lost, s.eccEvent 4 4 0 (s.tblBase t + 4 * pos))

/-- Probe the cache for a slot, which is then the most recently probed (R322). -/
def State.cacheProbe (s : State) (t pos : Nat) : CacheSt × State :=
  let r := s.cacheRead t pos
  (r.1, if r.1 = .hit then r.2.cacheIn t pos else r.2)

/-- The table load or a clear transfers n words of a slot, which count at their port (R406; log entry 100). -/
def State.countSlot (s : State) (t pos : Nat) (write : Bool) (n : Nat := 4) : State :=
  s.count (aMem (s.memPortOf (s.tblBase t + 4 * pos)) + if write then 0x48 else 0x40) n

/-- n words of every position of a table are transferred. As many neighbouring slots as there are ports lie on one port each (R395). -/
def State.countTable (s : State) (t : Nat) (write : Bool) (n : Nat) : State :=
  let m := max s.ties.memports 1
  let first := (m - s.tblBase t / 4 % m) % m
  let rounds := (s.tblPositions t - first) / m
  let s := (upto m).foldl (fun (s : State) p => s.count (aMem p + if write then 0x48 else 0x40) (n * rounds)) s
  (upto first ++ (upto (s.tblPositions t - first - m * rounds)).map (fun i => first + m * rounds + i)).foldl
    (fun (s : State) pos => s.countSlot t pos write n) s

/-- Send a request of class 0 for word w of a slot. -/
def State.slotReq (s : State) (t pos w : Nat) (write : Bool) (data : Word) (src : MSrc) : State :=
  s.memSend { cls := 0, write := write, ea := s.tblBase t + 4 * pos + w, mask := 0xFF, data := data, src := src, since := 0 }

/-- Read the four words of a slot. -/
def State.slotRead (s : State) (t pos : Nat) (src : MSrc) : State :=
  (upto 4).foldl (fun (s : State) w => s.slotReq t pos w false 0 src) s

/-! ## Filters -/

/-- Row r of the length filter; an uncorrectable error reads as all ones and sets FREQ; the address of
its ECCU event is a free value (R330, R334, R503). -/
def State.filterRow (s : State) (t r : Nat) : BitVec 145 × State :=
  let k := eccKey t (2 ^ 39 + r)
  let row := mget 0 (s.tbl t).rows r ||| mget 0 (s.tbl t).rows 4096
  match mget 0 s.lookup.ecc k with
  | 0 => (row, s)
  | 1 => (row, (s.modLookup (fun l => { l with ecc := mdel l.ecc k })).count 0xA0010)
  | _ =>
    let (v, s) := s.fresh
    let s := (s.modLookup (fun l => { l with ecc := mdel l.ecc k })).count 0xA0010
    let s := s.modTbl t (fun x => { x with rows := mput 0 x.rows r (BitVec.allOnes 145) })
    (BitVec.allOnes 145, (s.orReg (aTable t + 0x10) 0x40000000).eccEvent 4 4 0 (Config.freeField v % 2 ^ 40))

/-- Word w of 72 bits of the per-length filters is read: an uncorrectable error is treated as one of a row is (R330, R334, R503; log
entry 115). -/
def State.plfWord (s : State) (t w : Nat) : State :=
  let k := eccKey t (2 ^ 39 + 8192 + w)
  match mget 0 s.lookup.ecc k with
  | 0 => s
  | 1 => (s.modLookup (fun l => { l with ecc := mdel l.ecc k })).count 0xA0010
  | _ =>
    let (v, s) := s.fresh
    let s := (s.modLookup (fun l => { l with ecc := mdel l.ecc k })).count 0xA0010
    let s := s.modTbl t (fun x => { x with plf := (upto 72).foldl (fun m i => mput false m (72 * w + i) true) x.plf })
    (s.orReg (aTable t + 0x10) 0x40000000).eccEvent 4 4 0 (Config.freeField v % 2 ^ 40)

/-- The bit of a key in the filter of length L (R330). -/
def State.plfBit (s : State) (t l : Nat) (k : BitVec 144) : Bool × State :=
  let p := s.plfKey t l k
  let s := s.plfWord t (p / 72)
  (mget false (s.tbl t).plf p, s)

/-- The rows whose bit L an entry sets: those that agree with the index bits the prefix covers (R330). -/
def filterRows (fpos l : Nat) (k : BitVec 144) : List Nat :=
  let low := 144 - l
  let r := fld k fpos 12
  if fpos + 12 ≤ low then [4096]
  else
    let free := low - fpos
    (upto (2 ^ free)).map (fun i => r / 2 ^ free * 2 ^ free + i)

/-- Set the filter bits of an entry (R330). -/
def State.addFilter (s : State) (t : Nat) (e : Entry) : State :=
  if !s.tblLpm t then s
  else
    let b := BitVec.ofNat 145 (2 ^ e.plen)
    let rows := filterRows (fld (s.tblCfg t) 0 8) e.plen e.key
    let p := s.plfKey t e.plen e.key
    s.modTbl t (fun v => { v with
      rows := rows.foldl (fun m r => mput 0 m r (mget 0 m r ||| b)) v.rows
      plf := mput false v.plf p true })

/-- Build the filters of a table from its entries (R330, R337, R350). -/
def State.rebuildFilters (s : State) (t : Nat) : State :=
  let s := s.modTbl t (fun v => { v with rows := [], plf := [] })
  let s := s.modLookup (fun l => { l with ecc := mclear l.ecc (eccKey t (2 ^ 39)) (eccKey (t + 1) 0) })
  (s.tbl t).slots.foldl (fun s e => s.addFilter t e.2) s

/-! ## Lookups -/

/-- The stash entries of a table. -/
def State.stash (s : State) (t : Nat) : SMap Entry := (s.tbl t).slots.filter (fun e => 2 ^ s.tblSz t ≤ e.1)

/-- The longest stash entry of a length below `below` that matches the key, among the lengths asked for (R329, R331). -/
def State.stashBest (s : State) (t : Nat) (lpm : Bool) (k : BitVec 144) (below : Nat) : Option (Nat × Entry) :=
  ((s.stash t).filter (fun e => e.2.plen < below && e.2.matchAt k (if lpm then e.2.plen else 144))).foldl (fun b e =>
    match b with
    | some x => if x.2.plen < e.2.plen then some e else b
    | none => some e) none

/-- A hit of this entry writes its LASTHIT: HITUPD is 1 and the tick differs (R335). -/
def State.hitDue (s : State) (t : Nat) (e : Entry) : Bool := bit (s.tblCfg t) 27 && e.lasthit ≠ s.tick32

/-- The other slot of an entry, when a move under way leaves the entry there too (R341, R343). -/
def State.twin (s : State) (t pos : Nat) (e : Entry) : Option Nat :=
  let q := s.otherSlot t pos e
  if 2 ^ s.tblSz t ≤ pos then none
  else match s.entry t q with
    | some x => if x.keyl = e.keyl && x.keyh = e.keyh && x.plen = e.plen then some q else none
    | none => none

/-- A chain of moves is still to overwrite this slot. -/
def State.leaving (s : State) (t pos : Nat) : Bool :=
  s.lookup.cmds.any (fun c => c.2.busy && c.2.table.toNat = t && c.2.plan.any (fun w => w.pos = pos))

def State.cmd (s : State) (k : Nat) : Cmd := mget {} s.lookup.cmds k
def State.setCmd (s : State) (k : Nat) (c : Cmd) : State := s.modLookup (fun l => { l with cmds := mput {} l.cmds k c })
def State.modCmd (s : State) (k : Nat) (f : Cmd → Cmd) : State := s.setCmd k (f (s.cmd k))

/-- No probe or read of the slot is in flight to memory, so that a write of it is not held (R342). -/
def State.slotFree (s : State) (t pos : Nat) : Bool :=
  (s.lookup.flight.all (fun e => e.2.table ≠ t || (match e.2.mem with | some x => x.2 ≠ pos | none => true))) &&
    s.lookup.cmds.all (fun e => !e.2.busy || e.2.table.toNat ≠ t || e.2.rleft = 0 || e.2.rpos ≠ pos)

/-- The write of a command other than `own` at this slot has not been accepted yet. -/
def State.unaccepted (s : State) (t : Nat) (own : Option Nat) (pos : Nat) : Bool :=
  s.lookup.cmds.any (fun e => own ≠ some e.1 && e.2.busy && e.2.table.toNat = t && e.2.undo.any (fun u => u.pos = pos))

/-- A write of LASTHIT waits, the last for its entry. -/
def State.hitWait (s : State) (h : HitWrite) : State :=
  s.modLookup (fun l => { l with
    hits := l.hits.filter (fun x => !(x.cmd = none && h.cmd = none && x.table = h.table && x.key = h.key && x.plen = h.plen)) ++ [h] })

/-- A hit of a TESTINS has nothing to write: its command waits for no acceptance. -/
def State.hitDone (s : State) (h : HitWrite) : State :=
  match h.cmd with
  | some k => s.modCmd k (fun c => { c with wleft := 0 })
  | none => s

/-- Write the LASTHIT of a hit, in both copies of the entry while a move leaves two, and to memory in the slot that the entry keeps. It
waits while a probe of a slot it writes is in flight to memory, and while a command's write of one is unaccepted; an entry that is gone or
has that LASTHIT already takes no write (R335, R342, R343, R349). -/
def State.hitTry (s : State) (h : HitWrite) : State :=
  let t := h.table
  match (s.tbl t).slots.find? (fun x => x.2.plen = h.plen && x.2.key = h.key) with
  | none => s.hitDone h
  | some (pos, e) =>
    let two := s.twin t pos e
    let places := pos :: two.toList
    if e.lasthit = h.tick then s.hitDone h
    else if places.any (fun q => !s.slotFree t q || s.unaccepted t h.cmd q) then s.hitWait h
    else
      let new := { e with lasthit := h.tick }
      let keeps := if s.leaving t pos then two.getD pos else pos
      let src : MSrc := match h.cmd with | some k => .cmd k | none => .hit t
      let old := places.map (fun q => ({ pos := q, old := s.entry t q, sure := true } : LkUndo))
      let s := s.modTbl t (fun v => { v with slots := places.foldl (fun m q => mins m q new) v.slots })
      (match h.cmd with
        | some k => s.modCmd k (fun c => { c with undo := old })
        | none => s).slotReq t keeps 3 true new.e3 src

/-- Hits of lookups that wait for entries of table t that have gone are dropped. -/
def State.hitsDrop (s : State) (t : Nat) (gone : HitWrite → Bool) : State :=
  s.modLookup (fun l => { l with hits := l.hits.filter (fun h => !(h.table = t && h.cmd = none && gone h)) })

/-- Every write of LASTHIT that waits is tried again. -/
def State.hitsKick (s : State) : State :=
  s.lookup.hits.foldl (fun s h => s.hitTry h) (s.modLookup (fun l => { l with hits := [] }))

/-- A hit of an entry by a lookup or by the TESTINS of a slot: its LASTHIT takes the tick, when it differs (R335). -/
def State.hitUpdate (s : State) (t : Nat) (e : Entry) (cmd : Option Nat) : State :=
  if s.hitDue t e then s.hitTry { table := t, key := e.key, plen := e.plen, tick := s.tick32, cmd := cmd } else s

/-- The probes of a longest-prefix lookup, longest first, for the lengths below `below` and above the stash answer's (R331). -/
def State.lpmProbes (s : State) (t : Nat) (k : BitVec 144) (row : BitVec 145) (below : Nat) (above : Option Nat) :
    List (Nat × Nat) × State :=
  ((upto below).reverse.filter (fun l => bit row l && (match above with | some a => a < l | none => true))).foldl
    (fun (r : List (Nat × Nat) × State) l =>
      let b := r.2.plfBit t l k
      let p := s.slotPair t l k
      (if b.1 then r.1 ++ [(l, p.1), (l, p.2)] else r.1, b.2)) ([], s)

def State.setFlight (s : State) (id : Nat) (v : Lkp) : State := s.modLookup (fun l => { l with flight := mins l.flight id v })

/-- A slot that a lookup can answer with: in MODE 1 one that is in the cache (R333). -/
def State.answers (s : State) (t pos : Nat) : Bool := s.tblMode t ≠ 1 || s.isPinned t pos || s.lookup.cache.contains (t, pos)

/-- The longest match that table t holds for a key (R331). -/
def State.longest (s : State) (t : Nat) (k : BitVec 144) : Option (Nat × Entry) :=
  ((s.tbl t).slots.filter (fun e => s.answers t e.1 && e.2.matchAt k e.2.plen)).foldl (fun b e =>
    match b with
    | some x => if x.2.plen < e.2.plen then some e else b
    | none => some e) none

/-- What a lookup whose probes have come to this end returns: a longest-prefix lookup the longer of what they found and of the longest match
that the table holds at this instant, so that its answer is that of one instant, whatever has changed between its probes (R342; log
entry 118). -/
def State.lkHeld (s : State) (v : Lkp) (hit : Option (Nat × Entry)) : Option (Nat × Entry) :=
  if !v.lpm then hit
  else
    match s.longest v.table v.key, hit with
    | some b, some h => if h.2.plen < b.2.plen then some b else some h
    | some b, none => some b
    | none, h => h

/-- The lookup has its answer: a hit with the entry at a position, or a miss (R329, R331). -/
def State.lkFinish (s : State) (id : Nat) (v : Lkp) (hit : Option (Nat × Entry)) : State :=
  match s.lkHeld v hit with
  | some (_, e) =>
    ((s.tblCount v.table 1).setFlight id { v with mem := none, result := some (some e.result) }).hitUpdate v.table e none
  | none => s.setFlight id { v with mem := none, result := some none }

/-- A probe of this lookup reads a slot from external memory (R333). -/
def State.lkRead (s : State) (id : Nat) (v : Lkp) (l pos : Nat) : State :=
  (s.slotRead v.table pos (.probe id)).setFlight id { v with mem := some (l, pos), left := 4, fail := none }

/-- A slot that MODE 1 does not find in the cache: CMISS counts, and the slot is read in the background (R333). -/
def State.cacheMiss (s : State) (t pos : Nat) : State :=
  let k := eccKey t pos
  let s := s.tblCount t 7
  if (mfind s.lookup.fills k).isSome then s
  else (s.modLookup (fun q => { q with fills := mins q.fills k 4 })).slotRead t pos (.fill t pos)

/-- The probe list for the lengths below `below`: the longest stash answer's slot stands last, and an exact-match lookup that has one
probes it alone (R329, R331). -/
def State.lkList (s : State) (v : Lkp) (below : Nat) : Lkp × State :=
  let t := v.table
  let best := s.stashBest t v.lpm v.key below
  let last := best.toList.map (fun (b : Nat × Entry) => (b.2.plen, b.1))
  let v := { v with best := best.map (fun (b : Nat × Entry) => b.2.plen) }
  if v.lpm then
    let r := s.filterRow t (fld v.key (fld (s.tblCfg t) 0 8) 12)
    let l := r.2.lpmProbes t v.key r.1 below v.best
    ({ v with todo := l.1 ++ last }, l.2)
  else
    let p := s.slotPair t 144 v.key
    ({ v with todo := if best.isSome || below ≤ 144 then last else [(144, p.1), (144, p.2)] }, s)

/-- The start of a lookup or of its re-run. -/
def State.lkBegin (s : State) (v : Lkp) : Lkp × State :=
  s.lkList { v with moves := (s.tbl v.table).moves, mem := none } 145

/-- Carry on with the probes of lookup `id` until an answer or a read of external memory; every probe sees the slot as it is then. A
stash answer that has gone since leaves the shorter lengths to look at, and a miss that overlapped a move runs again once (R329, R331,
R333, R334, R342, R343; log entry 118). -/
def State.lkWalk (s : State) (id : Nat) : Nat → Lkp → State
  | 0, v => s.setFlight id v
  | n + 1, v =>
    match v.todo with
    | [] =>
      match v.best with
      | some l =>
        let r := s.lkList v l
        r.2.lkWalk id n r.1
      | none =>
        if v.moves ≠ (s.tbl v.table).moves && !v.rerun then
          let r := (s.tblCount v.table 6).lkBegin { v with rerun := true }
          r.2.lkWalk id n r.1
        else s.lkFinish id v none
    | (l, pos) :: rest =>
      let c := s.cacheProbe v.table pos
      let s := c.2
      if c.1 = .hit then
        match s.entry v.table pos with
        | some e =>
          if e.matchAt v.key l then s.lkFinish id v (some (pos, e)) else s.lkWalk id n { v with todo := rest }
        | none => s.lkWalk id n { v with todo := rest }
      else if c.1 = .miss && s.tblMode v.table = 1 then (s.cacheMiss v.table pos).lkWalk id n { v with todo := rest }
      else s.lkRead id { v with todo := rest } l pos

/-- Fuel for a lookup: its probes, twice, and one re-run. -/
def lkFuel : Nat := 1200

/-- The oldest waiting request of grove g is accepted; a table that an enable clears has no entry to find (R320, R332, R334, R350, R352). -/
def State.lkAccept (s : State) (r : LkReq) : State :=
  let id := s.lookup.flNext
  let s := s.modLookup (fun l => { l with flNext := id + 1 })
  let v : Lkp := { th := r.th, since := r.since, table := r.table, lpm := r.lpm, key := r.key, todo := [], best := none,
                   mem := none, left := 0, fail := none, moves := 0, rerun := false, result := none, bad := none }
  if !s.tblEn r.table || s.tblLpm r.table ≠ r.lpm then
    s.setFlight id { v with bad := some (BitVec.ofNat 40 r.table, false) }
  else if (s.tbl r.table).clr.isSome then (s.tblCount r.table 0).setFlight id { v with result := some none }
  else
    let b := (s.tblCount r.table 0).lkBegin v
    b.2.lkWalk id lkFuel b.1

/-- Lookups of table t in flight without an answer. -/
def State.lkOpen (s : State) (t : Nat) : List Lkp :=
  (s.lookup.flight.map (·.2)).filter (fun v => v.table = t && v.result.isNone && v.bad.isNone)

/-! ## Commands -/

/-- The key of a command slot. -/
def lkKey : LkSlot → Nat
  | .host => 0
  | .grove g i => 1 + 16 * g.val + i.val
/-- The slot key of ring r's duplicate check. -/
def ringKey (r : Nat) : Nat := 129 + r
/-- The slot key of the sweeper. -/
def sweepKey : Nat := 145

/-- The key of a command's operands. -/
def Cmd.key (c : Cmd) : BitVec 144 := BitVec.ofNat 144 (c.keyh.toNat * 2 ^ 72 + c.keyl.toNat)
/-- ENT.PLEN. -/
def Cmd.plen (c : Cmd) : Nat := fld c.ent 62 8

/-- A command is accepted: BUSY is set, and it holds its place in the order (R339, R340). -/
def State.acceptCmd (s : State) (k op table : Nat) (fen : Bool) (flag : Nat) : State :=
  let n := s.lookup.accNext
  (s.modLookup (fun l => { l with accNext := n + 1 })).modCmd k (fun c => { c with
    busy := true, op := BitVec.ofNat 4 op, table := BitVec.ofNat 8 table, fen := fen, flag := BitVec.ofNat 6 flag
    acc := n, live := s.tblEn table, got := [], rleft := 0, ran := false, rcN := 0, plan := [], wleft := 0, undo := [],
    began := none, again := false, missed := false, cur := 0 })

/-- The command has run without a write, or with writes to come. -/
def State.cmdRan (s : State) (k rc : Nat) (plan : List LkWrite) : State :=
  s.modCmd k (fun c => { c with ran := true, rcN := BitVec.ofNat 4 rc, plan := plan })

/-- No probe of table t is in flight to memory, and no command reads it. -/
def State.tblFree (s : State) (t k : Nat) : Bool :=
  (s.lookup.flight.all (fun e => e.2.table ≠ t || e.2.mem.isNone)) &&
    s.lookup.cmds.all (fun e => e.1 = k || !e.2.busy || e.2.table.toNat ≠ t || e.2.rleft = 0)

/-- Two commands name different entries. -/
def Cmd.differs (c d : Cmd) : Bool := c.key ≠ d.key || c.plen ≠ d.plen

/-- The lookup of a TESTINS is under way (R343). -/
def Cmd.probing (c : Cmd) : Bool := c.busy && c.op = 5 && !c.ran && !c.missed && c.began.isSome

/-- The command's writes have all been accepted, or it has none to make. -/
def Cmd.settled (c : Cmd) : Bool := c.ran && c.plan = [] && c.wleft = 0

/-- No other command of the table stands before command c: no chain of moves is under way, but for a lookup that has begun, no FLUSH has
unaccepted writes, and no earlier command of the same key and length is unfinished (R340, R343, R345, R350). -/
def State.cmdClear (s : State) (k : Nat) (c : Cmd) : Bool :=
  s.lookup.cmds.all (fun e => e.1 = k || !e.2.busy || e.2.table ≠ c.table ||
    ((e.2.plan = [] || (c.probing && c.differs e.2)) && (e.2.op ≠ 7 || e.2.undo = []) &&
      (e.2.settled || c.acc < e.2.acc || c.differs e.2)))

/-- The command can run: accepted, the engine ready, its table not under a clear, no read outstanding, nothing before it (R340, R350), and
for FLUSH no probe of the table in flight to memory and no write of another command unaccepted (R342, R349). -/
def State.cmdReady (s : State) (k : Nat) : Bool :=
  let c := s.cmd k
  s.lookup.ready && c.busy && !c.ran && c.rleft = 0 && (s.tbl c.table.toNat).clr.isNone && s.cmdClear k c &&
    (c.op ≠ 7 || (s.tblFree c.table.toNat k &&
      s.lookup.cmds.all (fun e => e.1 = k || !e.2.busy || e.2.table ≠ c.table || e.2.undo = [])))

/-- A move of table t may begin: no lookup that overlapped its previous move, nor a re-run, is in flight, the lookups of TESTINS among
them (R343). -/
def State.moveOk (s : State) (t : Nat) : Bool :=
  (s.lkOpen t).all (fun v => v.moves = (s.tbl t).moves && !v.rerun) &&
    s.lookup.cmds.all (fun e => !e.2.probing || e.2.table.toNat ≠ t || (e.2.began = some (s.tbl t).moves && !e.2.again))

/-- The entry that a write places: a move takes its entry, and REPLACE its LASTHIT, as they stand at the write (R335, R337). -/
def State.writeEntry (s : State) (t : Nat) (w : LkWrite) : Option Entry :=
  match w.entry, w.src.bind (s.entry t) with
  | some e, some x => some (if w.move then x else { e with lasthit := x.lasthit })
  | e, _ => e

/-- One write of a command reaches the table and leaves for its memory port; filter bits follow a new entry (R341, R342, R344). -/
def State.applyWrite (s : State) (t k : Nat) (w : LkWrite) : State :=
  let new := s.writeEntry t w
  let old : LkUndo := { pos := w.pos, old := s.entry t w.pos, sure := w.move || new.isNone }
  let s := s.modTbl t (fun v => { v with
    slots := match new with | some e => mins v.slots w.pos e | none => mdel v.slots w.pos
    moves := if w.move then v.moves + 1 else v.moves })
  let s := s.modLookup (fun l => { l with ecc := mdel l.ecc (eccKey t w.pos) })
  match new with
  | some e =>
    let s := (s.addFilter t e).cacheIn t w.pos
    let s := s.modCmd k (fun c => { c with wleft := 4, undo := [old] })
    (e.words.zip (upto 4)).foldl (fun (s : State) x => s.slotReq t w.pos x.2 true x.1 (.cmd k)) s
  | none =>
    let s := match old.old with | some e => s.hitsDrop t (fun h => h.key = e.key && h.plen = e.plen) | none => s
    (s.modCmd k (fun c => { c with wleft := 1, undo := [old] })).slotReq t w.pos 3 true 0 (.cmd k)

/-- Issue the next write of command k when its last one is accepted, R343 allows it, no probe holds it and no other command's write of
the slot is unaccepted (R342, R349, R394). -/
def State.cmdIssue (s : State) (k : Nat) : State :=
  let c := s.cmd k
  let t := c.table.toNat
  if !c.ran || c.wleft ≠ 0 then s
  else match c.plan with
    | [] => s
    | w :: rest =>
      if (w.move && !s.moveOk t) || !s.slotFree t w.pos || s.unaccepted t (some k) w.pos then s
      else (s.modCmd k (fun c => { c with plan := rest })).applyWrite t k w

/-- Every write that was held is tried again. -/
def State.cmdKick (s : State) : State := (s.lookup.cmds.map (·.1)).foldl (fun s k => s.cmdIssue k) s.hitsKick

/-- What a position held is put back. -/
def State.putBack (s : State) (t : Nat) (u : LkUndo) : State :=
  s.modTbl t (fun v => { v with slots := match u.old with | some e => mins v.slots u.pos e | none => mdel v.slots u.pos })

/-- A write of a command at a position has failed and is undone; whether a failing write of a new entry landed is a free value
(R345; log entry 98). -/
def State.undoWrite (s : State) (k pos : Nat) : State :=
  let c := s.cmd k
  let t := c.table.toNat
  let s := (c.undo.filter (fun u => c.op ≠ 7 || u.pos = pos)).foldl (fun (s : State) u =>
    if u.sure then s.putBack t u
    else
      let (n, s) := s.fresh
      if Config.freeField n % 2 = 0 then s else s.putBack t u) s
  let s := s.modCmd k (fun c => { c with undo := if c.op = 7 then c.undo.filter (fun u => u.pos ≠ pos) else [] })
  if c.op = 7 then s.rebuildFilters t else s

/-- The command ends with MEMERR: it makes no further write (R345). -/
def State.cmdMemErr (s : State) (k : Nat) : State :=
  if (s.cmd k).rcN = 6 && (s.cmd k).ran then s
  else (s.tblCount (s.cmd k).table.toNat 8).cmdRan k 6 []

/-- The command uses a slot: one that it has read, or one in the cache, which it probes (R322, R334). The table load reads a slot that
is not there at once. -/
def State.cmdHas (s : State) (k t pos : Nat) : CacheSt × State :=
  if (s.cmd k).got.contains pos then (.hit, s)
  else
    let c := s.cacheProbe t pos
    if c.1 = .hit || !(s.cmd k).full then c else (.hit, (c.2.cacheIn t pos).countSlot t pos false)

/-- Read a slot that the command needs; it runs again when the words have come. -/
def State.cmdFetch (s : State) (k t pos : Nat) : State :=
  (s.modCmd k (fun c => { c with rpos := pos, rleft := 4 })).slotRead t pos (.cmd k)

/-- Where a command finds an entry, or which slot it must read first. -/
inductive Found where
  | here (pos : Nat) (e : Entry)
  | absent
  | need (pos : Nat)
  deriving DecidableEq, Repr

/-- Look through positions in turn for the entry with a key and length. -/
def State.seek (s : State) (k t l : Nat) (key : BitVec 144) : List Nat → Found × State
  | [] => (.absent, s)
  | pos :: rest =>
    let h := s.cmdHas k t pos
    if h.1 ≠ .hit then (.need pos, h.2)
    else match h.2.entry t pos with
      | some e => if e.matchAt key l then (.here pos e, h.2) else h.2.seek k t l key rest
      | none => h.2.seek k t l key rest

/-- Find the entry with a key and length: in the stash, in s1, in s2 (R328). -/
def State.locate (s : State) (k t l : Nat) (key : BitVec 144) : Found × State :=
  let p := s.slotPair t l key
  s.seek k t l key ((((s.stash t).find? (fun e => e.2.matchAt key l)).map (·.1)).toList ++ [p.1, p.2])

/-- A chain of moves from an occupied slot: its writes, from the free end back (R341). -/
inductive ChainRes where
  | moves (w : List LkWrite)
  | dead
  | need (pos : Nat)
  deriving DecidableEq, Repr

/-- Follow the entries of a chain to their other slots, for at most n moves (R341). -/
def State.chain (s : State) (k t : Nat) : Nat → Nat → List LkWrite → ChainRes × State
  | 0, _, _ => (.dead, s)
  | n + 1, pos, acc =>
    match s.entry t pos with
    | none => (.moves acc, s)
    | some e =>
      let q := s.otherSlot t pos e
      let acc := { pos := q, entry := some e, move := true, src := some pos } :: acc
      let h := s.cmdHas k t q
      if h.1 ≠ .hit then (.need q, h.2)
      else if (h.2.entry t q).isNone then (.moves acc, h.2)
      else h.2.chain k t n q acc

/-- Place a new entry: a free slot of its pair, a chain of moves, or the stash. Where several places are allowed the choice is
a free value (R341). -/
def State.place (s : State) (k t : Nat) (e : Entry) : State :=
  let p := s.slotPair t e.plen e.key
  let new (pos : Nat) : LkWrite := { pos := pos, entry := some e, move := false }
  let (v, s) := s.fresh
  let first := Config.freeField v % 2 = 0
  match s.entry t p.1, s.entry t p.2 with
  | none, none => s.cmdRan k 0 [new (if first then p.1 else p.2)]
  | none, some _ => s.cmdRan k 0 [new p.1]
  | some _, none => s.cmdRan k 0 [new p.2]
  | some _, some _ =>
    let a := s.chain k t 8 p.1 []
    let b := a.2.chain k t 8 p.2 []
    let s := b.2
    match a.1, b.1 with
    | .need q, _ => s.cmdFetch k t q
    | _, .need q => s.cmdFetch k t q
    | .moves a, .moves b => s.cmdRan k 0 (if first then a ++ [new p.1] else b ++ [new p.2])
    | .moves a, .dead => s.cmdRan k 0 (a ++ [new p.1])
    | .dead, .moves b => s.cmdRan k 0 (b ++ [new p.2])
    | .dead, .dead =>
      let free := (upto 1024).filter (fun j => (s.entry t (2 ^ s.tblSz t + j)).isNone)
      match free with
      | [] => (s.tblCount t 5).cmdRan k 3 []
      | _ => s.cmdRan k 0 [new (2 ^ s.tblSz t + pickFrom free (Config.freeField v) 0)]

/-- The entry that a command's operands give, with LASTHIT the present tick (R337). -/
def State.newEntry (s : State) (c : Cmd) : Entry :=
  { keyl := c.keyl, keyh := c.keyh, result := c.res, static := bit c.ent 70, plen := c.plen,
    user := BitVec.ofNat 16 (fld c.ent 32 16), lasthit := s.tick32 }

/-- The operands of a found entry are returned: RESULT and E3 (R337). -/
def State.cmdReturn (s : State) (k : Nat) (e : Entry) : State := s.modCmd k (fun c => { c with res := e.result, ent := e.e3 })

/-- INSERT (R337, R341). -/
def State.cmdInsert (s : State) (k t : Nat) (c : Cmd) : State :=
  let r := s.locate k t c.plen c.key
  let s := r.2
  match r.1 with
  | .need p => s.cmdFetch k t p
  | .here _ _ => s.cmdRan k 2 []
  | .absent => s.place k t (s.newEntry c)

/-- REPLACE: LASTHIT is kept (R337). -/
def State.cmdReplace (s : State) (k t : Nat) (c : Cmd) : State :=
  let r := s.locate k t c.plen c.key
  let s := r.2
  match r.1 with
  | .need p => s.cmdFetch k t p
  | .absent => s.cmdRan k 1 []
  | .here pos e => s.cmdRan k 0 [{ pos := pos, entry := some { s.newEntry c with lasthit := e.lasthit }, move := false,
                                    src := some pos }]

/-- DELETE (R337). -/
def State.cmdDelete (s : State) (k t : Nat) (c : Cmd) : State :=
  let r := s.locate k t c.plen c.key
  let s := r.2
  match r.1 with
  | .need p => s.cmdFetch k t p
  | .absent => s.cmdRan k 1 []
  | .here pos _ => s.cmdRan k 0 [{ pos := pos, entry := none, move := false }]

/-- READ (R337). -/
def State.cmdRead (s : State) (k t : Nat) (c : Cmd) : State :=
  let r := s.locate k t c.plen c.key
  let s := r.2
  match r.1 with
  | .need p => s.cmdFetch k t p
  | .absent => s.cmdRan k 1 []
  | .here _ e => (s.cmdReturn k e).cmdRan k 0 []

/-- The lookup of a TESTINS as R329 makes it: in the stash, s1 and s2; MODE 1 counts a slot that is not in the cache as no match,
but reads one that the cache has lost (R333, R334). -/
def State.testProbe (s : State) (k t : Nat) (key : BitVec 144) : List Nat → Found × State
  | [] => (.absent, s)
  | pos :: rest =>
    let h := s.cmdHas k t pos
    if h.1 ≠ .hit then
      if h.1 = .miss && s.tblMode t = 1 then (h.2.cacheMiss t pos).testProbe k t key rest else (.need pos, h.2)
    else match h.2.entry t pos with
      | some e => if e.matchAt key 144 then (.here pos e, h.2) else h.2.testProbe k t key rest
      | none => h.2.testProbe k t key rest

/-- One pass of the lookup of a TESTINS (R329). -/
def State.testPass (s : State) (k t : Nat) (key : BitVec 144) : Found × State :=
  let p := s.slotPair t 144 key
  s.testProbe k t key ((((s.stash t).find? (fun e => e.2.matchAt key 144)).map (·.1)).toList ++ [p.1, p.2])

/-- The lookup of a TESTINS; a miss that overlapped a move runs again once, from its first probe (R343). -/
def State.testLook (s : State) (k t : Nat) (c : Cmd) : Found × State :=
  let s := s.modCmd k (fun c => { c with began := some (c.began.getD (s.tbl t).moves) })
  let r := s.testPass k t c.key
  let s := r.2
  if r.1 = .absent && (s.cmd k).began ≠ some (s.tbl t).moves && !c.again then
    ((s.tblCount t 6).modCmd k (fun c => { c with began := some (s.tbl t).moves, again := true, got := [] })).testPass k t c.key
  else r

/-- TESTINS: a hit acts as READ and as a hit of R335, whose write the command waits for and which a failure undoes; a miss goes on as
INSERT (R337, R339, R345, R353). -/
def State.cmdTestins (s : State) (k t : Nat) (c : Cmd) : State :=
  if c.missed then s.cmdInsert k t c
  else
    let r := s.testLook k t c
    let s := r.2
    match r.1 with
    | .need q => s.cmdFetch k t q
    | .absent =>
      let s := (s.tblCount t 0).modCmd k (fun c => { c with missed := true })
      if s.cmdClear k (s.cmd k) then s.cmdInsert k t { c with missed := true } else s
    | .here _ e =>
      let s := (s.tblCount t 0).tblCount t 1
      if s.hitDue t e then
        (((s.cmdReturn k { e with lasthit := s.tick32 }).cmdRan k 2 []).modCmd k (fun c => { c with wleft := 1 })).hitUpdate t e (some k)
      else (s.cmdReturn k e).cmdRan k 2 []

/-- The positions of SCAN from pos on: the first valid entry, the end, or where the count of positions runs out (R337). -/
inductive ScanRes where
  | found (pos : Nat) (e : Entry)
  | done
  | more (pos : Nat)
  | need (pos : Nat)
  deriving DecidableEq, Repr

/-- Examine at most n positions. -/
def State.scanFrom (s : State) (k t : Nat) : Nat → Nat → ScanRes × State
  | 0, pos => (if pos < s.tblPositions t then .more pos else .done, s)
  | n + 1, pos =>
    if s.tblPositions t ≤ pos then (.done, s)
    else
      let h := s.cmdHas k t pos
      if h.1 ≠ .hit then (.need pos, h.2)
      else match h.2.entry t pos with
        | some e => (.found pos e, h.2)
        | none => h.2.scanFrom k t n (pos + 1)

/-- SCAN (R337, R338). -/
def State.cmdScan (s : State) (k t : Nat) (c : Cmd) : State :=
  let r := s.scanFrom k t 4096 c.pos.toNat
  let s := r.2
  match r.1 with
  | .need p => s.cmdFetch k t p
  | .done => s.cmdRan k 1 []
  | .more p => (s.modCmd k (fun c => { c with pos := BitVec.ofNat 37 p })).cmdRan k 7 []
  | .found p e =>
    (s.modCmd k (fun c => { c with keyl := e.keyl, keyh := e.keyh, res := e.result, ent := e.e3,
                                   pos := BitVec.ofNat 37 (p + 1) })).cmdRan k 0 []

/-- FLUSH: every slot is freed and the filters cleared; the VALID bits of the entries are written to memory (R337). -/
def State.cmdFlush (s : State) (k t : Nat) : State :=
  let old := (s.tbl t).slots.map (fun e => ({ pos := e.1, old := some e.2, sure := true } : LkUndo))
  let s := (s.modTbl t (fun v => { v with slots := [] })).hitsDrop t (fun _ => true)
  let s := (s.rebuildFilters t).modLookup (fun l => { l with ecc := mclear l.ecc (eccKey t 0) (eccKey t (2 ^ 39)) })
  let s := (s.cmdRan k 0 []).modCmd k (fun c => { c with wleft := old.length, undo := old })
  old.foldl (fun (s : State) u => s.slotReq t u.pos 3 true 0 (.cmd k)) s

/-- FREBUILD looks at at most n positions from pos on: the one that it must read first, if any, and how far it has come. -/
def State.frebuildFrom (s : State) (k t : Nat) : Nat → Nat → Option Nat × Nat × State
  | 0, pos => (none, pos, s)
  | n + 1, pos =>
    if s.tblPositions t ≤ pos then (none, pos, s)
    else
      let h := s.cmdHas k t pos
      if h.1 ≠ .hit then (some pos, pos, h.2) else h.2.frebuildFrom k t n (pos + 1)

/-- FREBUILD: it reads every position, and with the last one the new filters replace the old ones; FREQ clears (R337; log entry 118). -/
def State.cmdFrebuild (s : State) (k t : Nat) (c : Cmd) : State :=
  let r := s.frebuildFrom k t 4096 c.cur
  let s := r.2.2.modCmd k (fun c => { c with cur := r.2.1, got := [] })
  match r.1 with
  | some p => s.cmdFetch k t p
  | none =>
    if r.2.1 < s.tblPositions t then s
    else
      let s := s.rebuildFilters t
      (s.setReg (aTable t + 0x10) (setBit (s.reg (aTable t + 0x10)) 30 false)).cmdRan k 0 []

/-- The operands break R338's BADKEY rule. -/
def State.badKey (s : State) (t : Nat) (c : Cmd) : Bool :=
  c.plen > 144 || (!s.tblLpm t && c.plen ≠ 144) || maskKey c.key c.plen ≠ c.key

/-- Run the command of slot k, when it is ready and its OP is the one named; the first write leaves with it. A slot that
another command's unaccepted write freed or filled is not used. A TESTINS whose lookup ends lets moves begin (R337, R338, R343, R349). -/
def State.cmdRun (s : State) (k op : Nat) : State :=
  let c := s.cmd k
  let t := c.table.toNat
  if !s.cmdReady k || c.op.toNat ≠ op then s
  else
    let r :=
      if op = 0 || op ≥ 9 then s.cmdRan k 8 []
      else if t ≥ 64 || !c.live || (op = 5 && s.tblLpm t) || (op = 8 && !s.tblLpm t) then s.cmdRan k 4 []
      else if op ≤ 5 && s.badKey t c then s.cmdRan k 5 []
      else match op with
        | 1 => s.cmdInsert k t c
        | 2 => s.cmdReplace k t c
        | 3 => s.cmdDelete k t c
        | 4 => s.cmdRead k t c
        | 5 => s.cmdTestins k t c
        | 6 => s.cmdScan k t c
        | 7 => s.cmdFlush k t
        | _ => s.cmdFrebuild k t c
    if (r.cmd k).plan.any (fun w => s.unaccepted t (some k) w.pos) then s
    else if op = 5 then (r.cmdIssue k).cmdKick else r.cmdIssue k

/-- Every memory write of the command has been accepted (R339). -/
def Cmd.complete (c : Cmd) : Bool := c.busy && c.ran && c.plan = [] && c.wleft = 0 && c.rleft = 0

/-- The command ends: its counters, RC and BUSY (R339, R353). -/
def State.cmdEnd (s : State) (k : Nat) : State :=
  let c := s.cmd k
  let t := c.table.toNat
  let s := if (c.op = 1 || c.op = 5) && c.rcN = 0 then s.tblCount t 2 else s
  let s := if c.op = 3 && c.rcN = 0 then s.tblCount t 3 else s
  s.modCmd k (fun c => { c with busy := false, rc := c.rcN, ran := false, got := [] })

/-- LOOKUP_COMMAND_COMPLETE: FLAG of a grove slot with FEN is set, HSTAT.DONE of the host slot (R339). -/
def State.cmdComplete (s : State) (sl : LkSlot) : State :=
  let k := lkKey sl
  let c := s.cmd k
  if !c.complete then s
  else
    let s := s.cmdEnd k
    match sl with
    | .host => s.orReg 0xA013C 0x20000000
    | .grove g _ => if c.fen then s.setFlag g.val c.flag.toNat true else s

/-! ## Answers of the memory ports -/

/-- Lookup `id` has all words of its probe: the slot, DACC for a timeout, or ECCU with the slot's word address, which
counts from the start of external memory (R321, R334). -/
def State.probeDone (s : State) (id : Nat) (v : Lkp) : State :=
  match v.mem with
  | none => s
  | some (l, pos) =>
    match v.fail with
    | some true => s.setFlight id { v with mem := none, bad := some (BitVec.ofNat 40 v.table, false) }
    | some false =>
      s.setFlight id { v with mem := none, bad := some (BitVec.ofNat 40 (s.tblBase v.table + 4 * pos), true) }
    | none =>
      let s := s.cacheIn v.table pos
      match s.entry v.table pos with
      | some e => if e.matchAt v.key l then s.lkFinish id v (some (pos, e)) else s.lkWalk id lkFuel { v with mem := none }
      | none => s.lkWalk id lkFuel { v with mem := none }

/-- A word of a probe has come, or its request failed: true for a timeout (R334). -/
def State.probeAnswer (s : State) (id : Nat) (fail : Option Bool) : State :=
  match mfind s.lookup.flight id with
  | none => s
  | some v => s.setFlight id { v with left := v.left - 1, fail := v.fail.orElse (fun _ => fail) }

/-- A word of a background read has come; with the last one the slot is in the cache (R333). -/
def State.fillAnswer (s : State) (t pos : Nat) (ok : Bool) : State :=
  let k := eccKey t pos
  if !ok then s.modLookup (fun l => { l with fills := mdel l.fills k })
  else match mfind s.lookup.fills k with
    | none => s
    | some n =>
      if n ≤ 1 then (s.modLookup (fun l => { l with fills := mdel l.fills k })).cacheIn t pos
      else s.modLookup (fun l => { l with fills := mins l.fills k (n - 1) })

/-- A word that a command reads has come, or its request failed (R345). With the last one the slot is in the cache, if all have come
(R333); the sweeper's read of an E3 alone puts none there. -/
def State.cmdReadAnswer (s : State) (k : Nat) (ok : Bool) : State :=
  let c := s.cmd k
  let whole := ok && !c.ran && c.rleft = 1
  let s := s.setCmd k { c with rleft := c.rleft - 1, got := if whole then c.rpos :: c.got else c.got }
  let s := if !ok then s.cmdMemErr k else if whole && k ≠ sweepKey then s.cacheIn c.table.toNat c.rpos else s
  if c.rleft = 1 then s.cmdKick else s

/-- A write of a command at external address ea has been accepted, or has failed (R345, R394). -/
def State.cmdWriteAnswer (s : State) (k ea : Nat) (ok : Bool) : State :=
  let c := s.cmd k
  let pos := (ea - s.tblBase c.table.toNat) / 4
  let done := c.wleft = 1 || c.op = 7
  let s := s.modCmd k (fun c => { c with
    wleft := c.wleft - 1
    undo := if ok && done then (if c.op = 7 then c.undo.filter (fun u => u.pos ≠ pos) else []) else c.undo })
  (if ok then s else (s.undoWrite k pos).cmdMemErr k).cmdKick

/-! ## The sweeper -/

/-- The tables that the sweeper visits: enabled and cleared, with LIMIT not 0 (R347, R350). -/
def State.sweepTables (s : State) : List Nat :=
  (upto 64).filter (fun t => s.tblEn t && (s.tbl t).clr.isNone && (s.treg (aTable t + 0xC)).toNat ≠ 0)

/-- A visit is in progress: the sweeper waits for an E3, or has it at hand. -/
def Cmd.visiting (c : Cmd) : Bool := c.rleft ≠ 0 || c.got ≠ [] || (c.ran && c.rcN = 6)

/-- The next position to visit; a visit in progress completes, also in a table that has been disabled (R347, R352). -/
def State.sweepNext (s : State) : Option (Nat × Nat) :=
  let ts := s.sweepTables
  let l := s.lookup
  let c := s.cmd sweepKey
  if c.visiting then some (c.table.toNat, c.rpos)
  else if ts.contains l.sweepT && l.sweepP < s.tblPositions l.sweepT then some (l.sweepT, l.sweepP)
  else match ts.find? (fun t => l.sweepT < t) with
    | some t => some (t, 0)
    | none => ts.head?.map (fun t => (t, 0))

/-- The sweeper has visited a position. -/
def State.sweepOn (s : State) (t pos : Nat) : State :=
  (s.modLookup (fun l => { l with sweepT := t, sweepP := pos + 1, swept := l.swept + 1 })).modCmd sweepKey (fun c =>
    { c with got := [], ran := c.ran && c.rcN ≠ 6, busy := c.busy && c.rcN ≠ 6 })

/-- The sweeper removes an entry: a DELETE in the order of the commands, with AGED, and its event under the AGEREC of the tick (R29,
R346). -/
def State.sweepRemove (s : State) (t pos : Nat) (e : Entry) : State :=
  let s := s.setCmd sweepKey
    { keyl := e.keyl, keyh := e.keyh, table := BitVec.ofNat 8 t, op := 3, busy := true, ran := true, rpos := pos }
  let s := (((s.applyWrite t sweepKey { pos := pos, entry := none, move := false }).tblCount t 3).tblCount t 4)
  if bit (s.treg (aTable t)) 26 then s.event 4 0x0B (t * 2 ^ 22) [e.keyl, e.keyh] else s

/-- No chain of moves is under way in table t, no FLUSH has unaccepted writes, no command of the entry's key is unfinished, and no probe
holds the write (R340, R342, R345). -/
def State.sweepClear (s : State) (t pos : Nat) (e : Entry) : Bool :=
  s.slotFree t pos && !s.unaccepted t (some sweepKey) pos && s.lookup.cmds.all (fun c => !c.2.busy || c.2.table.toNat ≠ t ||
    (c.2.plan = [] && (c.2.op ≠ 7 || c.2.undo = []) && (c.2.settled || c.2.key ≠ e.key || c.2.plen ≠ e.plen)))

/-- SWEEP_VISIT: one position, within the positions of this tick (R346, R347). -/
def State.sweepVisit (s : State) : State :=
  let c := s.cmd sweepKey
  let rate := max 1 (fld (s.treg 0xA0000) 0 16)
  if !s.lookup.ready || (!bit (s.treg 0xA0000) 31 && !c.visiting) || s.lookup.swept ≥ rate * 256 || c.rleft ≠ 0 || c.wleft ≠ 0 then s
  else match s.sweepNext with
    | none => s
    | some (t, pos) =>
      if c.ran && c.rcN = 6 then s.sweepOn t pos
      else
        let s := s.modCmd sweepKey (fun c => { c with busy := false, ran := false })
        let got := (s.cmd sweepKey).got.contains pos
        let r := if got then (.hit, s) else s.cacheRead t pos
        let s := r.2
        if r.1 ≠ .hit then
          (s.modCmd sweepKey (fun c => { c with table := BitVec.ofNat 8 t, rpos := pos, rleft := 1 })).slotReq
            t pos 3 false 0 (.cmd sweepKey)
        else match s.entry t pos with
          | none => s.sweepOn t pos
          | some e =>
            let limit := (s.treg (aTable t + 0xC)).toNat
            if e.static || limit = 0 || (s.tick32 - e.lasthit).toNat ≤ limit then s.sweepOn t pos
            else if s.sweepClear t pos e then (s.sweepRemove t pos e).sweepOn t pos
            else s

/-! ## The scrubber -/

/-- The scrubber of the cache and the filters reads one word that holds an error, or none: which one its pass has reached is a free
value (R503; log entry 99). -/
def State.cacheScrub (s : State) : State :=
  match s.lookup.ecc.map (·.1) with
  | [] => s
  | ks =>
    let (n, s) := s.fresh
    match ks[Config.freeField n % (ks.length + 1)]? with
    | none => s
    | some k =>
      if k % 2 ^ 40 ≥ 2 ^ 39 + 8192 then s.plfWord (k / 2 ^ 40) (k % 2 ^ 40 - 2 ^ 39 - 8192)
      else if k % 2 ^ 40 ≥ 2 ^ 39 then (s.filterRow (k / 2 ^ 40) (k % 2 ^ 40 - 2 ^ 39)).2
      else (s.cacheRead (k / 2 ^ 40) (k % 2 ^ 40)).2

/-! ## Registers -/

/-- TBLSTAT.FLBUSY: a FLUSH, a FREBUILD or the clear of an enable runs, or accepted work of a disabled table is unfinished (R352). -/
def State.flBusy (s : State) (t : Nat) : Bool :=
  (s.tbl t).clr.isSome ||
  s.lookup.cmds.any (fun e => e.2.busy && e.2.live && e.2.table.toNat = t && (!s.tblEn t || e.2.op = 7 || e.2.op = 8)) ||
    (!s.tblEn t && (s.lkOpen t ≠ [] || s.lookup.hits.any (fun h => h.table = t) ||
      ((s.cmd sweepKey).wleft ≠ 0 || (s.cmd sweepKey).visiting) && (s.cmd sweepKey).table.toNat = t))

/-- TBLSTAT (R352). -/
def State.tblStat (s : State) (t : Nat) : BitVec 32 :=
  BitVec.ofNat 32 (b1 (s.flBusy t) * 2 ^ 31 + fld (s.reg (aTable t + 0x10)) 30 1 * 2 ^ 30 + (s.stash t).length)

/-- The conditions of R320, R321 and R322 hold for table t once it is enabled. -/
def State.tblOk (s : State) (t : Nat) : Bool :=
  let s := s.setReg (aTable t) (s.reg (aTable t) ||| 0x80000000)
  let size (t : Nat) : Nat := 4 * s.tblPositions t
  let on := (upto 64).filter (fun u => s.tblEn u)
  10 ≤ s.tblSz t && s.tblSz t ≤ 36 && s.tblBase t % 4096 = 0 && s.tblBase t + size t ≤ 2 ^ 38 &&
    on.all (fun u => u = t || s.tblBase u + size u ≤ s.tblBase t || s.tblBase t + size t ≤ s.tblBase u) &&
    on.foldl (fun a u => a + s.pinned u) 0 ≤ 1792 && (on.filter (fun u => s.tblLpm u)).length ≤ 8

/-- Empty table t: entries, filters, cached slots and their marks (R350). -/
def State.tblEmpty (s : State) (t : Nat) : State :=
  let s := (s.setTbl t {}).modLookup (fun l => { l with
    cache := l.cache.filter (fun e => e.1 ≠ t), ecc := mclear l.ecc (eccKey t 0) (eccKey (t + 1) 0) })
  s.setReg (aTable t + 0x10) 0

/-- The clear of table t goes on at a position, or ends: the E3 of every position is written in turn (R324, R350; log entry 100). -/
def State.clearFrom (s : State) (t pos : Nat) : State :=
  if pos < s.tblPositions t then (s.modTbl t (fun v => { v with clr := some pos })).slotReq t pos 3 true 0 (.clear t)
  else s.modTbl t (fun v => { v with clr := none })

/-- A write of the clear of table t has been accepted, or has failed, which MEMERR of the table counts (log entry 128). -/
def State.clearAnswer (s : State) (t : Nat) (ok : Bool) : State :=
  match (s.tbl t).clr with
  | some pos => (if ok then s else s.tblCount t 8).clearFrom t (pos + 1)
  | none => s

/-- LKSTAT.CFGERR (R351). -/
def State.lkCfgErr (s : State) : State := s.orReg 0xA0004 0x40000000

/-- A write of TBLCFG of table t; the image's tables are checked in the configuration step and cleared in step 9 (R321, R350, R352, R435). -/
def State.writeTblcfg (s : State) (t : Nat) (d : BitVec 32) (image : Bool) : State :=
  let v := d &&& 0xFFF000FF
  let cur := s.reg (aTable t)
  if bit cur 31 then
    if (v ^^^ cur) &&& 0x73F000FF ≠ 0 then s.lkCfgErr
    else
      let was := (cur, s.baseReg t)
      (if bit v 31 then s else s.modTbl t (fun x => { x with was := some was })).setReg (aTable t) v
  else if fld v 28 2 = 3 then s.lkCfgErr
  else if bit v 31 && !image then
    let s' := s.setReg (aTable t) v
    if s.flBusy t || !s'.tblOk t then s.lkCfgErr else ((s'.tblEmpty t).cacheTrim).clearFrom t 0
  else s.setReg (aTable t) v

/-- A write of TBLBASE0, TBLBASE1 or TBLAGE at offset 4, 8 or 0xC: ignored with CFGERR when it changes an enabled table (R352). -/
def State.writeTbl (s : State) (t off : Nat) (d : BitVec 32) (image : Bool) : State :=
  if off = 0 then s.writeTblcfg t d image
  else if off > 0xC then s
  else
    let v := if off = 8 then d &&& 0x3F else d
    if s.tblEn t && v ≠ s.reg (aTable t + off) then s.lkCfgErr else s.setReg (aTable t + off) v

/-- LKCMD as a load reads it (R354). -/
def Cmd.status (c : Cmd) : Nat := b1 c.busy * 2 ^ 31 + b1 c.ovr * 2 ^ 30 + c.rc.toNat * 2 ^ 20

/-- A word of a command slot (R354). -/
def Cmd.word (c : Cmd) (w : Nat) : Word :=
  match w with
  | 0 => c.keyl
  | 1 => c.keyh
  | 2 => c.res
  | 3 => c.ent
  | 4 => wordOf c.status
  | 5 => wordOf c.pos.toNat
  | _ => 0

/-- A load of word `off` of grove g's lookup window; a load of LKCMD clears OVR (R354). -/
def State.readLkWord (s : State) (g off : Nat) : Word × State :=
  if off ≥ 128 then (0, s)
  else
    let k := 1 + 16 * g + off / 8
    ((s.cmd k).word (off % 8), if off % 8 = 4 then s.modCmd k (fun c => { c with ovr := false }) else s)

/-- A store to word `off` of grove g's lookup window (R339, R354). -/
def State.writeLkWord (s : State) (g off : Nat) (d : Word) : State :=
  let k := 1 + 16 * g + off / 8
  let w := off % 8
  if off ≥ 128 || w ≥ 6 then s
  else if (s.cmd k).busy then s.modCmd k (fun c => { c with ovr := true })
  else match w with
    | 0 => s.modCmd k (fun c => { c with keyl := d })
    | 1 => s.modCmd k (fun c => { c with keyh := d })
    | 2 => s.modCmd k (fun c => { c with res := d })
    | 3 => s.modCmd k (fun c => { c with ent := d })
    | 4 => s.acceptCmd k (fld d 0 4) (fld d 8 8) (bit d 29) (fld d 23 6)
    | _ => s.modCmd k (fun c => { c with pos := BitVec.ofNat 37 d.toNat })

/-- A register of the host slot at offset `off` from 0xA0100 (R355). -/
def State.readHostSlot (s : State) (off : Nat) : BitVec 32 :=
  let c := s.cmd 0
  if off < 0x30 then BitVec.ofNat 32 (fld (c.word (off / 12)) (32 * (off / 4 % 3)) (if off / 4 % 3 = 2 then 8 else 32))
  else match off with
    | 0x30 => BitVec.ofNat 32 (fld c.pos 0 32)
    | 0x34 => BitVec.ofNat 32 (fld c.pos 32 5)
    | 0x3C => BitVec.ofNat 32 (c.status + fld (s.reg 0xA013C) 29 1 * 2 ^ 29)
    | _ => 0

/-- A write of the host slot at offset `off`: words are staged and committed by the highest register (R339, R355). -/
def State.writeHostSlot (s : State) (off : Nat) (d : BitVec 32) : State :=
  let a := 0xA0100 + off
  if off = 0x3C then
    let s := s.setReg a (s.reg a &&& ~~~(d &&& 0x20000000))
    if bit d 30 then s.modCmd 0 (fun c => { c with ovr := false }) else s
  else if off > 0x3C then s
  else if (s.cmd 0).busy then s.modCmd 0 (fun c => { c with ovr := true })
  else if off < 0x30 then
    if off / 4 % 3 = 2 then
      let w := wordOf ((mget 0 s.stag (a - 8)).toNat + (mget 0 s.stag (a - 4)).toNat * 2 ^ 32 + fld d 0 8 * 2 ^ 64)
      s.modCmd 0 (fun c => match off / 12 with
        | 0 => { c with keyl := w }
        | 1 => { c with keyh := w }
        | 2 => { c with res := w }
        | _ => { c with ent := w })
    else { s with stag := mput 0 s.stag a d }
  else if off = 0x30 then { s with stag := mput 0 s.stag a d }
  else if off = 0x34 then
    s.modCmd 0 (fun c => { c with pos := BitVec.ofNat 37 ((mget 0 s.stag 0xA0130).toNat + fld d 0 5 * 2 ^ 32) })
  else s.acceptCmd 0 (fld d 0 4) (fld d 8 8) false 0

/-! ## One meaning for each event -/

/-- LOOKUP_REQUEST. -/
def execLookupRequest (g : Fin 8) (s : State) : Host.Outcome State Fault Refusal :=
  .next (match s.peekLink (168 + g.val) with
    | some (.lookup r) => if s.lookup.ready then (s.popLink (168 + g.val)).lkAccept r else s
    | _ => s)

/-- LOOKUP_PROBE_RETURN: the oldest lookup of the thread whose probe has all its words. -/
def execLookupProbeReturn (th : Thid) (s : State) : Host.Outcome State Fault Refusal :=
  .next (match s.lookup.flight.find? (fun e => e.2.th = th.toNat && e.2.mem.isSome && e.2.left = 0) with
    | some (id, v) => (s.probeDone id v).cmdKick
    | none => s)

/-- LOOKUP_RESULT: the answer reaches the thread, if it still waits for this lookup (R332). -/
def execLookupResult (th : Thid) (s : State) : Host.Outcome State Fault Refusal :=
  .next (match s.lookup.flight.find? (fun e => e.2.th = th.toNat && (e.2.result.isSome || e.2.bad.isSome)) with
    | none => s
    | some (id, v) =>
      let s := (s.modLookup (fun l => { l with flight := mdel l.flight id })).cmdKick
      match (s.thread th.toNat).outst with
      | none => s
      | some o =>
        if o.unit ≠ .lookup || o.since ≠ v.since then s
        else match v.bad with
          | some (a, ecc) => s.failLoad th.toNat (if ecc then causeECCU else causeDACC) (some a)
          | none =>
            let hit := v.result.getD none
            s.deliver th.toNat { o with ansP := some hit.isSome } (.word (hit.getD 0)))

def execInsert (sl : LkSlot) (s : State) : Host.Outcome State Fault Refusal := .next (s.cmdRun (lkKey sl) 1)
def execReplace (sl : LkSlot) (s : State) : Host.Outcome State Fault Refusal := .next (s.cmdRun (lkKey sl) 2)
def execDelete (sl : LkSlot) (s : State) : Host.Outcome State Fault Refusal := .next (s.cmdRun (lkKey sl) 3)
def execRead (sl : LkSlot) (s : State) : Host.Outcome State Fault Refusal := .next (s.cmdRun (lkKey sl) 4)
def execTestins (sl : LkSlot) (s : State) : Host.Outcome State Fault Refusal := .next (s.cmdRun (lkKey sl) 5)
def execScan (sl : LkSlot) (s : State) : Host.Outcome State Fault Refusal := .next (s.cmdRun (lkKey sl) 6)
def execFlush (sl : LkSlot) (s : State) : Host.Outcome State Fault Refusal := .next (s.cmdRun (lkKey sl) 7)
def execFrebuild (sl : LkSlot) (s : State) : Host.Outcome State Fault Refusal := .next (s.cmdRun (lkKey sl) 8)

/-- BADOP: OP 0x0 or 0x9 to 0xF. -/
def execBadop (sl : LkSlot) (s : State) : Host.Outcome State Fault Refusal :=
  let op := (s.cmd (lkKey sl)).op.toNat
  .next (if op = 0 || op ≥ 9 then s.cmdRun (lkKey sl) op else s)

def execLookupCommandComplete (sl : LkSlot) (s : State) : Host.Outcome State Fault Refusal := .next (s.cmdComplete sl)

/-- LKCMD_STATUS_READ: the load of LKCMD of slot i by thread th returns the status and clears OVR (R354). -/
def execLkcmdStatusRead (th : Thid) (i : Fin 16) (s : State) : Host.Outcome State Fault Refusal :=
  .next (match (s.thread th.toNat).outst with
    | some o =>
      if o.unit = .window && o.addr.toNat = 0x500000 + 8 * i.val + 4 then
        let r := s.readLkWord (thG th.toNat) (8 * i.val + 4)
        r.2.deliver th.toNat o (.word r.1)
      else s
    | none => s)

def execSweepVisit (s : State) : Host.Outcome State Fault Refusal := .next s.sweepVisit

end Sys2Proof.Machine
end

