-- ==== Sys2Proof/Machine/Rings.lean ====
section
/-!
DEFINITION. The rings: the express lane (R89 to R94, R97), duplicate discard (R93, R326, R348), the health decisions (R95, R96,
R98), and the registers of a ring (R100, R106).
-/
namespace Sys2Proof.Machine

/-! ## Frames on the express lane -/

/-- RINGADDR as a 48-bit number, the first symbol on the wire highest (R106). -/
def State.ringAddr (s : State) (r : Nat) : Nat := (s.reg (aRing r + 8)).toNat + fld (s.reg (aRing r + 0xC)) 0 16 * 2 ^ 32

/-- The address that six symbols spell, the first one highest; a control symbol spells none. -/
def addrOf (l : List (BitVec 9)) : Option Nat :=
  if l.any (fun x => bit x 8) then none else some (l.foldl (fun a x => a * 256 + x.toNat) 0)

/-- The lanes of a word from i on. -/
def lanesOf (w : Word) : List (BitVec 9) := (upto 8).map (fun i => lane w i)

/-- An express frame: its words with word 0, its symbols from the destination address to the FCS, and how it ends. -/
structure XIn where
  words  : List Word
  syms   : List (BitVec 9)
  errEnd : Bool
  da     : List (BitVec 9)
  sa     : List (BitVec 9)
  typeOk : Bool
  seq    : Nat
  deriving DecidableEq, Repr

/-- Read the words of a frame: a start symbol, at least one word more, and the first control symbol of a later word in the last
word (R89, R94). -/
def readX (words : List Word) : Option XIn :=
  match words with
  | w0 :: rest =>
    match rest.reverse with
    | last :: front =>
      if lane w0 0 ≠ 0x1FB || lowK last = 8 || front.any (fun w => lowK w ≠ 8) then none
      else
        let body := (front.reverse).flatMap lanesOf
        let syms := body ++ (lanesOf last).take (lowK last)
        let all := rest.flatMap lanesOf
        some {
          words := words, syms := syms, errEnd := lane last (lowK last) = 0x1FE
          da := all.take 6, sa := (all.drop 6).take 6
          typeOk := (all.drop 12).take 2 = [0x089, 0x02F]
          seq := ((all[16]?.getD 0).toNat % 256) * 256 + (all[17]?.getD 0).toNat % 256 }
    | [] => none
  | [] => none

/-- The FCS of the frame matches its last four symbols (R94). -/
def XIn.fcsOk (x : XIn) : Bool :=
  let b : List Byte := x.syms.map (fun v => v.setWidth 8)
  let n := b.length - 4
  4 ≤ b.length && leBytes 4 (crc32 (b.take n)) = b.drop n

/-- A line break is declared for the port on side B (true) or A of ring r. -/
def Ring.broken (v : Ring) (sideB : Bool) : Bool := if sideB then v.breakB else v.breakA

/-- An express frame leaves for port e (R90, R92). -/
def State.forward (s : State) (e r : Nat) (dir : Bool) (x : XIn) (words : List Word) (frag : Bool) : State :=
  let f : XFrame := { words := words, started := false, frag := frag, ring := r, dir := dir, seq := x.seq, syms := x.syms.length,
                      ets := 0 }
  s.modPort e (fun q => { q with lane := q.lane ++ [f] })

/-- Write the words of a copy into the buffer: the frame so far, and the reason of a discard (R33 to R35, R93). -/
def State.copyIn (s : State) (p : Nat) : Frame → List Word → Frame × Option Nat × State
  | f, [] => (f, none, s)
  | f, w :: ws =>
    if 8 * f.nwords > s.maxLen p then (f, some 1, s)
    else match s.bufWord p f w with
      | none => (f, some 0, s)
      | some (f', s) =>
        let s := if f.nwords = 0 then s.modPort p (fun q => { q with infl := q.infl + 1 }) else s
        s.copyIn p f' ws

/-- A copy is passed on to sequence assignment (R93), in the place that it has held since it ended (R40). -/
def State.passCopy (s : State) (r : Nat) (its : Word) : State := s.countAt (0x13000 + 0x40 * r + 0x18) its

/-- The key of R326. -/
def dupKey (x : XIn) (r : Nat) : BitVec 144 :=
  BitVec.ofNat 144 (r * 2 ^ 64 + x.seq * 2 ^ 48 + x.sa.foldl (fun a v => a * 256 + v.toNat % 256) 0)

/-- An express copy is written to the buffer as a frame of its own (R93): without word 0, which holds no symbol of the frame. It ends
at the trunk with its last word; one whose duplicate check is still open keeps its place in the order until the answer (R40). -/
def State.expressCopy (s : State) (p r : Nat) (x : XIn) (err : Bool) : State :=
  let cls := fld (s.reg (aRing r)) 27 3
  let its := s.stamp (6 + p / 32)
  let words := (x.words.drop 1).take (wordsOf x.syms.length)
  let (f, why, s) := s.copyIn p { cells := [], nwords := 0, its := its, last := 0, dead := false } words
  let why := if why.isNone && x.syms.length > s.maxLen p then some 1 else why
  match why with
  | some reason =>
    let s := (s.freeCells p f.cells).countAt (aIng p (reason + 1)) its
    let s := if f.nwords = 0 then s else s.inflDown p
    s.idisc p (some cls) reason 0 x.syms.length its
  | none =>
    match f.cells with
    | [] => s
    | first :: _ =>
      let k : Packet := { cells := f.cells, len := x.syms.length, its := its, err := err, ring := r, src := 1, cls := cls,
                          port := p, live := 0 }
      let s := (s.modTrunk (fun t => { t with pkts := mins t.pkts first k, ended := t.ended ++ [first] })).countAt (aIng p 0) its
      if bit (s.reg (aRing r + 0x10)) 15 && !err then
        s.modRing r (fun v => { v with ddq := v.ddq ++ [{ port := p, key := dupKey x r, cell := first }] })
      else s.passCopy r its

/-- The counters and the observation of an errored frame (R94, R107). -/
def State.errored (s : State) (p r : Nat) : State :=
  (s.countAt (0x13000 + 0x40 * r + 0x38) (s.stamp (6 + p / 32))).modPort p (fun q => { q with obs := { q.obs with bad := q.obs.bad + 1 } })

/-- The first symbols of a frame decide: forwarding on word 1, the checks on word 2 (R90, R91, R96). The result says whether the
frame was cut off. -/
def State.route (s : State) (r p : Nat) (x : XIn) : Bool × State :=
  let fromB := p = s.portB r
  let e := if fromB then s.portA r else s.portB r
  let brk := (s.ring r).broken (!fromB)
  let own := s.ringAddr r
  let w0 := x.words.head?.getD 0
  let w1 := (x.words.drop 1).head?.getD 0
  let st := s.stamp (6 + p / 32)
  if addrOf x.da = some own then
    let q := s.port e
    if !brk && s.rate10 p < 250 && q.lane = [] && !q.sending then
      (false, s.forward e r fromB x [w0, termWord] true)
    else (false, s)
  else if brk then (false, s.countAt (0x13000 + 0x40 * r + 0x28) st)
  else if x.words.length > 2 && !x.typeOk then
    (true, (s.countAt (0x13000 + 0x40 * r + 8) st).forward e r fromB x [w0, w1, termWord] true)
  else if x.words.length > 2 && addrOf x.sa = some own then
    (true, (s.countAt (0x13000 + 0x40 * r + 0x10) st).forward e r fromB x [w0, w1, termWord] true)
  else (false, s.forward e r fromB x x.words false)

/-- EXPRESS_FRAME: the lane takes one frame that arrived on port p (R90 to R94). -/
def State.express (s : State) (p : Nat) (words : List Word) : State :=
  match (upto 16).find? (fun r => s.laneActive r && (s.portA r = p || s.portB r = p)), readX words with
  | some r, some x =>
    if !s.portOn p || s.start.phase = .safe then s
    else
      let c := s.route r p x
      let s := c.2
      let bad := !x.fcsOk || x.errEnd
      let s := if bad || c.1 || x.syms.length < 64 then s.errored p r else s
      let group := bit (x.da.head?.getD 0) 0 && !bit (x.da.head?.getD 0) 8
      if !c.1 && s.dispOn && (addrOf x.da = some (s.ringAddr r) || group) then s.expressCopy p r x bad else s
  | _, _ => s

/-! ## Duplicate discard -/

/-- The answer of the check: EXISTS discards the copy, OK passes it on, and so does an error, which LKDDERR counts (R348). -/
def State.dupResolve (s : State) (r : Nat) (d : DdCopy) : State :=
  let rc := (s.cmd (ringKey r)).rcN
  let s := (s.cmdEnd (ringKey r)).modRing r (fun v => { v with ddq := v.ddq.tail })
  let k := mfind s.trunk.pkts d.cell
  let its := match k with | some k => k.its | none => s.stamp (6 + d.port / 32)
  if rc = 2 then
    let s := s.countAt (0x13000 + 0x40 * r + 0x20) its
    let s := match k with
      | some k => s.idisc d.port (some k.cls) 3 r k.len k.its
      | none => s
    ((s.modTrunk (fun t => { t with ended := t.ended.filter (fun c => c ≠ d.cell) })).releasePkt d.cell).inflDown d.port
  else if rc = 0 then s.passCopy r its
  else (s.count 0xA0018).passCopy r its

/-- DUPLICATE_DISCARD_REQUEST: the oldest copy of ring r that waits is looked up and inserted; a request that waits for memory is
carried on by the next such event (R326, R348). -/
def State.dupRequest (s : State) (r : Nat) : State :=
  match (s.ring r).ddq with
  | [] => s
  | d :: _ =>
    let k := ringKey r
    let s :=
      if (s.cmd k).busy then s
      else
        (s.modCmd k (fun c => { c with
          keyl := d.key.setWidth 72, keyh := (d.key >>> 72).setWidth 72, res := 0, ent := wordOf (144 * 2 ^ 62) })).acceptCmd
          k 5 (fld (s.reg (aRing r + 0x10)) 0 8) false 0
    let s := s.cmdRun k 5
    if (s.cmd k).complete then s.dupResolve r d else s

/-! ## Opening, closing and health -/

/-- The express lane of ring r opens: the output is driven from then on (R100). -/
def State.openLane (s : State) (r : Nat) : State :=
  (s.modRing r (fun v => { v with lane := true, attach := if v.attach = .z then .low else v.attach })).ringAttach r

/-- The frames of ring r that leave port e are cut off: the one on the lanes ends with a terminate word, the waiting ones go
(R97). -/
def State.cutLane (s : State) (e r : Nat) : State :=
  s.modPort e (fun q => { q with lane := (q.lane.filter (fun x => x.ring ≠ r || x.started)).map (fun x =>
    if x.ring = r then { x with words := [termWord], frag := true } else x) })

/-- The express lane of ring r closes (R97). -/
def State.closeLane (s : State) (r : Nat) : State :=
  ((((s.modRing r (fun v => { v with lane := false })).cutLane (s.portA r) r).cutLane (s.portB r) r)).ringAttach r

/-- RINGCFG.EN 1 with these ports is allowed (R89). -/
def State.ringOk (s : State) (r : Nat) (v : BitVec 32) : Bool :=
  let a := fld v 8 7
  let b := fld v 16 7
  a ≠ b && !s.pinMode a && !s.pinMode b && fld (s.pecfg a) 28 3 = fld (s.pecfg b) 28 3 &&
    (upto 16).all (fun q => q = r || !s.ringEn q ||
      !(s.portA q = a || s.portA q = b || s.portB q = a || s.portB q = b))

/-- A write of RINGCFG: refused with CFGERR, or in force at once; EN opens or closes the lane (R89, R97, R100). Model's choice, log
entry 86: a write that changes PORTA or PORTB while EN stays 1 leaves the lane open, frames on their way go on at the old ports, and
declared conditions keep their counts. -/
def State.writeRingcfg (s : State) (r : Nat) (d : BitVec 32) (image : Bool) : State :=
  let v := d &&& 0xF87F7FFF
  let was := s.ringEn r
  if image then s.setReg (aRing r) v
  else if bit v 31 && !s.ringOk r v then s.orReg (aRing r + 0x14) 0x4000000
  else if was && !bit v 31 then (s.closeLane r).setReg (aRing r) v |>.ringAttach r
  else
    let s := s.setReg (aRing r) v
    if !was && bit v 31 && s.start.phase = .service then s.openLane r else s.ringAttach r

/-- The other registers of a ring (R106). -/
def State.writeRing (s : State) (r off : Nat) (d : BitVec 32) (image : Bool) : State :=
  match off with
  | 0 => s.writeRingcfg r d image
  | 4 => s.setReg (aRing r + 4) (d &&& 0xFFFF)
  | 8 => s.setReg (aRing r + 8) d
  | 0xC => s.setReg (aRing r + 0xC) (d &&& 0xFFFF)
  | 0x10 => s.setReg (aRing r + 0x10) (d &&& 0x80FF)
  | 0x14 => s.setReg (aRing r + 0x14) (s.reg (aRing r + 0x14) &&& ~~~(d &&& 0x4000000))
  | _ => s

/-- The smallest count of clean ticks among the declared conditions (R98, R106). -/
def Ring.clean (v : Ring) : Nat :=
  let l := (if v.faultA then [v.cleanFA] else []) ++ (if v.faultB then [v.cleanFB] else []) ++
    (if v.breakA then [v.cleanBA] else []) ++ (if v.breakB then [v.cleanBB] else [])
  match l with
  | [] => 0
  | x :: xs => min 255 (xs.foldl min x)

/-- RINGSTAT (R106). -/
def State.ringStat (s : State) (r : Nat) : BitVec 32 :=
  let v := s.ring r
  BitVec.ofNat 32 (b1 (v.attach = .high) * 2 ^ 31 + b1 v.faultA * 2 ^ 30 + b1 v.faultB * 2 ^ 29 + b1 v.breakA * 2 ^ 28 +
    b1 v.breakB * 2 ^ 27 + fld (s.reg (aRing r + 0x14)) 26 1 * 2 ^ 26 + v.clean)

/-- One condition at a boundary: whether it is declared after it, its clean count, and whether that is a change (R95, R98). -/
def judge (bad declared : Bool) (clean up : Nat) : Bool × Nat × Bool :=
  if bad then (true, 0, !declared)
  else if declared then if clean + 1 ≥ up then (false, 0, true) else (true, clean + 1, false)
  else (false, 0, false)

/-- A condition of ring r on a side changes: BREAKS and the RING event (R96, R369). -/
def State.condChange (s : State) (r : Nat) (sideB fault : Bool) (j : Bool × Nat × Bool) : State :=
  if !j.2.2 then s
  else
    let s := if j.1 then s.count (0x13000 + 0x40 * r + 0x30) else s
    s.event 0 0x0A (r * 2 ^ 24 + b1 sideB * 2 ^ 23 + b1 fault * 2 ^ 22 + b1 j.1 * 2 ^ 21) []

/-- Port p had a port fault in the tick that has ended (R95). -/
def State.portFault (s : State) (p : Nat) : Bool := (s.port p).last.down || (s.port p).last.err

/-- Port p of ring r had a line break in the tick that has ended (R95), under the ERRMAX that held at its end (R29). -/
def State.lineBreak (s : State) (p r : Nat) : Bool :=
  (s.port p).last.link || (s.port p).last.bad > fld (s.treg (aRing r + 4)) 0 16

/-- The health decision of ring r at a tick boundary (R95 to R98). R29 leaves open whether an ERRMAX or a HEALTHUP written during the
ended tick judges that tick: here it does (log entry 58). While RINGCFG.EN is 0 the declared conditions and their counts stand still
(log entry 106). -/
def State.ringHealth (s : State) (r : Nat) : State :=
  if !s.ringEn r then s
  else
    let v := s.ring r
    let up := max 1 (fld (s.treg (aRing r)) 0 8)
    let fa := judge (s.portFault (s.portA r)) v.faultA v.cleanFA up
    let fb := judge (s.portFault (s.portB r)) v.faultB v.cleanFB up
    let ba := judge (s.lineBreak (s.portA r) r) v.breakA v.cleanBA up
    let bb := judge (s.lineBreak (s.portB r) r) v.breakB v.cleanBB up
    let s := s.setRing r { v with
      faultA := fa.1, faultB := fb.1, breakA := ba.1, breakB := bb.1
      cleanFA := fa.2.1, cleanFB := fb.2.1, cleanBA := ba.2.1, cleanBB := bb.2.1 }
    let s := ((((s.condChange r false true fa).condChange r true true fb).condChange r false false ba).condChange r true false bb)
    s.ringAttach r

/-- The health of ring r is decided: from time acquisition in step 10 of a start on, and through all of a warm start for a ring that
it keeps (R95, R100). -/
def State.ringJudged (s : State) (r : Nat) : Bool :=
  s.start.phase = .init0 || s.start.phase = .init1 || s.start.phase = .service || s.keptRings.contains r

/-- The rings at a tick boundary. -/
def State.ringTick (s : State) : State := (upto 16).foldl (fun s r => if s.ringJudged r then s.ringHealth r else s) s

/-! ## One meaning for each event -/

def execExpressFrame (p : Fin 128) (words : List Word) (s : State) : Host.Outcome State Fault Refusal :=
  .next (s.express p.val words)
def execDuplicateDiscardRequest (r : Fin 16) (s : State) : Host.Outcome State Fault Refusal := .next (s.dupRequest r.val)

end Sys2Proof.Machine
end

