-- ==== Sys2Proof/Machine/Timers.lean ====
section
/-!
DEFINITION. The timer channels of the groves (R378 to R386, R389): compares, actions and captures. TCTL, TCAPCFG and the sticky bits of
TSTAT are in the register map.
-/
namespace Sys2Proof.Machine

/-! ## Outputs -/

/-- Grove output i takes a level: a change is an edge at the channels that capture it, in the grove cycle that follows (R381, R382). -/
def State.setGout (s : State) (g i : Nat) (level : Bool) : State :=
  if bit (s.grove g).gout i = level then s
  else
    let s := s.modGrove g (fun v => { v with gout := setBit v.gout i level })
    (upto 32).foldl (fun s k =>
      let cfg := s.reg (aTimer g k + 4)
      if !bit cfg 28 && fld cfg 15 4 = i then s.captureEdge g k .next level else s) s

/-- The level that an action gives: 1 high, 2 low, 3 the other one (R381). -/
def actLevel (act : Nat) (now : Bool) : Bool := if act = 1 then true else if act = 2 then false else !now

/-- The action of a match: a grove output at once, a pin by a message to its port island, and the interrupt line (R381). -/
def State.timAction (s : State) (g k : Nat) : State :=
  let c := s.tctl g k
  let act := fld c 22 2
  let s :=
    if act = 0 then s
    else if bit c 21 then
      let p := fld c 14 7
      s.push (160 + p / 32) (.pin p (fld c 12 2) act g k)
    else s.setGout g (fld c 8 4) (actLevel act (bit (s.grove g).gout (fld c 8 4)))
  if bit c 7 then s.setLine (thid g (fld c 24 5) (fld c 0 4)) (fld c 4 3) true else s

/-- The channel matches: MATCHF, the action, and it disarms (R379). -/
def State.timMatch (s : State) (g k : Nat) : State :=
  ((s.tstat g k 30).timAction g k).modTimer g k (fun t => { t with armed := false, due := false })

/-! ## The compare -/

/-- Evaluate the compare of an armed channel against the count: a match now, later, or LATE (R380). -/
def State.timCompare (s : State) (g k : Nat) : State :=
  let d := (s.timer g k).cmp - s.timCount g k
  if d = 0 then if s.timFrozen g k then s.modTimer g k (fun t => { t with due := true }) else s.timMatch g k
  else if d.toNat < 2 ^ 63 then s.modTimer g k (fun t => { t with due := false })
  else (s.tstat g k 29).modTimer g k (fun t => { t with armed := false, due := false })

/-- ARM (R379, R380). -/
def State.timArm (s : State) (g k : Nat) : State := (s.modTimer g k (fun t => { t with armed := true })).timCompare g k

/-- DISARM (R379). -/
def State.timDisarm (s : State) (g k : Nat) : State := s.modTimer g k (fun t => { t with armed := false, due := false })

/-- TIMER_MATCH: a private count stands at TCMP, or ABS has reached it (R379). -/
def State.timDue (s : State) (g k : Nat) : Bool :=
  let t := s.timer g k
  t.armed && !s.timFrozen g k &&
    (if fld (s.tctl g k) 30 2 = 3 then (s.timCount g k - t.cmp).toNat < 2 ^ 63 else t.due)

/-- The ABS channels that a step of Block Time carries to or past TCMP match in it, with STEPPED (R380). -/
def State.timersStepped (s : State) (d : Nat) : State :=
  (s.groves.map (·.1)).foldl (fun s g =>
    ((s.grove g).timers.map (·.1)).foldl (fun s k =>
      let t := s.timer g k
      let before := (t.cmp - BitVec.ofNat 64 (nsOf (s.copyOf (10 + g) - d))).toNat
      if s.groveOn g && t.armed && fld (s.tctl g k) 30 2 = 3 && 0 < before && before < 2 ^ 63 && s.timDue g k then
        (s.tstat g k 26).timMatch g k
      else s) s) s

/-! ## Capture -/

/-- TCAP is loaded, and CAPF set, or OVR where it is set already (R382). -/
def State.timLoad (s : State) (g k : Nat) (rest : List Edge) (v : BitVec 64) : State :=
  let t := s.timer g k
  let s := if t.capf then s.tstat g k 27 else s
  s.setTimer g k { t with edges := rest, cap := v, capf := true }

/-- TIMER_CAPTURE: the oldest edge that has reached the channel loads TCAP; an edge of a grove output waits for the cycle after the
change (R382, R385). -/
def State.timCapture (s : State) (g k : Nat) : State :=
  let t := s.timer g k
  match t.edges with
  | .pin ns :: rest =>
    if s.timFrozen g k then s.setTimer g k { t with edges := rest }
    else s.timLoad g k rest (if fld (s.tctl g k) 30 2 = 3 then BitVec.ofNat 64 ns else s.timCount g k)
  | .counted v :: rest => s.timLoad g k rest v
  | _ => s

/-! ## Registers -/

/-- TCMP commits with the channel's staged low word, which TCNT shares, and is evaluated when the channel is armed (R380, R386). -/
def State.writeTcmp (s : State) (g k : Nat) (d : BitVec 32) : State :=
  let v := BitVec.ofNat 64 ((mget 0 s.stag (aTimer g k + 0x10)).toNat + d.toNat * 2 ^ 32)
  let s := s.modTimer g k (fun t => { t with cmp := v })
  if (s.timer g k).armed then s.timCompare g k else s

/-- TCNT commits, or is refused with ACTERR while the channel is armed; ABS ignores it (R378, R384, R386). -/
def State.writeTcnt (s : State) (g k : Nat) (d : BitVec 32) : State :=
  if (s.timer g k).armed then s.tstat g k 25
  else if fld (s.tctl g k) 30 2 = 3 then s
  else s.modTimer g k (fun t => { t with cnt := BitVec.ofNat 64 ((mget 0 s.stag (aTimer g k + 0x10)).toNat + d.toNat * 2 ^ 32) })

/-- TARM (R379). With both bits set the spec gives no order: which of the two stands at the end is a free value. -/
def State.writeTarm (s : State) (g k : Nat) (d : BitVec 32) : State :=
  if bit d 0 && bit d 1 then
    let (v, s) := s.fresh
    if Config.freeField v % 2 = 0 then (s.timArm g k).timDisarm g k else (s.timDisarm g k).timArm g k
  else if bit d 0 then s.timArm g k
  else if bit d 1 then s.timDisarm g k
  else s

/-- GOUT: the outputs take the written levels as a match gives them (R389). -/
def State.writeGout (s : State) (g : Nat) (d : BitVec 32) : State := (upto 16).foldl (fun s i => s.setGout g i (bit d i)) s

/-- TCAP has been read: CAPF clears (R383). -/
def State.readTcap (s : State) (g k : Nat) : State := s.modTimer g k (fun t => { t with capf := false })

/-- A write of the timer unit at an offset below 0x900 (R389). -/
def State.writeTimer (s : State) (g off : Nat) (d : BitVec 32) : State :=
  let a := aTimers g + off
  if off = 0x800 then s.writeGout g d
  else if off ≥ 0x800 then s
  else
    let k := off / 0x40
    match off % 0x40 with
    | 0x00 => s.setReg a d
    | 0x04 => if fld d 29 2 = 3 then s else s.setReg a (d &&& 0xFFFF8000)
    | 0x08 => s.writeTarm g k d
    | 0x0C => s.setReg a (s.reg a &&& ~~~(d &&& 0x6E000000))
    | 0x10 | 0x18 => { s with stag := mput 0 s.stag (aTimer g k + 0x10) d }
    | 0x14 => s.writeTcnt g k d
    | 0x1C => s.writeTcmp g k d
    | _ => s

/-- TSTAT (R389). -/
def State.readTstat (s : State) (g k : Nat) : BitVec 32 :=
  let t := s.timer g k
  (s.reg (aTimer g k + 0xC)) ||| BitVec.ofNat 32 (b1 t.armed * 2 ^ 31 + b1 t.capf * 2 ^ 28 + b1 (s.timFrozen g k) * 2 ^ 24)

/-- TIMER_PIN_ACTION: an action reaches port island k: the level of an output pin changes, or ACTERR is set (R381, R415). -/
def State.timPin (s : State) (k : Nat) : State :=
  match s.peekLink (160 + k) with
  | some (.pin p pin act g ch) =>
    let s := s.popLink (160 + k)
    if s.portOn p && s.pinMode p then
      s.modPort p (fun q => { q with pinOut := setBit q.pinOut pin (actLevel act (bit q.pinOut pin)) })
    else s.tstat g ch 25
  | _ => s

/-! ## One meaning for each event -/

def execTimerMatch (g : Fin 8) (k : Fin 32) (s : State) : Host.Outcome State Fault Refusal :=
  .next (if s.groveOn g.val && s.timDue g.val k.val then s.timMatch g.val k.val else s)
def execTimerPinAction (k : Fin 4) (s : State) : Host.Outcome State Fault Refusal := .next (s.timPin k.val)
def execTimerCapture (g : Fin 8) (k : Fin 32) (s : State) : Host.Outcome State Fault Refusal :=
  .next (if s.groveOn g.val then s.timCapture g.val k.val else s)

end Sys2Proof.Machine
end

