-- ==== Sys2Proof/Machine/Recorder.lean ====
section
/-!
DEFINITION. The Llynon paths (R21, R410) and the event recorder (R370 to R376, R388): staging, the region, tick boundaries and
the registers.
-/
namespace Sys2Proof.Machine

/-! ## Llynon -/

/-- A message crosses its link: the oldest one sent enters the receive buffer, in which the sender's credits keep a place for it (R21,
R410). -/
def State.linkDeliver (s : State) (k : Nat) : State :=
  let l := s.link k
  match l.out with
  | [] => s
  | m :: rest => s.setLink k { l with out := rest, buf := l.buf ++ [m] }

/-! ## Staging -/

def State.modRec (s : State) (f : Recorder → Recorder) : State := { s with recd := f s.recd }

/-- Words of a head record with its continuations. -/
def Rec.size (r : Rec) : Nat := 2 * r.words.length

/-- Words in the staging buffer: staged, or written and not yet accepted (R373). -/
def Recorder.occ (v : Recorder) : Nat := v.staged.foldl (fun a r => a + r.size) 0 + v.outst.foldl (fun a e => a + e.2) 0

/-- Nothing is staged and no write is outstanding (R388). -/
def Recorder.idle (v : Recorder) : Bool := v.staged = [] && v.outst = []

/-- A head record is lost, with its continuations (R370, R373). -/
def State.recLost (s : State) (ctrl : Bool) : State :=
  if ctrl then (s.count 0xE0068).modRec (fun v => { v with lostC := v.lostC + 1 })
  else (s.count 0xE0060).modRec (fun v => { v with lostP := v.lostP + 1 })

/-- A record arrives: it is staged, or lost when its part of the buffer is full (R373). -/
def State.recStage (s : State) (r : Rec) : State :=
  let room := if r.ctrl then 65536 else 61440
  if s.recd.occ + r.size > room then s.recLost r.ctrl
  else s.modRec (fun v => { v with staged := v.staged ++ [r], inSeq := v.inSeq + 1 })

/-! ## Writing the region -/

/-- NREC and RECBASE (R371). -/
def State.nrec (s : State) : Nat := fld (s.reg 0xE0010) 0 20 * 2048
def State.recBase (s : State) : Nat := (s.reg 0xE0008).toNat + fld (s.reg 0xE000C) 0 7 * 2 ^ 32

/-- The records at position p and after fit the region under WRAP, which R375 does not defer, and RECRD (R372). -/
def State.recFits (s : State) (n : Nat) : Bool :=
  s.nrec ≠ 0 && (bit (s.reg 0xE0000) 29 || s.recd.ptr + n ≤ s.recd.rd + s.nrec)

/-- The word addresses and data of the records from position p (R371). -/
def State.recWords (s : State) (p : Nat) : List (Word × Word) → List (Nat × Word)
  | [] => []
  | (a, b) :: rest =>
    let ea := s.recBase + 2 * (p % max 1 s.nrec)
    (ea, a) :: (ea + 1, b) :: s.recWords (p + 1) rest

/-- The boundaries whose records are all out of the stage take their position (R374). -/
def Recorder.place (v : Recorder) : Recorder :=
  { v with bounds := v.bounds.map (fun b =>
      if b.pos.isNone && b.awaited = [] && b.cover ≤ v.outSeq then { b with pos := some v.ptr } else b) }

/-- The key of head record n among the words not yet accepted. -/
def recKey (n : Nat) (ctrl : Bool) : Nat := 3 * n + if ctrl then 1 else 2

/-- Write a head record with its continuations at RECPTR, under key n (R370 to R372). -/
def State.recPut (s : State) (n : Nat) (ctrl : Bool) (pairs : List (Word × Word)) : State :=
  let ws := s.recWords s.recd.ptr pairs
  let s := ws.foldl (fun (s : State) w => s.memSend
    { cls := 1, write := true, ea := w.1, mask := 0xFF, data := w.2, src := .recorder n ctrl, since := 0 }) s
  s.modRec (fun v => { v with ptr := v.ptr + pairs.length, outst := mput 0 v.outst n (mget 0 v.outst n + ws.length) })

/-- Every word of the records has a place in its port's queue (R398). -/
def State.recRoom (s : State) (pairs : List (Word × Word)) : Bool :=
  (s.recWords s.recd.ptr pairs).all (fun w => s.memRoom w.1 1 true)

/-- The RECLOSS event with the losses since the last one (R369, R373). -/
def State.lossPairs (s : State) : List (Word × Word) :=
  let q := mget 0 s.recd.seqs 5
  let src := s.srcid 5
  [(s.stamp 5, recWord 5 src q (0x0D * 2 ^ 28 + min s.recd.lostP 0xFFFFFFF)),
   (wordOf s.recd.lostC, recWord 0xF src q (2 ^ 34))]

/-- A RECLOSS event is due. -/
def Recorder.lossOpen (v : Recorder) : Bool := v.lossDue || v.lostP ≠ 0 || v.lostC ≠ 0

/-- The RECLOSS event is written: the losses begin anew, and IRQEV.RLOSS is set (R373, R490). -/
def State.recLoss (s : State) : State :=
  (s.recPut (3 * s.recd.outSeq) true s.lossPairs).modRec (fun v => { v with
    lostP := 0, lostC := 0, lossDue := false, seqs := mput 0 v.seqs 5 ((mget 0 v.seqs 5 + 1) % 65536) }) |>.orReg 0x2000C 4

/-- The oldest staged record leaves the stage: it is written, or it is lost when the region cannot take it or `lose` says so (R372,
R373). -/
def State.recHead (s : State) (lose : Bool) : State :=
  match s.recd.staged with
  | [] => s
  | r :: rest =>
    let out (s : State) : State := s.modRec (fun v => Recorder.place { v with staged := rest, outSeq := v.outSeq + 1 })
    if lose || !s.recFits r.words.length then out (s.recLost r.ctrl)
    else if !s.recRoom r.words then s
    else out (s.recPut (recKey s.recd.outSeq r.ctrl) r.ctrl r.words)

/-- RECORD_WRITE: while a loss is open a RECLOSS event comes before any other record. It waits for space in the stage as long as
writes are outstanding; a staged record that finds no place in the region behind it is lost. With MODE OFF it is written only before
a record that is staged (R372, R373; log entry 93). -/
def State.recWrite (s : State) : State :=
  let v := s.recd
  if v.lossOpen && (v.modeA ≠ 0 || v.staged ≠ []) then
    if !s.recFits 2 then s.recHead true
    else if (v.occ + 4 > 65536 && v.outst ≠ []) || !s.recRoom s.lossPairs then s
    else s.recLoss
  else s.recHead false

/-- A word has been accepted, or its write has failed: the records of that head count once as lost (R373, R401). -/
def State.recAnswer (s : State) (n : Nat) (ctrl ok : Bool) : State :=
  let s := s.modRec (fun v => { v with outst := mput 0 v.outst n (mget 0 v.outst n - 1) })
  let s := if ok || s.recd.failed.contains n then s
    else (s.recLost ctrl).modRec (fun v => { v with failed := n :: v.failed })
  if mget 0 s.recd.outst n = 0 then s.modRec (fun v => { v with failed := v.failed.filter (· ≠ n) }) else s

/-! ## Boundaries -/

/-- An island's marker has arrived at a boundary; with the last one the records staged so far are those to write (R374). -/
def Bound.arrive (b : Bound) (i inSeq : Nat) : Bound :=
  if b.awaited.contains i then
    let left := b.awaited.filter (· ≠ i)
    { b with awaited := left, cover := if left = [] then inSeq else b.cover }
  else b

/-- BOUNDARY_MARKER: the marker at the head of the island's link; a marker of leaving ON stands for every boundary (R374). -/
def State.recMarker (s : State) (i : Nat) : State :=
  match s.peekLink (176 + i) with
  | some (.marker n) =>
    (s.popLink (176 + i)).modRec (fun v => Recorder.place { v with
      bounds := v.bounds.map (fun b => if b.tick = n then b.arrive i v.inSeq else b) })
  | some .leave =>
    (s.popLink (176 + i)).modRec (fun v => Recorder.place { v with bounds := v.bounds.map (fun b => b.arrive i v.inSeq) })
  | _ => s

/-- RECORDER_COMMIT: the oldest boundary whose records are all written and accepted (R374). -/
def State.recCommit (s : State) : State :=
  match s.recd.bounds with
  | [] => s
  | b :: rest =>
    match b.pos with
    | none => s
    | some p =>
      if s.recd.outst.any (fun e => e.1 < 3 * b.cover) then s
      else s.modRec (fun v => { v with bounds := rest, commit := p, ctick := BitVec.ofNat 32 (b.tick - 1) })

/-- The islands that are ON at a boundary and send a marker (R374). -/
def State.recIslands (s : State) : List Nat := (upto 18).filter (fun i => i ≠ 2 && s.islandUp i)

/-- The boundary that starts tick n, which the first island that is ON opens: the recorder waits for the islands that are ON (R374). -/
def State.recOpen (s : State) (n : Nat) : State :=
  if n ≤ s.recd.opened then s
  else
    let on := s.recIslands
    s.modRec (fun v => Recorder.place { v with
      opened := n
      bounds := v.bounds ++ [{ tick := n, awaited := on, cover := if on = [] then v.inSeq else 0, pos := none }] })

/-- An island leaves ON: its marker follows its last record (R374). -/
def State.recLeave (s : State) (i : Nat) : State :=
  ({ s with time := { s.time with marks := s.time.marks.filter (fun m => m.1 ≠ i) } } : State).push (176 + i) .leave

/-- The settings that RECCTL and RECSEL hold become active (R29, R375). -/
def State.recActivate (s : State) : State :=
  let c := s.reg 0xE0000
  s.modRec (fun v => { v with
    modeA := c.extractLsb' 30 2, ctlA := c
    selA := (upto 4).foldl (fun m k => mput 0 m k (s.reg (0xE0020 + 4 * k))) v.selA })

/-! ## Registers -/

/-- RECSTAT.RECERR (R375). -/
def State.recErr (s : State) : State := s.orReg 0xE0014 0x10000000

/-- A write of RECID, RECBASE0, RECBASE1 or RECSIZE at its offset: only with the active MODE OFF and IDLE (R375). -/
def State.writeRegion (s : State) (off : Nat) (d : BitVec 32) (image : Bool) : State :=
  let v := match off with
    | 0x04 => d &&& 0x7FF
    | 0x0C => d &&& 0x7F
    | 0x10 => d &&& 0xFFFFF
    | _ => d
  if image then s.setReg (0xE0000 + off) v
  else if s.recd.modeA ≠ 0 || !s.recd.idle then s.recErr
  else
    let s := s.setReg (0xE0000 + off) v
    if off = 4 then s else s.modRec (fun r => { r with ptr := 0, rd := 0, commit := 0 })

/-- RECRD's high register commits the read position (R372, R388). -/
def State.writeRecrd (s : State) (d : BitVec 32) : State :=
  s.modRec (fun v => { v with rd := (mget 0 s.stag 0xE0048).toNat + d.toNat * 2 ^ 32 })

/-- A write of a recorder register at an offset from M:0x000E_0000 (R388). -/
def State.writeRecorder (s : State) (off : Nat) (d : BitVec 32) (image : Bool) : State :=
  let a := 0xE0000 + off
  if off = 0 then s.setReg a (d &&& 0xF80000FF)
  else if off = 4 || off = 8 || off = 0xC || off = 0x10 then s.writeRegion off d image
  else if off = 0x14 then s.setReg a (s.reg a &&& ~~~(d &&& 0x10000000))
  else if 0x20 ≤ off && off < 0x30 then s.setReg a d
  else if off = 0x48 then { s with stag := mput 0 s.stag a d }
  else if off = 0x4C then s.writeRecrd d
  else s

/-- RECSTAT (R388). -/
def State.recStat (s : State) : BitVec 32 :=
  BitVec.ofNat 32 (b1 s.recd.idle * 2 ^ 31 + s.recd.modeA.toNat * 2 ^ 29 + fld (s.reg 0xE0014) 28 1 * 2 ^ 28 +
    min 0xFFFF ((s.recd.staged.foldl (fun a r => a + r.size) 0 + 3) / 4))

/-! ## One meaning for each event -/

/-- LLYNON_WORD_DELIVERY. -/
def execLlynonWordDelivery (path : LinkPath) (s : State) : Host.Outcome State Fault Refusal :=
  .next (match path with
    | .completion g => s.laneDeliver g.val
    | .copy p => s.copyDeliver p.val
    | _ => s.linkDeliver (pathKey path))

/-- RECORD_STAGE. -/
def execRecordStage (i : Fin 18) (s : State) : Host.Outcome State Fault Refusal :=
  .next (match s.peekLink (176 + i.val) with
    | some (.record r) => if s.islandUp 5 then (s.popLink (176 + i.val)).recStage r else s
    | _ => s)

/-- RECORD_WRITE: no record goes toward memory until step 8 has passed (R450). -/
def execRecordWrite (s : State) : Host.Outcome State Fault Refusal :=
  .next (if s.islandUp 5 && s.start.step ≥ 9 then s.recWrite else s)
def execBoundaryMarker (i : Fin 18) (s : State) : Host.Outcome State Fault Refusal := .next (s.recMarker i.val)
def execRecorderCommit (s : State) : Host.Outcome State Fault Refusal := .next s.recCommit

end Sys2Proof.Machine
end

