-- ==== Sys2Proof/Machine/MemPorts.lean ====
section
/-!
DEFINITION. The events of the memory ports (R390 to R404, R462 to R464) and what an answer does to the source of its request
(R394, R401).
-/
namespace Sys2Proof.Machine

/-! ## Answers to the sources -/

/-- What a read comes back with. -/
inductive ReadRes where
  | data (w : Word)
  | err
  | timeout
  deriving DecidableEq, Repr

/-- A load's data, ECCU or DACC, when the thread still waits for this request (R206, R227). -/
def State.coreRead (s : State) (th since ea : Nat) (r : ReadRes) : State :=
  match (s.thread th).outst with
  | some o =>
    if o.unit = .external && o.since = since && o.addr.toNat = 2 ^ 39 + ea && o.ans.isNone then
      s.answer th (match r with | .data w => .word w | .err => .eccu | .timeout => .dacc)
    else s
  | none => s

/-- The word of a DMA channel, or its error (R301, R401). -/
def State.dmaRead (s : State) (g k : Nat) (r : ReadRes) : State :=
  let d := s.dma g k
  if !d.busy || !d.ext || d.data.isSome then s
  else match r with
    | .data w => (s.setDma g k { d with ext := false }).dmaWrite g k w
    | .err => s.dmaStop g k 2
    | .timeout => s.dmaStop g k 3

/-- A read has ended. -/
def State.readEnd (s : State) (q : MReq) (r : ReadRes) : State :=
  match q.src with
  | .core th since => s.coreRead th since q.ea r
  | .dma g k => s.dmaRead g k r
  | .cmd k => s.cmdReadAnswer k (match r with | .data _ => true | _ => false)
  | .probe id => s.probeAnswer id (match r with | .data _ => none | .err => some false | .timeout => some true)
  | .fill t pos => s.fillAnswer t pos (match r with | .data _ => true | _ => false)
  | _ => s

/-- A write has been accepted, or has failed (R394, R401). -/
def State.writeEnd (s : State) (q : MReq) (ok : Bool) : State :=
  match q.src with
  | .store th => if ok then s.ackStore th else s.discardStore th
  | .dma g k =>
    let d := s.dma g k
    if !d.busy || !d.ext || d.data.isNone then s else if ok then s.dmaNext g k else s.dmaStop g k 3
  | .cmd k => s.cmdWriteAnswer k q.ea ok
  | .hit t => if ok then s else s.tblCount t 8
  | .clear t => s.clearAnswer t ok
  | .recorder n ctrl => s.recAnswer n ctrl ok
  | _ => s

/-! ## Events -/

/-- Set a sticky bit of MPSTAT: 30 TOUT, 29 ERRF, 28 LATE (R406). -/
def State.mpstat (s : State) (p b : Nat) : State := s.orReg (aMem p) (BitVec.ofNat 32 (2 ^ b))

/-- A response whose tag is not in use: discarded, and its quarantine ends (R402, R463). -/
def State.memLate (s : State) (p tag : Nat) (dir : Bool) : State :=
  let s := (s.modMem p (fun m => { m with quar := mdel m.quar tag })).memPresent p
  ((s.mpstat p 28).count (aMem p + 0x60)).memEvent p 1 dir tag 0 none

/-- A response with ERR: MPSTAT and MPERR, and the ECCU event of a read or the MEMPORT event of a write (R401). -/
def State.memErr (s : State) (p tag : Nat) (q : MReq) : State :=
  let s := (s.mpstat p 29).count (aMem p + 0x58)
  if q.write then s.memEvent p 2 true tag q.cls (some q.ea) else s.event 5 0x09 (5 * 2 ^ 24) [wordOf q.ea]

/-- MEMORY_READ_RESPONSE (R463). -/
def State.memReadResp (s : State) (p tag : Nat) (err : Bool) (data : Word) : State :=
  if p ≥ s.ties.memports then s
  else match mfind (s.mem p).tags tag with
    | some q =>
      if q.write then s
      else
        let s := (s.modMem p (fun m => { m with tags := mdel m.tags tag })).memPresent p
        if err then (s.memErr p tag q).readEnd q .err else s.readEnd q (.data data)
    | none => s.memLate p tag false

/-- MEMORY_WRITE_ACK (R394, R463). -/
def State.memWriteAck (s : State) (p tag : Nat) (err : Bool) : State :=
  if p ≥ s.ties.memports then s
  else match mfind (s.mem p).tags tag with
    | some q =>
      if !q.write then s
      else
        let s := (s.modMem p (fun m => { m with tags := mdel m.tags tag })).memPresent p
        if err then (s.memErr p tag q).writeEnd q false else s.writeEnd q true
    | none => s.memLate p tag true

/-- A request has timed out: TOUT, MPTOUT, the event, and its failure toward the source (R401). -/
def State.memFail (s : State) (p tag : Nat) (q : MReq) : State :=
  let s := ((s.mpstat p 30).count (aMem p + 0x50)).memEvent p 0 q.write tag q.cls (some q.ea)
  if q.write then s.writeEnd q false else s.readEnd q .timeout

/-- MEMORY_TIMEOUT: a transferred request without its response for TMO × 256 ns of Block Time, whose tag is quarantined, or else an
item that has been presented that long without being transferred, which takes none of its class's transfers of the round (R399, R401,
R402). -/
def State.memTimeout (s : State) (p : Nat) : State :=
  let m := s.mem p
  let late (t : Nat) : Bool := t + s.memTmo ≤ s.memNow
  let drop (write : Bool) (x : Shown) : State :=
    ((s.setMem p ((m.clearShown write).giveBack write)).memFail p x.tag x.req).memPresent p
  if p ≥ s.ties.memports then s
  else match m.tags.find? (fun e => late e.2.since) with
    | some (tag, q) => (s.setMem p { m with tags := mdel m.tags tag, quar := mins m.quar tag q }).memFail p tag q
    | none =>
      match m.shownR, m.shownW with
      | some x, some y => if late x.since then drop false x else if late y.since then drop true y else s
      | some x, none => if late x.since then drop false x else s
      | none, some y => if late y.since then drop true y else s
      | none, none => s

/-- The level of MEM_READY of port p changes, as the port takes it: a rise frees the quarantined tags; during service the recorder
writes an event (R403). -/
def State.memReadyEdge (s : State) (p : Nat) (level : Bool) : State :=
  let s := if level then (s.modMem p (fun m => { m with quar := [] })).memPresent p else s
  if s.inService then s.memEvent p 3 level 0 0 none else s

/-- MEM_READY_CHANGE: the level of MEM_READY of a port, with that of MEM_RETAINED at the time (R403, R464). -/
def State.memReady (s : State) (p : Nat) (level : Bool) : State :=
  if p ≥ s.ties.memports || (s.mem p).ready = level then s
  else
    let s := s.modMem p (fun m => { m with ready := level })
    if s.clkGone 1 then s else s.memReadyEdge p level

/-- MPSTAT (R406). -/
def State.readMpstat (s : State) (p : Nat) : BitVec 32 :=
  let m := s.mem p
  (s.reg (aMem p)) ||| BitVec.ofNat 32 (b1 (m.ready && !s.clkGone 1) * 2 ^ 31 + m.quar.length * 2 ^ 16 + m.tags.length)

/-- A write of a memory port register at an offset from M:0x000C_0000 (R405, R406). -/
def State.writeMemReg (s : State) (off : Nat) (d : BitVec 32) (image : Bool) : State :=
  let a := 0xC0000 + off
  match off with
  | 0x00 => s.setReg a (d &&& 0xFF)
  | 0x04 => if image then s.setReg a (d &&& 0x1FFF) else s
  | 0x10 => s.setReg a d
  | 0x14 => s.setReg a (d &&& 0xFF)
  | _ =>
    if 0x1000 ≤ off && off < 0x1000 + 0x100 * s.ties.memports && off % 0x100 = 0 then
      s.setReg a (s.reg a &&& ~~~(d &&& 0x70000000))
    else s

/-! ## One meaning for each event -/

def execMemoryRequestTransfer (p : Fin 12) (write : Bool) (s : State) : Host.Outcome State Fault Refusal :=
  .next (if s.islandUp 5 then s.memTransfer p.val write else s)
def execMemoryReadResponse (p : Fin 12) (tag : Fin 512) (err : Bool) (data : Word) (s : State) :
    Host.Outcome State Fault Refusal :=
  .next (if s.islandUp 5 then s.memReadResp p.val tag.val err data else s)
def execMemoryWriteAck (p : Fin 12) (tag : Fin 512) (err : Bool) (s : State) : Host.Outcome State Fault Refusal :=
  .next (if s.islandUp 5 then s.memWriteAck p.val tag.val err else s)
def execMemoryTimeout (p : Fin 12) (s : State) : Host.Outcome State Fault Refusal :=
  .next (if s.islandUp 5 then s.memTimeout p.val else s)
def execMemReadyChange (p : Fin 12) (level : MemLevels) (s : State) : Host.Outcome State Fault Refusal :=
  .next ({ s with memRet := level.retained }.memReady p.val level.ready)

end Sys2Proof.Machine
end

