-- ==== Sys2Proof/Machine/Time.lean ====
section
/-!
DEFINITION. Block Time (R356 to R365, R387), canopy ticks (R27, R29, R364), and the heartwood cycle in which the block's clocks
advance (log entry 4).
-/
namespace Sys2Proof.Machine

def State.modTime (s : State) (f : Time → Time) : State := { s with time := f s.time }
/-- TIMECTL. -/
def State.timectl (s : State) : BitVec 32 := s.reg 0x10028
/-- TIMESTAT.TIMEERR. -/
def State.timeErr (s : State) : State := s.orReg 0x10030 0x4000000
/-- The TIME event with its ACT (R369). -/
def State.timeEvent (s : State) (act : Nat) (offset : Option Int) : State :=
  s.event 0 0x0C (act * 2 ^ 24) (match offset with | some d => [wordOf (BitVec.ofInt 64 d).toNat] | none => [])

/-! ## Canopy ticks -/

/-- The watchdog of grove g counts a canopy tick, while LIMIT is not 0 and the grove is ON (R274, R415). -/
def State.wdTick (s : State) (g : Nat) : State :=
  if s.groveOpen g && fld (s.reg (aExc g + 0x18)) 0 16 ≠ 0 then s.modGrove g (fun v => { v with wdCount := v.wdCount + 1 }) else s

/-- Island i has begun a new tick (R27). -/
def Time.begin (t : Time) (i n : Nat) : Time := if i = 0 then { t with closed := n } else { t with begun := mput 0 t.begun i n }

/-- The statistics of island i are copied as its copy reaches a boundary, without the events counted already that are stamped after it
(R28, R29). -/
def State.snapIsland (s : State) (i : Nat) : State :=
  let mine (a : Nat) : Bool := islandOf a = some i
  { s with
    snap := (s.ctrs.filter (fun e => mine e.1)).reverse.foldl (fun m e => mput 0 m e.1 (e.2 - mget 0 s.time.ahead e.1))
      (s.snap.filter (fun e => !mine e.1))
    time := { s.time with ahead := s.time.ahead.filter (fun e => !mine e.1) } }

/-- An ingress word stamped before tick n is on its way to the trunk. -/
def Message.earlyWord (n : Nat) : Message → Bool
  | .ingress (.word _ its _) => tickOf its.toNat < n
  | _ => false

/-- A record of island i stamped before tick n is still to come (R368, R374): for the trunk's egress side, IDISC of a frame that is
arriving, that is on its ingress link, or that waits for its duplicate check; for a port island, TRANSIT of a frame that the express
lane is sending. -/
def State.owesRecord (s : State) (i n : Nat) : Bool :=
  let early (w : Word) : Bool := tickOf w.toNat < n
  2 ≤ s.recd.modeA.toNat &&
    (if i = 3 then
      s.ports.any (fun e => match e.2.frame with | some f => !f.dead && early f.its | none => false) ||
        s.links.any (fun e => (e.2.wait ++ e.2.out ++ e.2.buf).any (fun m => m.earlyWord n)) ||
        s.rings.any (fun r => r.2.ddq.any (fun d => match mfind s.trunk.pkts d.cell with | some k => early k.its | none => false))
    else 6 ≤ i && i < 10 && s.ports.any (fun e => e.1 / 32 = i - 6 && e.2.lane.any (fun x => x.started && early x.ets)))

/-- The markers that follow the last record of their islands leave (R374). -/
def State.sendMarks (s : State) : State :=
  s.time.marks.foldl (fun (s : State) m =>
    if s.owesRecord m.1 m.2 then s
    else (s.push (176 + m.1) (.marker m.2)).modTime (fun t => { t with marks := t.marks.filter (fun x => x ≠ m) })) s

/-- The scrubber of the retention store reads one word in a canopy tick: a corrected word is written back, an uncorrectable one reported.
R369 names no AREA for the store and the spec no addresses, so both are free values (R503; log entry 116). -/
def State.storeScrub (s : State) : State :=
  let v := s.start
  let s := { s with start := { v with scrubAt := (v.scrubAt + 1) % 4096 } }
  match mget 0 v.marks v.scrubAt with
  | 0 => s
  | 1 => { s with start := { s.start with marks := mdel v.marks v.scrubAt } }
  | _ =>
    let (n, s) := s.fresh
    s.eccEvent 0 (Config.freeField n % 16) 0 (Config.freeField n / 16 % 2 ^ 40)

/-- What island i does as it begins a tick: a port island sets aside what its ports have shown, a grove counts TICK, the heartwood scrubs; after the first
acquisition the statistics are copied, the settings of R29 and the recorder's become active, and the island owes the recorder a marker
(R27 to R29, R364, R374, R375, R378). -/
def State.beginTick (s : State) (i : Nat) : State :=
  let n := s.islTick i
  if n ≤ s.time.begunBy i then s
  else
    let s := s.modTime (fun t => t.begin i n)
    let s := if 6 ≤ i && i < 10 then (upto 32).foldl (fun (s : State) k => s.obsClose (32 * (i - 6) + k)) s else s
    let s := if 10 ≤ i && s.groveOn (i - 10) then s.timersAdvance (i - 10) 2 1 else s
    let s := if i = 0 then s.storeScrub else s
    if !s.time.acq then s
    else
      let s := s.snapIsland i
      let s := if i = 0 then { s with tregs := s.regs } else s
      let s := if i = 5 then s.recActivate else s
      if i ≠ 2 && s.islandUp i then (s.recOpen n).modTime (fun t => { t with marks := t.marks ++ [(i, n)] }) else s

/-- A boundary stands whose functions have not run, and every island has begun its tick. -/
def State.undecided (s : State) : Bool :=
  decide (s.time.tick < s.time.closed) && (upto 18).all (fun i => decide (s.time.closed ≤ s.time.begunBy i))

/-- The functions of a boundary once every island has begun the tick: ring health, the sweeper's positions, the watchdogs; before the
first acquisition there are none (R29, R364). -/
def State.decideTick (s : State) : State :=
  let s := s.modTime (fun t => { t with tick := t.closed })
  if !s.time.acq then s
  else (upto 8).foldl (fun s g => s.wdTick g) (s.ringTick.modLookup (fun l => { l with swept := 0 }))

/-- The islands whose copies have reached a boundary begin its tick; by then the functions of the boundary before it have run. A step
passes its boundaries as one (R27, R364). -/
def State.closeTick (s : State) : State :=
  if (upto 18).all (fun i => decide (s.islTick i ≤ s.time.begunBy i)) then s
  else ((upto 18).foldl (fun s i => s.beginTick i) (if s.undecided then s.decideTick else s)).sendMarks

/-- Time goes on to where every copy has passed a boundary that lies in the rest of the heartwood cycle, if there is one that an island
has still to begin (R27). -/
def State.reachTick (s : State) : State :=
  if s.undecided || (upto 18).all (fun i => decide (s.time.begunBy i < s.islTick i)) then s
  else match (upto 21).find? (fun p => s.phase ≤ p && (upto 18).any (fun i => decide (s.time.begunBy i < tickOf (s.time.bt + p - 2)))) with
    | some p => s.setBeat 9 { last := p }
    | none => s

/-- The boundary that every copy has passed is taken: the islands begin its tick, and the functions at it run (R29, R364). -/
def State.takeTick (s : State) : State :=
  let s := s.closeTick.sendMarks
  if s.undecided then s.decideTick else s

/-- CANOPY_TICK: the functions of the boundary that Block Time has passed last, or that comes next in this heartwood cycle (R29; log
entry 6). -/
def State.canopyTick (s : State) : State := s.reachTick.takeTick

/-! ## Steps and slews -/

/-- Block Time and its copies step forward by d units: the ABS timers that it carries past their compare match, TICKSKIP grows by the
boundaries passed less 1, and the boundary begins its tick (R361, R364, R380). -/
def State.carryTime (s : State) (d : Nat) : State :=
  let n := s.tickNow
  let s := s.modTime (fun t => { t with bt := (t.bt + d) % 2 ^ 72 })
  let s := s.modTime (fun t => { t with tskip := t.tskip + (s.tickNow - n - 1) })
  (s.timersStepped d).closeTick

/-- A step of R361: a boundary that it passes is taken at the step (R364). -/
def State.stepTime (s : State) (d : Nat) : State := (s.carryTime d).takeTick

/-- TADJREM as a signed number of 64 bits. -/
def wrap64 (i : Int) : Int := sgn 64 (BitVec.ofInt 64 i).toNat

/-- The offset that a write of TADJ1 commits (R361). -/
def State.adjOffset (s : State) (d : BitVec 32) : Int := sgn 64 ((mget 0 s.stag 0x10020).toNat + d.toNat * 2 ^ 32)

/-- A commit with STEP 1: a positive offset steps Block Time, another is refused (R361). -/
def State.adjStep (s : State) (d : BitVec 32) : State :=
  let off := s.adjOffset d
  if off ≤ 0 then s.timeErr
  else
    let s := s.stepTime off.toNat
    s.timeEvent 2 (some off)

/-- A commit with STEP 0 is slewed (R361). -/
def State.adjSlew (s : State) (d : BitVec 32) : State :=
  let off := s.adjOffset d
  (s.modTime (fun t => { t with adjrem := wrap64 (t.adjrem + off) })).timeEvent 3 (some off)

/-- A write of TADJ1 (R361). -/
def State.writeTadj1 (s : State) (d : BitVec 32) : State := if bit s.timectl 31 then s.adjStep d else s.adjSlew d

/-! ## The heartwood cycle -/

/-- Units of Block Time, 2^-32 s, are kept with a remainder in units of 2^-76 · 10^-9 s. -/
def btDen : Nat := 1000000000 * 2 ^ 44

/-- What 5 ns add at the nominal rate, in those units. -/
def btStep : Nat := 5 * 2 ^ 32 * 2 ^ 44

/-- The advance in one cycle: at (1 + TRATE × 2^-44), or from the internal oscillator within 2 %, a free value (R360, R409). -/
def State.btAdvance (s : State) : Nat × State :=
  if s.time.refOk then (((5 * 2 ^ 32 : Nat) * ((2 ^ 44 : Int) + sgn 32 (s.reg 0x1001C).toNat)).toNat, s)
  else
    let (v, s) := s.fresh
    (btStep / 10000 * (9800 + Config.oscillator v % 401), s)

/-- What the slew adds in one cycle, in those units, 2^-10 of the cycle at most, and what it leaves: TADJREM moves toward 0 with Block
Time (R361). -/
def Time.slew (t : Time) : Int × Time :=
  let acc := min (t.adjfrac + btStep / 1024) (t.adjrem.natAbs * btDen)
  let d : Int := (acc : Int) - t.adjfrac
  let u : Int := (acc / btDen : Nat)
  if t.adjrem = 0 then (0, t)
  else if t.adjrem > 0 then (d, { t with adjfrac := acc % btDen, adjrem := t.adjrem - u })
  else (-d, { t with adjfrac := acc % btDen, adjrem := t.adjrem + u })

/-- Block Time advances by one heartwood cycle, by 21 or 22 units. -/
def State.timeCycle (s : State) : State :=
  let (n, s) := s.btAdvance
  s.modTime (fun t =>
    let (d, t) := t.slew
    let acc := ((t.rem + n : Int) + d).toNat
    { t with bt := (t.bt + acc / btDen) % 2 ^ 72, rem := acc % btDen })

/-- Place x of a copy that stands at p, after one heartwood cycle, in which the master goes from `was` to `now`: a step of the free value,
if with it a grove's copy increases and its BTNS increases by at most 1 (R357). -/
def skewNext (grove : Bool) (was now x v : Nat) : Nat :=
  let y := min 2 (x + v % 3 - 1)
  let off := Config.copySkew 0 0 % 3
  if grove && (now + y ≤ was + x || nsOf (now + y - off) > nsOf (was + x - off) + 1) then x else y

/-- Where the copies stand as a heartwood cycle begins, before which the last cycle of each grove was at `was` (R357). -/
def State.skewCycle (s : State) (was : Nat → Nat) : State :=
  s.modTime (fun t => { t with skews := (upto 18).map (fun i =>
    skewNext (10 ≤ i) (was (i - 10)) t.bt (min 2 (t.skews[i]?.getD 0)) (Config.copySkew i s.hw)) })

/-- Where the last cycle of grove g in this heartwood cycle begins. -/
def State.lastPlace (s : State) (g : Nat) : Nat := (s.places g (s.beat g).begun (s.groveRate g)).getLast?.getD (s.beat g).last

/-- Grove g comes to the heartwood cycle that begins: its timers count, its cycles since, and the census's watch; `old` is the state before
(R313, R357, R378). -/
def State.groveCycle (s old : State) (g : Nat) : State :=
  let s := s.setBeat g { s.beat g with begun := 0, last := 0 }
  if !s.groveOn g then s
  else
    let s := s.modGrove g (fun v => { v with cyc := v.cyc + s.groveRate g })
    let s := if (s.grove g).timers = [] then s else s.timCycle g (old.nsAt g (old.beat g).last) (s.nsAt g 0)
    (s.watchStall g).istoreScrub g

/-- The cycles of grove g that are left in this heartwood cycle pass. -/
def State.passGrove (s : State) (g : Nat) : State :=
  (s.timReach g (s.groveRate g)).setBeat g { s.beat g with begun := s.groveRate g, last := s.lastPlace g }

/-- One heartwood cycle of 5 ns in which no command arrives. -/
def State.hwCycle (s : State) : State :=
  let old := (upto 8).foldl (fun s g => if s.groveOn g then s.passGrove g else s) s
  let s := ({ old with hw := old.hw + 1 }).timeCycle.skewCycle (fun g => old.time.bt + (old.beat g).last)
  let s := { s with beats := mdel (mdel s.beats 8) 9 }
  ((upto 8).foldl (fun s g => s.groveCycle old g) s.lowerTx).cacheScrub.closeTick.sendMarks

/-! ## PPS -/

/-- The distance of a stamp from the nearest whole second, in units of 2^-32 s (R362). -/
def ppsError (st : Word) : Int :=
  let f := fld st 0 32
  if f < 2 ^ 31 then (f : Int) else (f : Int) - 2 ^ 32

/-- |e| is within PPSWIN µs (R362). -/
def State.ppsInWindow (s : State) (e : Int) : Bool := e.natAbs * 1000000 ≤ fld s.timectl 16 12 * 2 ^ 32

/-- The lock is lost (R362). -/
def State.ppsLose (s : State) : State :=
  if !s.time.locked then s
  else ((s.modTime (fun t => { t with locked := false, ppsGood := 0 })).orReg 0x10030 0x2000000).timeEvent 1 none

/-- The lock logic at an edge (R362): the interval is 1 s within 1,000 ppm, 200,000,000 cycles within 200,000. -/
def State.ppsLock (s : State) (prev : Option Nat) (st : Word) : State :=
  let e := ppsError st
  let win := s.ppsInWindow e
  let gap := match prev with
    | some h => 199800000 ≤ s.hw - h && s.hw - h ≤ 200200000
    | none => false
  let good := if win && gap then s.time.ppsGood + 1 else 0
  let s := s.modTime (fun t => { t with ppsGood := good })
  let s := if !win then s.ppsLose else s
  let n := max 1 (fld (s.reg 0x1002C) 16 4)
  let s := if !s.time.locked && good ≥ n then (s.modTime (fun t => { t with locked := true })).timeEvent 0 none else s
  if s.time.locked && bit s.timectl 29 then s.modTime (fun t => { t with adjrem := wrap64 (t.adjrem - e) }) else s

/-- PPS_EDGE: an edge of the selected sense is stamped; after the first acquisition the lock follows (R362). -/
def State.ppsEdge (s : State) (rising : Bool) : State :=
  if bit s.timectl 28 = rising || !bit s.timectl 30 then s
  else
    let prev := s.time.ppsAt
    let st := s.btime
    let s := s.modTime (fun t => { t with ppsts := st, ppsAt := some s.hw })
    if s.time.acq then s.ppsLock prev st else s

/-- PPS_TIMEOUT: no edge within 1.5 s of the previous one (R362). -/
def State.ppsTimeout (s : State) : State :=
  match s.time.ppsAt with
  | some h => if h + 300000000 ≤ s.hw then s.ppsLose else s
  | none => s

/-! ## Acquisition -/

/-- The staged seconds, when they are valid and exceed `now`; a value that does not sets TIMEERR (R363). -/
def State.stagedSeconds (s : State) (now : Nat) : Option Nat × State :=
  if !s.time.tsetV then (none, s)
  else if s.time.tset.toNat > now then (some s.time.tset.toNat, s)
  else (none, s.timeErr)

/-- Acquired: Block Time steps, and ACQ is set. The functions of the ticks begin with the next boundary, so none runs for a boundary
that the step passes (R363, R364). -/
def State.acquired (s : State) (src d : Nat) : State :=
  (s.carryTime d).modTime (fun t => { t with src := BitVec.ofNat 2 src, acq := true, ppsGood := 0, tick := t.closed })

/-- Acquisition at the first PPS edge: the edge lies at the whole second S (R363). -/
def State.acquirePps (s : State) : State :=
  let at_ := s.time.ppsts.toNat
  let now := at_ / 2 ^ 32
  let r := s.stagedSeconds now
  let sec := r.1.getD (now + 1)
  r.2.acquired 1 (sec * 2 ^ 32 - at_)

/-- Acquisition without an edge (R363). -/
def State.acquireFree (s : State) : State :=
  let now := s.now / 2 ^ 32
  let r := s.stagedSeconds now
  (r.2.acquired 2 ((r.1.getD now - now) * 2 ^ 32)).timeEvent 4 none

/-! ## Registers -/

/-- A write of a time register at an offset from M:0x0001_0000 (R387). -/
def State.writeTime (s : State) (off : Nat) (d : BitVec 32) : State :=
  let a := 0x10000 + off
  match off with
  | 0x14 => { s with stag := mput 0 s.stag a d }
  | 0x18 => s.modTime (fun t => { t with
      tset := BitVec.ofNat 40 ((mget 0 s.stag 0x10014).toNat + fld d 0 8 * 2 ^ 32), tsetV := true })
  | 0x1C => s.setReg a d
  | 0x20 => { s with stag := mput 0 s.stag a d }
  | 0x24 => (s.setReg a d).writeTadj1 d
  | 0x28 => s.setReg a (d &&& 0xFFFF0FFF)
  | 0x2C => s.setReg a (d &&& 0xFFFFF)
  | 0x30 => s.setReg a (s.reg a &&& ~~~(d &&& 0x6000000))
  | _ => s

/-- TIMESTAT (R387). -/
def State.timeStat (s : State) : BitVec 32 :=
  (s.reg 0x10030) ||| BitVec.ofNat 32 (b1 s.time.acq * 2 ^ 31 + s.time.src.toNat * 2 ^ 29 + b1 s.time.locked * 2 ^ 28 +
    b1 (s.time.adjrem ≠ 0) * 2 ^ 27)

/-- A write of the time mirror by thread th: forwarded for the SERVO thread, ignored for any other (R365, R389). -/
def State.timeMirror (s : State) (th : Nat) (r : MirrorReg) (d : BitVec 32) : State :=
  if fld s.timectl 0 12 ≠ th then s
  else match r with
    | .tmrate => s.writeTime 0x1C d
    | .tmadj0 => s.writeTime 0x20 d
    | .tmadj1 => s.writeTime 0x24 d
    | .tmctl => s.setReg 0x10028 (setBit s.timectl 31 (bit d 31))

/-! ## One meaning for each event -/

def execCanopyTick (s : State) : Host.Outcome State Fault Refusal := .next s.canopyTick

/-- SLEW_COMPLETE: TADJREM stands at 0, and what is left of the slew in a cycle is dropped (R361). -/
def execSlewComplete (s : State) : Host.Outcome State Fault Refusal :=
  .next (if s.time.adjrem = 0 then s.modTime (fun t => { t with adjfrac := 0 }) else s)

def execPpsEdge (rising : Bool) (s : State) : Host.Outcome State Fault Refusal := .next (s.ppsEdge rising)
def execPpsTimeout (s : State) : Host.Outcome State Fault Refusal := .next s.ppsTimeout

end Sys2Proof.Machine
end

