-- ==== Sys2Proof/Machine/Power.lean ====
section
/-!
DEFINITION. Input clocks (R408, R409), power states of the islands (R412 to R418) and the clock points of the groves (R419,
R420), with the registers of R426.
-/
namespace Sys2Proof.Machine

/-! ## Clocks -/

/-- The memory ports see MEM_READY fall or rise with MEMCLK (R403, R408). -/
def State.memClock (s : State) (level : Bool) : State :=
  (upto s.ties.memports).foldl (fun s p => if (s.mem p).ready then s.memReadyEdge p level else s) s

/-- CLOCK_LOSS: input clock i is lost (R408). -/
def State.clockLoss (s : State) (i : Nat) : State :=
  if s.clkGone i then s
  else
    let s := (s.modTime (fun t => { t with clkLost := setBit t.clkLost i true })).orReg 0x11004 (BitVec.ofNat 32 (2 ^ i))
    let s := if i = 1 then s.memClock false else s
    if i ≥ 2 then
      let s := (upto 32).foldl (fun (s : State) b => if (mfind s.ports (32 * (i - 2) + b)).isSome then
        s.modPort (32 * (i - 2) + b) (fun q => { q with obs := { q.obs with down := true } }) else s) s
      s.ringsAttach
    else s

/-- CLOCK_RETURN: the effects end; LOST stays set (R408). -/
def State.clockReturn (s : State) (i : Nat) : State :=
  if !s.clkGone i then s
  else
    let s := s.modTime (fun t => { t with clkLost := setBit t.clkLost i false })
    let s := if i = 1 then s.memClock true else s
    if i ≥ 2 then s.ringsAttach else s

/-! ## Groves and port islands leave and reach ON -/

/-- Everything of grove g takes its Cold value, image fields 0, and it runs at PT 0 during the wake (R417). -/
def State.clearGrove (s : State) (g : Nat) : State :=
  let a := aGrove g
  let b := aGrove (g + 1)
  { s with
    groves := mdel s.groves g
    points := mdel s.points g
    stalls := mdel s.stalls g
    cores := mclear s.cores (32 * g) (32 * g + 32)
    threads := mclear s.threads (512 * g) (512 * g + 512)
    regs := mclear s.regs a b, ctrs := mclear s.ctrs a b, stag := mclear s.stag a b
    beats := mput {} s.beats g { begun := (s.beat g).begun, last := (s.beat g).last }
    recd := { s.recd with seqs := mdel s.recd.seqs (10 + g) }
    mgmt := { s.mgmt with fatalG := setBit s.mgmt.fatalG g false }
    links := [128 + g, 144 + g, 152 + g, 168 + g].foldl (fun m k => mdel m k) s.links }

/-- What a port island holds of a port takes its Cold value; the queues, gate lists and cells that the trunk holds stay (R417). -/
def Port.islandReset (q : Port) : Port :=
  { queues := q.queues, deficit := q.deficit, turn := q.turn, inTurn := q.inTurn, gents := q.gents, gcycle := q.gcycle,
    glen := q.glen, gbase := q.gbase, gact := q.gact, garm := q.garm, frame := q.frame, used := q.used, infl := q.infl,
    idiscs := q.idiscs, pinIn := q.pinIn, obs := { q.obs with down := true, link := true }, last := q.last }

/-- Everything of port island k takes its Cold value (R417). -/
def State.clearPortIsland (s : State) (k : Nat) : State :=
  let a := aIsland (32 * k)
  let s := { s with
    regs := mclear s.regs a (a + 0x10000), stag := mclear s.stag a (a + 0x10000)
    recd := { s.recd with seqs := mdel s.recd.seqs (6 + k) } }
  (s.ports.map (·.1)).foldl (fun (s : State) p => if p / 32 = k then s.modPort p Port.islandReset else s) s

/-- The island begins to change state (R418): a marker follows the last record of one that leaves ON (R374). -/
def State.leaveOn (s : State) (i : Nat) (p : Power) : State :=
  let s := if (s.isl i).st = .on then s.recLeave i else s
  s.setIsl i { s.isl i with goal := some p }

/-- ISLAND_WAKE: an island in OFF wakes: its memories are cleared and its registers take their Cold values (R417). -/
def State.wake (s : State) (i : Nat) : State :=
  let s := if i ≥ 10 then s.clearGrove (i - 10) else if i ≥ 6 then s.clearPortIsland (i - 6) else s
  s.setIsl i { s.isl i with goal := some .on }

/-! ## GCLK -/

/-- GCLK of grove g (R426). -/
def aGclk (g : Nat) : Nat := 0x11010 + 4 * g
/-- PICTL of port island k (R426). -/
def aPictl (k : Nat) : Nat := 0x11030 + 4 * k

/-- No thread, DMA channel, command slot or timer of grove g keeps it ON (R413); no extension request is outstanding either, as
R471 says of a grove that leaves ON. -/
def State.groveQuiet (s : State) (g : Nat) : Bool :=
  !bit (s.reg 0x80000) (16 + g) &&
    (upto 32).all (fun c => !(s.core (coreKey g c)).service && !(s.core (coreKey g c)).mreq) &&
    s.threads.all (fun e => thG e.1 ≠ g || (e.2.wait = .parked || e.2.wait = .parkedDone) && !e.2.halted && !e.2.held) &&
    (s.grove g).xreqs = [] &&
    (upto 8).all (fun k => !(s.dma g k).busy) &&
    (upto 16).all (fun i => !(s.cmd (1 + 16 * g + i)).busy) &&
    (s.grove g).timers.all (fun e => !e.2.armed)

/-- PERR of a GCLK or PICTL register. -/
def State.perr (s : State) (a b : Nat) : State := s.orReg a (BitVec.ofNat 32 (2 ^ b))

/-- A new GATE for a grove (R413, R416 to R419); GATE 1 in OFF names no change of R416 or R417 and is only stored. -/
def State.gateGrove (s : State) (g v : Nat) : State :=
  let a := aGclk g
  let i := 10 + g
  let st := (s.isl i).st
  let take (s : State) : State := s.setReg a (setFld (s.reg a) 5 2 v)
  match v, st with
  | 3, _ => s.perr a 13
  | 0, .on => take s
  | 0, .clkoff => take (s.setIsl i { s.isl i with goal := some .on })
  | 0, .off => take (s.wake i)
  | 1, .on => if s.groveQuiet g then take (s.setIsl i { s.isl i with goal := some .clkoff }) else s.perr a 13
  | 1, _ => take s
  | _, .on => if s.groveQuiet g then take (s.leaveOn i .off) else s.perr a 13
  | _, .clkoff => take (s.leaveOn i .off)
  | _, .off => take s

/-- A new PT for a grove: 6 and 7 are not taken; in ON the generator begins to lock (R419, R420). -/
def State.pointGrove (s : State) (g v : Nat) : State :=
  let a := aGclk g
  if v ≥ 6 then s.perr a 13
  else if v = fld (s.reg a) 0 3 then s
  else
    let s := s.setReg a (setFld (s.reg a) 0 3 v)
    if (s.isl (10 + g)).st = .on && (s.isl (10 + g)).goal.isNone then s.setPoint g { s.point g with chg := true } else s

/-- GATE and PT of one write are judged each on its own (R419). -/
def State.applyGclk (s : State) (g : Nat) (d : BitVec 32) : State :=
  let s := s.pointGrove g (fld d 0 3)
  if fld d 5 2 = fld (s.reg (aGclk g)) 5 2 then s else s.gateGrove g (fld d 5 2)

/-- A write of GCLK: PERR is W1C; while the island changes state or point the rest is held (R418). The image sets both fields and
the state they name, but for values that no write takes (R419). -/
def State.writeGclk (s : State) (g : Nat) (d : BitVec 32) (image : Bool) : State :=
  let a := aGclk g
  let i := 10 + g
  if image then
    let s := if fld d 0 3 ≥ 6 then s.perr a 13
      else (s.setReg a (setFld (s.reg a) 0 3 (fld d 0 3))).setPoint g { pta := fld d 0 3, chg := false }
    if fld d 5 2 = 3 then s.perr a 13
    else (s.setReg a (setFld (s.reg a) 5 2 (fld d 5 2))).setIsl i
      { st := if fld d 5 2 = 1 then .clkoff else if fld d 5 2 = 2 then .off else .on, goal := none, held := none }
  else
    let s := s.setReg a (s.reg a &&& ~~~(d &&& 0x2000))
    if (s.isl i).goal.isSome || (s.point g).chg then s.setIsl i { s.isl i with held := some d } else s.applyGclk g d

/-- GCLK as read (R426). -/
def State.readGclk (s : State) (g : Nat) : BitVec 32 :=
  let v := s.isl (10 + g)
  let st := if v.goal.isSome then 3 else match v.st with | .on => 0 | .clkoff => 1 | .off => 2
  s.reg (aGclk g) ||| BitVec.ofNat 32 (b1 (s.point g).chg * 2 ^ 12 + (s.point g).pta * 2 ^ 9 + st * 2 ^ 7)

/-! ## PICTL -/

/-- Every port of island k is OFF and no enabled ring has a port in it (R414). -/
def State.portsQuiet (s : State) (k : Nat) : Bool :=
  (upto 32).all (fun b => (s.port (32 * k + b)).st = .off) &&
    (upto 16).all (fun r => !s.ringEn r || (s.portA r / 32 ≠ k && s.portB r / 32 ≠ k))

/-- A new GATE for a port island (R414, R417). -/
def State.applyPictl (s : State) (k : Nat) (d : BitVec 32) : State :=
  let a := aPictl k
  let i := 6 + k
  let v := fld d 5 2
  if v = 1 || v = 3 then s.perr a 11
  else if v = fld (s.reg a) 5 2 then s
  else if v = 0 then (s.wake i).setReg a (setFld (s.reg a) 5 2 0)
  else if s.portsQuiet k then (s.leaveOn i .off).setReg a (setFld (s.reg a) 5 2 2)
  else s.perr a 11

/-- A write of PICTL (R414, R418, R426). -/
def State.writePictl (s : State) (k : Nat) (d : BitVec 32) (image : Bool) : State :=
  let a := aPictl k
  let i := 6 + k
  if image then
    if bit d 5 || (bit d 6 && !s.portsQuiet k) then s.perr a 11
    else (s.setReg a (setFld (s.reg a) 5 2 (fld d 5 2))).setIsl i
      { st := if fld d 5 2 = 2 then .off else .on, goal := none, held := none }
  else
    let s := s.setReg a (s.reg a &&& ~~~(d &&& 0x800))
    if (s.isl i).goal.isSome then s.setIsl i { s.isl i with held := some d } else s.applyPictl k d

/-- PICTL as read (R426). -/
def State.readPictl (s : State) (k : Nat) : BitVec 32 :=
  let v := s.isl (6 + k)
  let st := if v.goal.isSome then 3 else match v.st with | .off => 2 | _ => 0
  s.reg (aPictl k) ||| BitVec.ofNat 32 (st * 2 ^ 9)

/-! ## Completion -/

/-- A held write applies when no change of the island's state or of its point is left (R418). -/
def State.applyHeld (s : State) (i : Nat) : State :=
  match (s.isl i).held with
  | none => s
  | some d =>
    if (s.isl i).goal.isSome || (i ≥ 10 && (s.point (i - 10)).chg) then s
    else
      let s := s.setIsl i { s.isl i with held := none }
      if i ≥ 10 then s.applyGclk (i - 10) d else if i ≥ 6 then s.applyPictl (i - 6) d else s

/-- The change of island i into `st` is complete; a grove that reaches ON runs at its PT, and one that leaves ON makes no change of
point any more (R416, R417, R420). -/
def State.islandDone (s : State) (i : Nat) (st : Power) : State :=
  let s := s.setIsl i { s.isl i with st := st, goal := none }
  let s := if i < 10 then s
    else if st = .on then
      (s.setPoint (i - 10) { pta := fld (s.reg (aGclk (i - 10))) 0 3, chg := false }).modGrove (i - 10) (fun v =>
        { v with woke := v.cyc })
    else s.setPoint (i - 10) { s.point (i - 10) with chg := false }
  s.applyHeld i

/-- Every core of the grove stands at a revolution boundary. -/
def State.atRevolution (s : State) (g : Nat) : Bool := (upto 32).all (fun c => (s.core (coreKey g c)).pos = 0)

/-- GROVE_CLKOFF_ENTRY (R416). -/
def State.clkoffEntry (s : State) (g : Nat) : State :=
  let i := 10 + g
  if (s.isl i).st = .on && (s.isl i).goal = some .clkoff && s.atRevolution g then (s.recLeave i).islandDone i .clkoff else s

/-- CLOCK_POINT_CHANGE: the grove changes over at a revolution boundary (R420). The cycles left of the heartwood cycle pass, and the next
one begins at the new point with the next heartwood cycle, so that the grove's copy neither goes back nor leaps (R357; log entry 4). -/
def State.pointChange (s : State) (g : Nat) : State :=
  if (s.point g).chg && s.groveOn g && s.atRevolution g then
    let s := (s.passGrove g).setPoint g { pta := fld (s.reg (aGclk g)) 0 3, chg := false }
    (s.setBeat g { s.beat g with begun := s.groveRate g }).applyHeld (10 + g)
  else s

/-- ISLAND_WAKE_COMPLETE (R417). -/
def State.wakeComplete (s : State) (i : Nat) : State :=
  if (s.isl i).st = .off && (s.isl i).goal = some .on then s.islandDone i .on else s

/-- ISLAND_CHANGE_COMPLETE: a change into OFF, or a grove's return from CLKOFF, is complete (R418). -/
def State.changeComplete (s : State) (i : Nat) : State :=
  match (s.isl i).st, (s.isl i).goal with
  | .off, _ => s
  | _, some .off => s.islandDone i .off
  | .clkoff, some .on => s.islandDone i .on
  | _, _ => s

/-- The point at which XCLK of grove g runs, in power-on reset, a start reset and SAFE too; none while it is stopped low, in CLKOFF and
OFF (R455, R471). -/
def State.xclk (s : State) (g : Nat) : Option Nat :=
  if (s.isl (10 + g)).st = .on then some (s.point g).pta else none

/-- XRST_N of grove g: 0 in reset and while the grove is not ON, 1 from 16 cycles of the grove's clock after it has come to ON (R455,
R471). -/
def State.xrstN (s : State) (g : Nat) : Bool := s.groveOn g && (s.grove g).woke + 16 ≤ (s.grove g).cyc

/-- ISLSTAT (R426). -/
def State.islStat (s : State) : BitVec 32 :=
  (upto 18).foldl (fun v i => setBit v i (s.islandUp i)) 0

/-- LINKSTAT (R411, R426). -/
def State.linkStat (s : State) : BitVec 32 :=
  match s.start.linkFail with
  | some (a, b) => BitVec.ofNat 32 (2 ^ 31 + a * 2 ^ 8 + b)
  | none => 0

/-- A write of a clock and power register at an offset from M:0x0001_1000 (R426). -/
def State.writePower (s : State) (off : Nat) (d : BitVec 32) (image : Bool) : State :=
  let a := 0x11000 + off
  if off = 4 then s.setReg a (s.reg a &&& ~~~(d &&& 0x8000003F))
  else if off = 0xC then s.setReg a (s.reg a &&& ~~~(d &&& 0x3FFFF))
  else if 0x10 ≤ off && off < 0x30 && off % 4 = 0 then s.writeGclk ((off - 0x10) / 4) d image
  else if 0x30 ≤ off && off < 0x40 && off % 4 = 0 then s.writePictl ((off - 0x30) / 4) d image
  else s

/-! ## One meaning for each event -/

def execClockLoss (i : Fin 6) (s : State) : Host.Outcome State Fault Refusal := .next (s.clockLoss i.val)
def execClockReturn (i : Fin 6) (s : State) : Host.Outcome State Fault Refusal := .next (s.clockReturn i.val)

/-- REFCLK_LOSS (R409). -/
def execRefclkLoss (s : State) : Host.Outcome State Fault Refusal :=
  .next ((s.modTime (fun t => { t with refOk := false })).orReg 0x11004 0x80000000)

/-- REFCLK_RETURN (R409). -/
def execRefclkReturn (s : State) : Host.Outcome State Fault Refusal := .next (s.modTime (fun t => { t with refOk := true }))

def execGroveClkoffEntry (g : Fin 8) (s : State) : Host.Outcome State Fault Refusal := .next (s.clkoffEntry g.val)
def execClockPointChange (g : Fin 8) (s : State) : Host.Outcome State Fault Refusal := .next (s.pointChange g.val)
def execIslandWakeComplete (i : Fin 18) (s : State) : Host.Outcome State Fault Refusal := .next (s.wakeComplete i.val)
def execIslandChangeComplete (i : Fin 18) (s : State) : Host.Outcome State Fault Refusal := .next (s.changeComplete i.val)

end Sys2Proof.Machine
end

