-- ==== Sys2Proof/Machine/RegShape.lean ====
section
/-!
DEFINITION. The register map by address (R486): the island of an address, the wide registers (R67, R480), and for each register
its fields: those whose Cold value is "image" and the others (R14, R15, R435).
-/
namespace Sys2Proof.Machine

/-! ## Wide registers -/

/-- A 64-bit counter lies at offset `off`: its RL address and its two words. -/
def pair (a off : Nat) : Option (Nat × Nat) := some (a - off % 8, 2)

/-- The wide register of a heartwood time address (R387). -/
def wideTime (off : Nat) : Option (Nat × Nat) :=
  if off < 0xC then some (0x10000, 3)
  else if off < 0x14 then some (0x1000C, 2)
  else if off = 0x34 || off = 0x38 then some (0x10034, 2)
  else if 0x3C ≤ off && off < 0x48 then some (0x1003C, 3)
  else if 0x48 ≤ off && off < 0x50 then some (0x10048, 2)
  else none

/-- The wide register of an engine offset (R148). -/
def wideEngine (a off : Nat) : Option (Nat × Nat) :=
  if 0x10 ≤ off && off < 0x58 then some (a - (off - 0x10) % 12, 3) else none

/-- The wide register of a port island offset (R105, R146). -/
def wideIsland (a off : Nat) : Option (Nat × Nat) :=
  if off < 0x8000 then
    let r := off % 0x400
    if 0x100 ≤ r && r < 0x300 then wideEngine a ((r - 0x100) % 0x80) else none
  else if 0xE000 ≤ off && off < 0xE200 && off % 16 < 12 then some (a - off % 16, 3)
  else none

/-- The wide register of a core offset (R181, R206, R283). -/
def wideCore (a off : Nat) : Option (Nat × Nat) :=
  if 0x40 ≤ off && off < 0x68 then pair a off
  else if 0xA4 ≤ off && off < 0xB0 then some (a - (off - 0xA4), 3)
  else none

/-- The wide register of a grove unit offset (R193, R255, R316, R318, R389). -/
def wideUnit (a unit off : Nat) : Option (Nat × Nat) :=
  if unit = 7 then
    if off < 0x800 && 0x10 ≤ off % 0x40 && off % 0x40 < 0x28 then pair a off else none
  else if unit = 8 then if 0x4B8 ≤ off && off < 0x4C0 then pair a off else none
  else if unit = 9 then
    if 0x214 ≤ off && off < 0x220 then some (a - (off - 0x214), 3)
    else if 0x220 ≤ off && off < 0x230 then pair a off
    else none
  else if unit = 0xA then if 4 ≤ off && off < 0x10 then some (a - (off - 4), 3) else none
  else if unit = 0xF then if 8 ≤ off && off < 0x10 then pair a off else none
  else none

/-- The wide register that holds address a: its RL address and its words. -/
def wideAt (a : Nat) : Option (Nat × Nat) :=
  if a < 0x60 then if (0x30 ≤ a && a < 0x38) || 0x40 ≤ a then pair a a else none
  else if 0x10000 ≤ a && a < 0x10080 then wideTime (a - 0x10000)
  else if 0x13000 ≤ a && a < 0x13400 then pair a a
  else if 0x40000 ≤ a && a < 0x80000 then wideIsland a (a % 0x10000)
  else if 0x84000 ≤ a && a < 0x85038 then pair a a
  else if 0x8A000 ≤ a && a < 0x8C000 then if a % 0x40 < 0x30 then pair a a else none
  else if 0xA0010 ≤ a && a < 0xA0020 then pair a a
  else if 0xA0100 ≤ a && a < 0xA0130 then some (a - (a - 0xA0100) % 12, 3)
  else if 0xA0130 ≤ a && a < 0xA0138 then some (0xA0130, 2)
  else if 0xA2000 ≤ a && a < 0xA4000 then if a % 0x80 < 0x50 then pair a a else none
  else if 0xC1000 ≤ a && a < 0xC1C00 then if 0x40 ≤ a % 0x100 && a % 0x100 < 0x70 then pair a a else none
  else if 0xE0040 ≤ a && a < 0xE0048 then pair a a
  else if 0xE0050 ≤ a && a < 0xE0058 then pair a a
  else if 0xE0060 ≤ a && a < 0xE0070 then pair a a
  else if 0x800000 ≤ a && a < 0x1000000 then
    let off := a % 0x100000
    if off < 0x20000 then wideCore a (off % 0x1000) else wideUnit a (off / 0x10000) (off % 0x10000)
  else none

/-! ## Fields -/

/-- The fields of a register: those whose Cold value is "image", and the others; what lies in neither is reserved. -/
abbrev Shape := BitVec 32 × BitVec 32

/-- The time registers (R387). -/
def shapeTime (off : Nat) : Option Shape :=
  match off with
  | 0x1C => some (0xFFFFFFFF, 0)
  | 0x28 => some (0x7FFF0FFF, 0x80000000)
  | 0x2C => some (0xFFFFF, 0)
  | _ => if off < 0x50 then some (0, 0xFFFFFFFF) else none

/-- The clock and power registers (R426). -/
def shapePower (off : Nat) : Option Shape :=
  if off < 0x10 then some (0, 0xFFFFFFFF)
  else if off < 0x30 then some (0xE67, 0x3180)
  else if off < 0x40 then some (0x60, 0xE00)
  else none

/-- The ring registers (R106). -/
def shapeRing (off : Nat) : Option Shape :=
  match off with
  | 0 => some (0xF87F7FFF, 0)
  | 4 => some (0xFFFF, 0)
  | 8 => some (0xFFFFFFFF, 0)
  | 0xC => some (0xFFFF, 0)
  | 0x10 => some (0x80FF, 0)
  | 0x14 => some (0, 0xFFFFFFFF)
  | _ => none

/-- The start registers (R452). -/
def shapeStart (off : Nat) : Option Shape :=
  if off = 0x10 then some (0xFFFFFFFF, 0)
  else if off = 0x18 || off = 0x1C then some (0xFFFFFFFF, 0)
  else if off < 0x64 && off ≠ 0x14 then some (0, 0xFFFFFFFF)
  else none

/-- The registers of an engine (R148). -/
def shapeEngine (off : Nat) : Option Shape :=
  match off with
  | 0 => some (0x78FFFFC0, 0x80000000)
  | 0x4C => some (0xFFFFFFFF, 0)
  | 0x50 => some (0xFFFFFFFF, 0)
  | 0x54 => some (0xFF, 0)
  | 0x58 => some (0x8003FFC7, 0)
  | _ => if off < 0x58 then some (0, 0xFFFFFFFF) else none

/-- The registers of a port island (R105, R146, R147). -/
def shapeIsland (off : Nat) : Option Shape :=
  if off < 0x8000 then
    let r := off % 0x400
    if r < 0xC0 then some (0xFFFFFF, 0)
    else if r = 0xC0 then some (0xFFFFC000, 0)
    else if 0x100 ≤ r && r < 0x300 then shapeEngine ((r - 0x100) % 0x80)
    else none
  else if 0xE000 ≤ off && off < 0xE200 then if off % 16 < 12 then some (0, 0xFFFFFFFF) else none
  else if 0xF000 ≤ off && off < 0xF200 then
    match off % 16 with
    | 0 => some (0xFF00, 1)
    | 4 => some (0, 0xFFFFFFFF)
    | 8 => some (0, 0xFFFFFFFF)
    | _ => none
  else none

/-- The trunk registers below the egress registers (R66 to R72). -/
def shapeTrunk (off : Nat) : Option Shape :=
  if off = 0xC then some (0xFFFF, 0)
  else if off < 0x18 then some (0, 0xFFFFFFFF)
  else if 0x1000 ≤ off && off < 0x1400 then some (0x3F3F3F3F, 0)
  else if 0x2000 ≤ off && off < 0x2100 then some (0, 0xFFFFFFFF)
  else if 0x3000 ≤ off && off < 0x3800 then
    match off % 16 with
    | 0 => some (0xFFFFFFF, 0)
    | 4 => some (0, 0xFFFFFFFF)
    | 8 => some (0x3FFF, 0)
    | _ => none
  else if 0x4000 ≤ off && off < 0x5038 then some (0, 0xFFFFFFFF)
  else none

/-- The egress registers and the gate-list window, by offset from M:0x0008_8000 (R102 to R104). -/
def shapeEgress (off : Nat) : Option Shape :=
  if off < 0x2000 then
    match off % 0x40 with
    | 0 => some (0x7FFFF00E, 0)
    | 0x24 => some (0xFFFF, 0)
    | 0x28 => some (0, 0xFFFFFFFF)
    | r => if r < 0x24 then some (0xFFFFFFFF, 0) else none
  else if off < 0x4000 then if off % 0x40 < 0x30 then some (0, 0xFFFFFFFF) else none
  else match off with
    | 0x4004 => some (0xFF, 0)
    | 0x4008 => some (0xFFFFFFFF, 0)
    | 0x400C => some (0xFFFFFFFF, 0)
    | 0x4010 => some (0x7FF, 0)
    | 0x4014 => some (0xFFFFFFFF, 0)
    | 0x4018 => some (0xFFFFFFFF, 0)
    | 0x401C => some (0xFF, 0)
    | _ => if off = 0x4000 || off = 0x4020 then some (0, 0xFFFFFFFF) else none

/-- The lookup registers (R351 to R355). -/
def shapeLookup (off : Nat) : Option Shape :=
  if off = 0 then some (0x8000FFFF, 0)
  else if off < 0x20 then some (0, 0xFFFFFFFF)
  else if 0x100 ≤ off && off < 0x140 then some (0, 0xFFFFFFFF)
  else if 0x1000 ≤ off && off < 0x1800 then
    match off % 0x20 with
    | 0 => some (0xFFF000FF, 0)
    | 4 => some (0xFFFFFFFF, 0)
    | 8 => some (0x3F, 0)
    | 0xC => some (0xFFFFFFFF, 0)
    | 0x10 => some (0, 0xFFFFFFFF)
    | _ => none
  else if 0x2000 ≤ off && off < 0x4000 && off % 0x80 < 0x50 then some (0, 0xFFFFFFFF)
  else none

/-- The memory port and recorder registers, by offset from M:0x000C_0000 (R388, R405, R406). -/
def shapeMemory (off : Nat) : Option Shape :=
  match off with
  | 0 => some (0xFF, 0)
  | 4 => some (0x1FFF, 0)
  | 8 => some (0, 0xFFFFFFFF)
  | 0x10 => some (0xFFFFFFFF, 0)
  | 0x14 => some (0xFF, 0)
  | 0x20000 => some (0xF80000FF, 0)
  | 0x20004 => some (0x7FF, 0)
  | 0x20008 => some (0xFFFFFFFF, 0)
  | 0x2000C => some (0x7F, 0)
  | 0x20010 => some (0xFFFFF, 0)
  | 0x20014 => some (0, 0xFFFFFFFF)
  | _ =>
    if 0x1000 ≤ off && off < 0x1C00 && (off % 0x100 = 0 || (0x40 ≤ off % 0x100 && off % 0x100 < 0x70)) then some (0, 0xFFFFFFFF)
    else if 0x20020 ≤ off && off < 0x20030 then some (0xFFFFFFFF, 0)
    else if 0x20040 ≤ off && off < 0x20070 && off ≠ 0x2005C then some (0, 0xFFFFFFFF)
    else none

/-- The registers of a thread (R182, R282). -/
def shapeThread (off : Nat) : Option Shape :=
  match off with
  | 0 => some (0xF03, 0)
  | 4 => some (0x7C0000, 0xF030003)
  | 0xC => some (0xFFFFFF, 0)
  | _ => if off < 0x2C then some (0, 0xFFFFFFFF) else none

/-- The registers of a core (R181, R206, R283, R315). -/
def shapeCore (off : Nat) : Option Shape :=
  if 0x100 ≤ off then if off < 0x500 then shapeThread ((off - 0x100) % 0x40) else none
  else if off < 0xC then some (0, 0xFFFFFFFF)
  else if 0x10 ≤ off && off < 0x30 then some (0x1F1F1F1F, 0)
  else if 0x40 ≤ off && off < 0x68 then some (0, 0xFFFFFFFF)
  else if 0x80 ≤ off && off < 0xB8 then some (0, 0xFFFFFFFF)
  else if 0xC0 ≤ off && off < 0xE0 then some (0x1F1F1F1F, 0)
  else none

/-- The lock unit's registers (R318). -/
def shapeLocks (off : Nat) : Option Shape :=
  if 0x400 ≤ off && off < 0x480 then some (0xFFFF, 0)
  else if off = 0x498 || off = 0x49C then some (0xFFFFFFFF, 0)
  else if off = 0x4A8 then some (0x8000FFFF, 0)
  else if 0x500 ≤ off && off < 0x600 then some (0x80003FE7, 0)
  else if off < 0x4B4 then some (0, 0xFFFFFFFF)
  else if 0x4B8 ≤ off && off < 0x4C0 then some (0, 0xFFFFFFFF)
  else if 0x600 ≤ off && off < 0x700 then some (0, 0xFFFFFFFF)
  else none

/-- The bank control registers (R316). -/
def shapeBanks (off : Nat) : Option Shape :=
  if off < 0x80 then some (0xFF800000, 1)
  else if off < 0x88 then some (0x7F800000, 1)
  else if 0x100 ≤ off && off < 0x180 then some (0, 0xFFFFFFFF)
  else if off = 0x200 then some (0x8000FFFF, 0)
  else if 0x210 ≤ off && off < 0x230 then some (0, 0xFFFFFFFF)
  else none

/-- The registers of a grove unit (R73, R193, R255, R284, R319, R389, R453). -/
def shapeUnit (unit off : Nat) : Option Shape :=
  match unit with
  | 7 => if (off < 0x800 && off % 0x40 < 0x28) || off = 0x800 || (0x900 ≤ off && off < 0x910) then some (0, 0xFFFFFFFF) else none
  | 8 => shapeLocks off
  | 9 => shapeBanks off
  | 0xA =>
    if off = 4 || off = 8 then some (0xFFFFFFFF, 0)
    else if off = 0xC then some (0x3FF, 0)
    else if off = 0 || off = 0x10 then some (0, 0xFFFFFFFF)
    else none
  | 0xB => if off < 0x200 && off % 0x40 < 0x1C then some (0, 0xFFFFFFFF) else none
  | 0xC =>
    if off < 0x800 then some (0xF, 0)
    else if off = 0x1000 then some (0xFFF, 0)
    else if off = 0x1004 || off = 0x1008 then some (0, 0xFFFFFFFF)
    else none
  | 0xD =>
    if off = 0 then some (0x1FF, 0)
    else if off = 0x18 then some (0xFFFF, 0)
    else if off < 0x24 then some (0, 0xFFFFFFFF)
    else none
  | 0xE => if off = 0 then some (0xFFFF, 0) else if off = 4 then some (0, 0xFFFFFFFF) else none
  | 0xF => if off = 0 then some (0x800000FF, 0) else if off < 0x10 then some (0, 0xFFFFFFFF) else none
  | _ => none

/-- The fields of the register at address a; none where no table of the manual gives one. -/
def regShape (a : Nat) : Option Shape :=
  if a % 4 ≠ 0 then none
  else if a < 0x10000 then
    if a = 0x38 then some (0xFFFF, 0)
    else if a < 0x60 && a ≠ 0xC && a ≠ 0x3C then some (0, 0xFFFFFFFF)
    else none
  else if a < 0x10080 then shapeTime (a - 0x10000)
  else if 0x11000 ≤ a && a < 0x12000 then shapePower (a - 0x11000)
  else if 0x12000 ≤ a && a < 0x12200 then shapeRing (a % 0x20)
  else if 0x13000 ≤ a && a < 0x13400 then some (0, 0xFFFFFFFF)
  else if 0x14000 ≤ a && a < 0x15000 then shapeStart (a - 0x14000)
  else if 0x20000 ≤ a && a < 0x20018 then if a = 0x20004 then some (0x00FF1FFF, 0) else some (0, 0xFFFFFFFF)
  else if 0x40000 ≤ a && a < 0x80000 then shapeIsland (a % 0x10000)
  else if 0x80000 ≤ a && a < 0x86000 then shapeTrunk (a - 0x80000)
  else if 0x88000 ≤ a && a < 0x8D000 then shapeEgress (a - 0x88000)
  else if 0xA0000 ≤ a && a < 0xC0000 then shapeLookup (a - 0xA0000)
  else if 0xC0000 ≤ a && a < 0xE1000 then shapeMemory (a - 0xC0000)
  else if 0x800000 ≤ a && a < 0x1000000 then
    let off := a % 0x100000
    if off < 0x20000 then shapeCore (off % 0x1000)
    else if off < 0x70000 then none
    else shapeUnit (off / 0x10000) (off % 0x10000)
  else none

end Sys2Proof.Machine
end

