-- ==== Sys2Proof/Machine/RegRead.lean ====
section
/-!
DEFINITION. What the registers read as (R4, R8, R9, R66 to R73, R102 to R107, R147, R148, R180 to R182, R193, R206, R255, R281 to
R284, R315 to R319, R351 to R355, R387 to R389, R405, R406, R426, R452, R453, R487 to R492, R504), and what a read changes.
-/
namespace Sys2Proof.Machine

/-- Word i of a wide value. -/
def word32 (v i : Nat) : BitVec 32 := BitVec.ofNat 32 (v >>> (32 * i))

/-- Word k of a 32-byte string held as a big-endian number: bytes 4k to 4k + 3 in [7:0] upward (R452). -/
def digWord (d : BitVec 256) (k : Nat) : BitVec 32 :=
  BitVec.ofNat 32 ((upto 4).foldl (fun a j => a + (d.toNat >>> (8 * (31 - (4 * k + j)))) % 256 * 2 ^ (8 * j)) 0)

/-! ## Island 1 -/

/-- CONFIG (R8). -/
def State.config (s : State) : BitVec 32 := BitVec.ofNat 32 (s.ties.xupres.toNat * 2 ^ 16 + s.ties.memports * 2 ^ 8 + 0x34)

/-- FATALSTAT (R491, R492). -/
def State.fatalStat (s : State) : BitVec 32 := BitVec.ofNat 32 (b1 s.mgmt.fatalSafe * 2 ^ 8 + s.mgmt.fatalG.toNat)

/-- A port of island k has ETSOVR or an engine ERR (R488). -/
def State.portsSource (s : State) (k : Nat) : Bool :=
  s.islandUp (6 + k) && (upto 32).any (fun b =>
    let p := 32 * k + b
    bit (s.reg (aPort p + 4)) 7 || (upto 4).any (fun e => bit (s.reg (aEngine p e + 8)) 29))

/-- The sources of grove g (R488). -/
def State.groveSource (s : State) (g : Nat) : Bool :=
  s.groveOn g && ((s.grove g).fatal || bit (s.reg (aExc g + 4)) 30 ||
    (upto 32).any (fun b => bit (s.reg (aBanks g + 0x100 + 4 * b)) 3) || bit (s.reg (aDisp g + 0x1004)) 24 ||
    bit (s.reg (aIstore g + 0x10)) 0 || fld (s.reg (aExt g + 4)) 22 2 ≠ 0 ||
    (upto 32).any (fun c => bit (s.reg (aCore g c + 4)) 3 || bit (s.reg (aCore g c + 0xB4)) 0))

/-- The conditions of ring r that hold RING at 1 (R488). -/
def State.ringSource (s : State) (r : Nat) : Bool :=
  let v := s.ring r
  v.faultA || v.faultB || v.breakA || v.breakB || bit (s.reg (aRing r + 0x14)) 26

/-- The source levels by their bit of IRQRAW (R488). -/
def State.irqSource (s : State) (i : Nat) : Bool :=
  match i with
  | 0 => s.reg 0x2000C ≠ 0
  | 1 => s.reg 0x11004 ≠ 0
  | 2 => s.reg 0x10030 ≠ 0
  | 3 => s.reg 0x1100C ≠ 0 || (upto 8).any (fun g => bit (s.reg (aGclk g)) 13) || (upto 4).any (fun k => bit (s.reg (aPictl k)) 11)
  | 4 => (upto 16).any (fun r => s.ringSource r)
  | 5 => bit (s.reg 0x80004) 18 || (upto 128).any (fun p => bit (s.reg (aEgress p + 0x28)) 0)
  | 6 => bit (s.reg 0xA013C) 29 || (s.cmd 0).ovr || bit (s.reg 0xA0004) 30
  | 7 => (upto s.ties.memports).any (fun p => s.reg (aMem p) ≠ 0)
  | 8 => bit (s.reg 0xE0014) 28
  | _ =>
    if 9 ≤ i && i < 13 then s.portsSource (i - 9)
    else if 16 ≤ i && i < 24 then s.groveSource (i - 16)
    else false

/-- IRQRAW (R488). -/
def State.irqRaw (s : State) : BitVec 32 := (upto 24).foldl (fun v i => setBit v i (s.irqSource i)) 0

/-- IRQSTAT: IRQRAW AND IRQEN (R489). -/
def State.irqStat (s : State) : BitVec 32 := s.irqRaw &&& s.reg 0x20004

/-- HOST_IRQ (R489). -/
def State.hostIrq (s : State) : Bool := s.irqStat ≠ 0
/-- HOST_FATAL (R491). -/
def State.hostFatal (s : State) : Bool := s.fatalStat ≠ 0

/-- Island 1 below M:0x0001_0000 (R4, R8, R9, R487). -/
def State.readIdent (s : State) (off : Nat) : BitVec 32 :=
  match off with
  | 0x00 => 0x00020100
  | 0x04 => s.config
  | 0x08 => 0xD2EF0128
  | 0x20 => setBit (s.reg 0x20) 31 s.mgmt.latchV
  | 0x24 => if s.mgmt.latchV then s.mgmt.latchA.setWidth 32 else 0
  | _ => if 0x10 ≤ off && off < 0x20 then word32 s.ties.pinpads.toNat ((off - 0x10) / 4) else s.reg off

/-- Interrupt aggregation (R492). -/
def State.readIrq (s : State) (off : Nat) : BitVec 32 :=
  match off with
  | 0x00 => s.irqRaw
  | 0x08 => s.irqStat
  | 0x10 => s.fatalStat
  | _ => s.reg (0x20000 + off)

/-! ## The heartwood -/

/-- Time registers that are not wide (R387). -/
def State.readTime (s : State) (off : Nat) : BitVec 32 :=
  match off with
  | 0x14 | 0x20 => mget 0 s.stag (0x10000 + off)
  | 0x18 => BitVec.ofNat 32 (b1 s.time.tsetV * 2 ^ 31 + fld s.time.tset 32 8)
  | 0x30 => s.timeStat
  | _ => s.reg (0x10000 + off)

/-- Clocks and power (R426). -/
def State.readPower (s : State) (off : Nat) : BitVec 32 :=
  if off = 0 then s.islStat
  else if off = 8 then s.linkStat
  else if 0x10 ≤ off && off < 0x30 then s.readGclk ((off - 0x10) / 4)
  else if 0x30 ≤ off && off < 0x40 then s.readPictl ((off - 0x30) / 4)
  else s.reg (0x11000 + off)

/-- A start is running (R452). -/
def State.running (s : State) : Bool :=
  match s.start.phase with
  | .due | .waitMem | .waitTime | .init0 | .init1 | .backoff => true
  | _ => false

/-- STARTSTAT; RSVDIGN, EVLOST and STOREUE stick in the register map (R452). -/
def State.startStat (s : State) : BitVec 32 :=
  let v := s.start
  (s.reg 0x14004) ||| BitVec.ofNat 32 (b1 s.running * 2 ^ 31 + b1 v.isDone * 2 ^ 30 + b1 v.isSafe * 2 ^ 29 + b1 v.warm * 2 ^ 28 +
    v.attempt % 4 * 2 ^ 26 + b1 v.slot * 2 ^ 25 + b1 v.digok * 2 ^ 24 + b1 v.memret * 2 ^ 23 + v.step % 16 * 2 ^ 16 +
    v.fcode.toNat * 2 ^ 8)

/-- The start registers (R452). -/
def State.readStart (s : State) (off : Nat) : BitVec 32 :=
  match off with
  | 0x00 => 0
  | 0x04 => s.startStat
  | 0x08 => s.start.fail0
  | 0x0C => BitVec.ofNat 32 (s.start.sect.toNat * 2 ^ 16 + s.start.unit.toNat * 2 ^ 8 + s.start.detail.toNat)
  | 0x18 => s.start.imgid.extractLsb' 0 32
  | 0x1C => s.start.imgid.extractLsb' 32 32
  | 0x40 => BitVec.ofNat 32 (s.ties.bootmode.toNat * 2 ^ 30 + b1 s.ties.authsig * 2 ^ 29 + b1 s.ties.alten * 2 ^ 28)
  | _ =>
    if 0x20 ≤ off && off < 0x40 then digWord s.start.digest ((off - 0x20) / 4)
    else if 0x44 ≤ off && off < 0x64 then word32 s.ties.keyhash.toNat ((off - 0x44) / 4)
    else s.reg (0x14000 + off)

/-! ## Port islands -/

/-- ESTAT of an engine (R148). Model's choice, log entry 125: ERRCODE reads the code of the last error halt. -/
def State.readEstat (s : State) (p e : Nat) : BitVec 32 :=
  let x := s.eng p e
  let st := match x.st with | .halted => 0 | .running => 1 | .holding => 2
  (s.reg (aEngine p e + 8)) ||| BitVec.ofNat 32 (st * 2 ^ 30 + x.errc.toNat * 2 ^ 27 + b1 x.pushf * 2 ^ 20 + b1 x.pullf * 2 ^ 19 +
    b1 x.b * 2 ^ 18 + b1 x.kf * 2 ^ 17 + x.kl % 16 * 2 ^ 13 + x.bcnt % 128 * 2 ^ 6 + x.pc.toNat)

/-- ECTL: RUN reads 1 unless HALTED (R148). -/
def State.readEctl (s : State) (p e : Nat) : BitVec 32 := setBit (s.ectl p e) 31 ((s.eng p e).st ≠ .halted)

/-- Engine registers that are not wide (R148). -/
def State.readEngine (s : State) (p e off : Nat) : BitVec 32 :=
  match off with
  | 0 => s.readEctl p e
  | 4 => 0
  | 8 => s.readEstat p e
  | 0xC => BitVec.ofNat 32 ((s.eng p e).cntb.toNat * 2 ^ 16 + (s.eng p e).cnta.toNat)
  | 0x58 => s.reg (aEngine p e + 0x58)
  | _ => 0

/-- The 72-bit engine register at an RL offset, with FRESH above TSC (R148). -/
def Engine.wide (x : Engine) (off : Nat) : Nat :=
  match off with
  | 0x10 => x.shr.toNat
  | 0x1C => x.x.toNat
  | 0x28 => x.pushq.toNat
  | 0x34 => x.pullq.toNat
  | 0x40 => x.tsc.toNat + b1 x.fresh * 2 ^ 95
  | 0x4C => x.xinit.toNat
  | _ => 0

/-- PORTSTAT (R105). -/
def State.portStat (s : State) (p : Nat) : BitVec 32 :=
  let q := s.port p
  let st := match q.st with | .off => 0 | .starting => 1 | .up => 2 | .draining => 3
  (s.reg (aPort p + 4)) ||| BitVec.ofNat 32 (q.infl % 2 ^ 15 * 2 ^ 16 + q.etsq.length % 16 * 2 ^ 8 + b1 q.link * 2 ^ 4 +
    b1 q.pend * 2 ^ 3 + st)

/-- The entry of ETSQ that the last read removed, as ETSQ0 to ETSQ2 give it (R105). -/
def etsWide : Option Ets → Nat
  | some e => e.ets.toNat + (e.seq % 2 ^ 16 * 2 ^ 8 + e.dom % 64 * 2 ^ 24 + 2 ^ 31) * 2 ^ 64
  | none => 0

/-- Registers of a port island that are not wide, by offset (R105, R146, R147). -/
def State.readIsland (s : State) (k off : Nat) : BitVec 32 :=
  if off < 0x8000 then
    let p := 32 * k + off / 0x400
    let r := off % 0x400
    if r < 0xC0 then (mget 0 (s.port p).store (r / 4)).setWidth 32
    else if r = 0xC0 then s.pecfg p
    else if 0x100 ≤ r && r < 0x300 then s.readEngine p ((r - 0x100) / 0x80) ((r - 0x100) % 0x80)
    else 0
  else if 0xF000 ≤ off && off < 0xF200 then
    let p := 32 * k + (off - 0xF000) / 16
    match off % 16 with
    | 0 => s.reg (aPort p)
    | 4 => s.portStat p
    | 8 => (s.port p).hold.setWidth 32
    | _ => 0
  else 0

/-! ## The trunk -/

/-- DISPSTAT (R69). NOSLOT reads 1 while an ended frame waits for a slot with EN 1 and all slots are taken; R39 alone would also let it
read 1 with no frame waiting (log entry 107). -/
def State.dispStat (s : State) : BitVec 32 :=
  let t := s.trunk
  let noCred : Bool := t.issueQ ≠ [] && (upto 8).all (fun g => !bit (s.reg 0x80000) (16 + g) || mget 0 t.credits g = 0)
  let noSlot : Bool := t.ended ≠ [] && s.dispOn && t.slots.length ≥ 16384
  (s.reg 0x80004) ||| BitVec.ofNat 32 (b1 noCred * 2 ^ 17 + b1 noSlot * 2 ^ 16 + t.issueQ.length % 2 ^ 15)

/-- Dispatch and collector registers that are not counters, by offset from M:0x0008_0000 (R66 to R72). -/
def State.readTrunk (s : State) (off : Nat) : BitVec 32 :=
  let t := s.trunk
  if off = 4 then s.dispStat
  else if off = 8 then BitVec.ofNat 32 t.slots.length
  else if off = 0x10 then BitVec.ofNat 32 (524288 - t.alloc.length)
  else if off = 0x14 then BitVec.ofNat 32 t.peak
  else if 0x2000 ≤ off && off < 0x2100 then
    let d := t.dom ((off - 0x2000) / 4)
    BitVec.ofNat 32 (d.head % 2 ^ 16 * 2 ^ 16 + d.next % 2 ^ 16)
  else if 0x3000 ≤ off && off < 0x3800 && off % 16 = 4 then BitVec.ofNat 32 (s.port ((off - 0x3000) / 16)).used
  else s.reg (0x80000 + off)

/-- EGSTAT (R102). -/
def State.egStat (s : State) (p : Nat) : BitVec 32 :=
  let q := s.port p
  (s.reg (aEgress p + 0x28)) ||| BitVec.ofNat 32 ((s.gates p).toNat * 2 ^ 24 + q.gact % 2 * 2 ^ 8 + b1 q.garm.isSome * 2)

/-- A gate-list register of the selected bank, by offset from M:0x0008_C000 (R104). -/
def State.readGateWin (s : State) (off : Nat) : BitVec 32 :=
  let sel := s.reg 0x8C000
  let q := s.port (fld sel 16 7)
  let b := fld sel 12 1
  match off with
  | 0x00 => sel
  | 0x04 => BitVec.ofNat 32 (fld (q.gent b (fld sel 0 10)) 32 8)
  | 0x08 => BitVec.ofNat 32 (fld (q.gent b (fld sel 0 10)) 0 32)
  | 0x0C => mget 0 q.gcycle b
  | 0x10 => (mget 0 q.glen b).setWidth 32
  | 0x14 => word32 (mget 0 q.gbase b).toNat 0
  | 0x18 => word32 (mget 0 q.gbase b).toNat 1
  | 0x1C => word32 (mget 0 q.gbase b).toNat 2
  | _ => 0

/-- Egress registers that are not counters, by offset from M:0x0008_8000 (R102, R104). -/
def State.readEgress (s : State) (off : Nat) : BitVec 32 :=
  if off < 0x2000 then if off % 0x40 = 0x28 then s.egStat (off / 0x40) else s.reg (0x88000 + off)
  else if 0x4000 ≤ off then s.readGateWin (off - 0x4000)
  else 0

/-! ## Lookup, memory, recorder -/

/-- Lookup registers that are not wide, by offset from M:0x000A_0000 (R351, R352, R355). -/
def State.readLookup (s : State) (off : Nat) : BitVec 32 :=
  if off = 4 then (s.reg 0xA0004) ||| BitVec.ofNat 32 (b1 s.lookup.ready * 2 ^ 31 + s.cacheFree % 2 ^ 12)
  else if 0x100 ≤ off && off < 0x140 then s.readHostSlot (off - 0x100)
  else if 0x1000 ≤ off && off < 0x1800 && off % 0x20 = 0x10 then s.tblStat ((off - 0x1000) / 0x20)
  else s.reg (0xA0000 + off)

/-- Memory and recorder registers that are not wide, by offset from M:0x000C_0000 (R388, R405, R406). -/
def State.readMemory (s : State) (off : Nat) : BitVec 32 :=
  if off = 8 then
    BitVec.ofNat 32 (b1 s.memRet * 2 ^ 16 + (upto s.ties.memports).foldl (fun a p => a + b1 (s.mem p).ready * 2 ^ p) 0)
  else if 0x1000 + 0x100 * s.ties.memports ≤ off && off < 0x2000 then 0
  else if 0x1000 ≤ off && off < 0x2000 && off % 0x100 = 0 then s.readMpstat ((off - 0x1000) / 0x100)
  else if off = 0x20014 then s.recStat
  else if off = 0x20048 then word32 s.recd.rd 0
  else if off = 0x2004C then word32 s.recd.rd 1
  else if off = 0x20058 then s.recd.ctick
  else s.reg (0xC0000 + off)

/-! ## Groves -/

/-- THSTAT.WAIT (R173): HALT and HELD first, then the wait. -/
def Thread.waitCode (t : Thread) : Nat :=
  if t.halted then 1
  else if t.held then 2
  else match t.wait with
    | .ready => 0
    | .parked | .parkedDone => 3
    | .desc => 4
    | .load => 5
    | .ovlap _ => 6
    | .lock _ => 7
    | .event _ => 8
    | .chanR _ | .chanW _ => 9
    | .sbfull _ => 10
    | .drain | .drainPw => 11
    | .cqfull _ => 12
    | .bank _ => 13
    | .xunit => 14

/-- THSTAT (R182). -/
def Thread.thstat (t : Thread) : BitVec 32 :=
  BitVec.ofNat 32 (t.waitCode * 2 ^ 24 + fld t.thcfgA 8 3 * 2 ^ 20 + fld t.thcfgA 1 1 * 2 ^ 19 + fld t.thcfgA 0 1 * 2 ^ 18 +
    b1 (t.descs ≠ []) * 2 ^ 17 + b1 t.syncp * 2 ^ 16 + t.sb.length % 4)

/-- EXINFO (R282). -/
def Thread.exinfo (t : Thread) : BitVec 32 :=
  BitVec.ofNat 32 (b1 t.xNmi * 2 ^ 31 + b1 t.xInt * 2 ^ 30 + t.xLine.toNat * 2 ^ 27 + t.srcth.toNat)

/-- EXSTAT (R282). -/
def Thread.exstat (t : Thread) : BitVec 32 :=
  BitVec.ofNat 32 (b1 t.nmiact * 2 ^ 31 + t.hreason.toNat * 2 ^ 29 + t.nmidepth.toNat * 2 ^ 24 + t.ocause.toNat * 2 ^ 16 +
    b1 t.chabp * 2 + b1 t.bskip)

/-- DBGSTAT (R279, R282). -/
def Thread.dbgstat (t : Thread) : BitVec 32 :=
  let ch := match t.staging with | some (u, _) => u | none => 0
  BitVec.ofNat 32 (t.hcause.toNat * 2 ^ 29 + t.bpnum.toNat * 2 ^ 27 + b1 ((t.halted || t.held) && t.staging.isSome) * 2 ^ 26 +
    ch % 64 * 2 ^ 20)

/-- A thread's registers (R182, R282). -/
def State.readThread (s : State) (th off : Nat) : BitVec 32 :=
  let t := s.thread th
  match off with
  | 0x00 => t.thcfgP
  | 0x04 => t.thstat
  | 0x08 => s.reg (aThread th + 8)
  | 0x0C => s.reg (aThread th + 0xC)
  | 0x14 => BitVec.ofNat 32 (b1 t.nmip * 2 ^ 16 + t.tsrc.toNat * 2 ^ 8 + t.lines.toNat)
  | 0x1C => t.exinfo
  | 0x20 => t.exstat
  | 0x28 => t.dbgstat
  | _ => 0

/-- A core's registers that are not wide (R181, R283, R315). -/
def State.readCore (s : State) (g c off : Nat) : BitVec 32 :=
  let k := s.core (coreKey g c)
  if off ≥ 0x100 then if off < 0x500 then s.readThread (thid g c ((off - 0x100) / 0x40)) ((off - 0x100) % 0x40) else 0
  else if off = 4 then (s.reg (aCore g c + 4)) ||| BitVec.ofNat 32 (k.pos % 16 * 2 ^ 16 + b1 k.mreq * 4 + b1 k.service)
  else if 0x20 ≤ off && off < 0x30 then mget 0 k.slotAct ((off - 0x20) / 4)
  else s.reg (aCore g c + off)

/-- LKSTAT of lock u (R318). -/
def State.lkstat (s : State) (g u : Nat) : BitVec 32 :=
  let l := s.lock g u
  BitVec.ofNat 32 (b1 l.holder.isSome * 2 ^ 31 + l.waiters.length % 2 ^ 10 * 2 ^ 12 + l.holder.getD 0 % 2 ^ 12)

/-- CHSTAT of channel u (R318). -/
def State.chstat (s : State) (g u : Nat) : BitVec 32 :=
  let c := s.chan g u
  BitVec.ofNat 32 (b1 (s.chanWhalt g u) * 2 ^ 31 + c.msgs.length % 8 * 2 ^ 28 +
    (c.msgs.filter (fun m => m.reader ≠ none)).length % 8 * 2 ^ 25 + c.readers.length % 2 ^ 10 * 2 ^ 15 +
    c.writers.length % 2 ^ 10 * 2 ^ 5)

/-- The lock unit's registers that are not wide (R318). -/
def State.readLocks (s : State) (g off : Nat) : BitVec 32 :=
  let v := s.grove g
  if off < 0x400 then s.lkstat g (off / 4)
  else if off = 0x480 then word32 v.flags.toNat 0
  else if off = 0x484 then word32 v.flags.toNat 1
  else if off = 0x4AC then setBit v.censtat 31 (s.stall g).raised
  else if off = 0x4B0 then v.censth
  else if 0x600 ≤ off && off < 0x700 then s.chstat g ((off - 0x600) / 4)
  else s.reg (aLocks g + off)

/-- The bank control registers that are not wide (R316). -/
def State.readBanks (s : State) (g off : Nat) : BitVec 32 :=
  if off < 0x88 then setBit (s.reg (aBanks g + off)) 0 ((s.grove g).bpend.contains (off / 4))
  else if 0x100 ≤ off && off < 0x180 then
    setBit (s.reg (aBanks g + off)) 4 (mfind (s.grove g).bclr ((off - 0x100) / 4)).isSome
  else s.reg (aBanks g + off)

/-- A DMA channel's registers (R319). -/
def State.readDma (s : State) (g off : Nat) : BitVec 32 :=
  let k := off / 0x40
  let d := s.dma g k
  if off ≥ 0x200 then 0
  else match off % 0x40 with
    | 0x00 => word32 d.src.toNat 0
    | 0x04 => word32 d.src.toNat 1
    | 0x08 => word32 d.dst.toNat 0
    | 0x0C => word32 d.dst.toNat 1
    | 0x10 => d.cnt.setWidth 32
    | 0x14 => BitVec.ofNat 32 (b1 d.fen * 2 ^ 13 + d.flag.toNat)
    | 0x18 => (s.reg (aDstat g k)) ||| BitVec.ofNat 32 (b1 d.busy * 2 ^ 31 + d.code.toNat * 2 ^ 26 + d.left % 2 ^ 16)
    | _ => 0

/-- The dispatch interface (R73). -/
def State.readDisp (s : State) (g off : Nat) : BitVec 32 :=
  let v := s.grove g
  if off = 0x1004 then
    (s.reg (aDisp g + 0x1004)) ||| BitVec.ofNat 32 (v.cqOcc % 128 * 2 ^ 12 + (if v.service then v.free % 2 ^ 12 else 0))
  else s.reg (aDisp g + off)

/-- The grove exception registers (R284, R453). -/
def State.readExc (s : State) (g off : Nat) : BitVec 32 :=
  let v := s.grove g
  match off with
  | 0x04 => (s.reg (aExc g + 4)) ||| BitVec.ofNat 32 (b1 v.fatal * 2 ^ 31 + v.holdQ.length % 2 ^ 10)
  | 0x08 => BitVec.ofNat 32 (b1 v.nmiWdog * 4 + b1 v.nmiStall * 2 + b1 (v.holdQ.any (fun h => !h.reported)))
  | 0x0C => match v.holdQ with | h :: _ => BitVec.ofNat 32 (2 ^ 31 + h.th % 2 ^ 12) | [] => 0
  | _ => s.reg (aExc g + off)

/-- A grove unit's registers that are not wide. Model's choice, log entry 126: PQ, CQ and TQ of HLPSTAT show the number of requests modulo
256 (R255). -/
def State.readUnit (s : State) (g unit off : Nat) : BitVec 32 :=
  match unit with
  | 7 =>
    if off = 0x800 then (s.grove g).gout.setWidth 32
    else if off < 0x800 && off % 0x40 = 0xC then s.readTstat g (off / 0x40)
    else s.reg (aTimers g + off)
  | 8 => s.readLocks g off
  | 9 => s.readBanks g off
  | 0xA => s.reg (aIstore g + off)
  | 0xB => s.readDma g off
  | 0xC => s.readDisp g off
  | 0xD => s.readExc g off
  | 0xE =>
    if off = 4 then
      let v := s.grove g
      BitVec.ofNat 32 (v.parseQ.length % 256 * 2 ^ 16 + v.crcQ.length % 256 * 2 ^ 8 + v.tscfQ.length % 256)
    else s.reg (aHelp g + off)
  | _ => if bit s.ties.xupres g then s.reg (aExt g + off) else 0

/-! ## Wide registers -/

/-- The wide registers of a grove's units. -/
def State.wideUnitVal (s : State) (g unit off : Nat) (a : Nat) : Nat :=
  match unit with
  | 7 =>
    let t := s.timer g (off / 0x40)
    match off % 0x40 with
    | 0x10 => (s.timCount g (off / 0x40)).toNat
    | 0x18 => t.cmp.toNat
    | _ => t.cap.toNat
  | 9 => if off = 0x214 then (s.bwWord g).toNat + (s.reg (aBw g + 0xC)).toNat * 2 ^ 64 else (s.ctr a).toNat
  | 0xA =>
    let w := fld (s.reg (aIstore g)) 0 14
    (mget 0 (s.grove g).istore w).toNat + (mget 0 (s.grove g).imark w).toNat * 2 ^ 72
  | 0xF => if bit s.ties.xupres g then (s.ctr a).toNat else 0
  | _ => (s.ctr a).toNat

/-- The value of the wide register whose RL word is at address a, its words from the lowest. -/
def State.wideVal (s : State) (a : Nat) : Nat :=
  if a < 0x10000 then (s.ctr a).toNat
  else if a = 0x10000 then s.btime.toNat
  else if a = 0x1000C then s.tickNow
  else if a = 0x10034 then (s.time.adjrem % (2 ^ 64 : Int)).toNat
  else if a = 0x1003C then s.time.ppsts.toNat
  else if a = 0x10048 then s.time.tskip
  else if 0x40000 ≤ a && a < 0x80000 then
    let k := (a - 0x40000) / 0x10000
    let off := a % 0x10000
    if off < 0x8000 then (s.eng (32 * k + off / 0x400) ((off % 0x400 - 0x100) / 0x80)).wide ((off % 0x400 - 0x100) % 0x80)
    else etsWide (s.port (32 * k + (off - 0xE000) / 16)).etsLast
  else if 0xA0100 ≤ a && a < 0xA0130 then ((s.cmd 0).word ((a - 0xA0100) / 12)).toNat
  else if a = 0xA0130 then (s.cmd 0).pos.toNat
  else if 0xA2000 ≤ a && a < 0xA4000 && a % 0x80 = 0x48 then (s.tbl ((a - 0xA2000) / 0x80)).slots.length
  else if a = 0xE0040 then s.recd.ptr
  else if a = 0xE0050 then s.recd.commit
  else if 0xC1000 ≤ a && a < 0xC1C00 then if (a - 0xC1000) / 0x100 < s.ties.memports then (s.ctr a).toNat else 0
  else if 0x800000 ≤ a then
    let g := (a - 0x800000) / 0x100000
    let off := a % 0x100000
    if off < 0x20000 then
      if off % 0x1000 = 0xA4 then (s.core (coreKey g (off / 0x1000))).dbgdata.toNat else (s.ctr a).toNat
    else s.wideUnitVal g (off / 0x10000) (off % 0x10000) a
  else (s.ctr a).toNat

/-! ## Reads -/

/-- The value that a read of address a gives now, without what the read changes; addresses of no register read 0. -/
def State.peek (s : State) (a : Nat) : BitVec 32 :=
  match wideAt a with
  | some (rl, _) => word32 (s.wideVal rl) ((a - rl) / 4)
  | none =>
    if (regShape a).isNone then 0
    else if a < 0x10000 then s.readIdent a
    else if a < 0x10080 then s.readTime (a - 0x10000)
    else if a < 0x12000 then s.readPower (a - 0x11000)
    else if a < 0x12200 then if a % 0x20 = 0x14 then s.ringStat ((a - 0x12000) / 0x20) else s.reg a
    else if a < 0x15000 then s.readStart (a - 0x14000)
    else if a < 0x21000 then s.readIrq (a - 0x20000)
    else if a < 0x80000 then s.readIsland ((a - 0x40000) / 0x10000) (a % 0x10000)
    else if a < 0x86000 then s.readTrunk (a - 0x80000)
    else if a < 0x8D000 then s.readEgress (a - 0x88000)
    else if a < 0xC0000 then s.readLookup (a - 0xA0000)
    else if a < 0xE1000 then s.readMemory (a - 0xC0000)
    else
      let g := (a - 0x800000) / 0x100000
      let off := a % 0x100000
      if off < 0x20000 then s.readCore g (off / 0x1000) (off % 0x1000) else s.readUnit g (off / 0x10000) (off % 0x10000)

/-- A read of ISDATA0: ISADDR counts on with INC (R193). -/
def State.isInc (s : State) (g : Nat) : State :=
  let a := s.reg (aIstore g)
  if bit a 31 then s.setReg (aIstore g) (setFld a 0 14 (fld a 0 14 + 1)) else s

/-- A read of ISDATA0: the word and its MARK; a corrected word is counted and written back, and an uncorrectable one is reported and
reads as a free value (R193, R503; log entry 116). -/
def State.isRead (s : State) (g : Nat) : Nat × State :=
  let w := fld (s.reg (aIstore g)) 0 14
  match mget 0 (s.grove g).iecc w with
  | 0 => (s.wideVal (aIstore g + 4), s.isInc g)
  | 1 => (s.wideVal (aIstore g + 4), ((s.modGrove g (fun v => { v with iecc := mdel v.iecc w })).count 0x48).isInc g)
  | _ =>
    let (n, s) := s.fresh
    ((Config.freeWord n 0).toNat + Config.freeField n % 4 * 2 ^ 72, (s.eccEvent (10 + g) 1 g w).isInc g)

/-- A read of the RL word at address a: the whole value, and what the read changes: ETSQ0 removes its entry (R84), PUSHQ0 clears
PUSHF (R148), TCAP0 clears CAPF (R383), BWDATA0 reads the bank (R317), ISDATA0 counts on (R193). -/
def State.readWide (s : State) (a : Nat) : Nat × State :=
  if 0x40000 ≤ a && a < 0x80000 then
    let k := (a - 0x40000) / 0x10000
    let off := a % 0x10000
    if off ≥ 0xE000 then
      let r := s.popEts (32 * k + (off - 0xE000) / 16)
      (etsWide r.2, r.1)
    else if (off % 0x400 - 0x100) % 0x80 = 0x28 then
      (s.wideVal a, s.readPushq (32 * k + off / 0x400) ((off % 0x400 - 0x100) / 0x80))
    else (s.wideVal a, s)
  else if 0x800000 ≤ a && a % 0x100000 ≥ 0x70000 then
    let g := (a - 0x800000) / 0x100000
    let off := a % 0x10000
    match a % 0x100000 / 0x10000 with
    | 7 => (s.wideVal a, if off % 0x40 = 0x20 then s.readTcap g (off / 0x40) else s)
    | 9 =>
      if off = 0x214 then
        let r := s.bwRead g
        (r.2.toNat + (r.1.reg (aBw g + 0xC)).toNat * 2 ^ 64, r.1)
      else (s.wideVal a, s)
    | 0xA => s.isRead g
    | _ => (s.wideVal a, s)
  else (s.wideVal a, s)

/-- A read of address a that is no RL word: its value, and what the read changes: INFPEAK takes the present count (R70). -/
def State.readPlain (s : State) (a : Nat) : BitVec 32 × State :=
  (s.peek a, if a = 0x80014 then s.readInfpeak else s)

end Sys2Proof.Machine
end

