-- ==== Sys2Proof/Machine/StartFail.lean ====
section
/-!
DEFINITION. What every start shares: the START events and their retention (R449, R450), the reset of the islands (R422, R423,
R506, R145), and the failure of a step with retry and SAFE (R445 to R448).
-/
namespace Sys2Proof.Machine

def State.modStart (s : State) (f : Start → Start) : State := { s with start := f s.start }

/-! ## START events -/

/-- DETAIL of a START event (R369). -/
def State.startDetail (s : State) (step outcome code : Nat) : BitVec 28 :=
  BitVec.ofNat 28 (step % 16 * 2 ^ 24 + outcome * 2 ^ 22 + s.start.attempt % 4 * 2 ^ 20 + b1 s.start.warm * 2 ^ 19 + code * 2 ^ 11)

/-- The retention store holds an event; the oldest of 64 gives way, with EVLOST (R449). -/
def State.holdEvent (s : State) (d : BitVec 28) : State :=
  let h := s.start.held
  let s := if h.length ≥ 64 then s.orReg 0x14004 0x200000 else s
  s.modStart (fun v => { v with held := (if h.length ≥ 64 then h.drop 1 else h) ++ [(s.btime, d)] })

/-- The START event of a step: held up to step 8, recorded after it (R449, R450). -/
def State.startEvent (s : State) (step outcome code : Nat) : State :=
  if step ≤ 8 then s.holdEvent (s.startDetail step outcome code)
  else s.event 0 0x01 (s.startDetail step outcome code).toNat []

/-- The held events go to the recorder in order, when its MODE is not OFF (R450). -/
def State.writeHeld (s : State) : State :=
  if s.recd.modeA = 0 then s.modStart (fun v => { v with held := [] })
  else
    let q := mget 0 s.recd.seqs 0
    let n := s.start.held.length
    let l := s.start.held.zip (upto n)
    let s := l.foldl (fun (s : State) (e : (Word × BitVec 28) × Nat) =>
      s.sendRec 0 5 ((q + e.2) % 65536) (2 ^ 28 + e.1.2.toNat) e.1.1 [] true) s
    ({ s with recd := { s.recd with seqs := mput 0 s.recd.seqs 0 ((q + n) % 65536) } }).modStart (fun v => { v with held := [] })

/-! ## Reset of the islands -/

/-- A copy offered at a start reset: withdrawn when no word of it was read, else it ends with an error word (R135). -/
def Offer.reset (o : Offer) : Option Offer := if o.pos = 0 then none else some { o with cut := true }

/-- A port that a warm start keeps: its state, lanes, engines and store stay; the trunk's part of it is reset (R100, R145). -/
def Port.keep (q : Port) : Port :=
  { st := q.st, link := q.link, rxl := q.rxl, rxt := q.rxt, txl := q.txl, ptxd := q.ptxd, ptxv := q.ptxv, lane := q.lane, tail := q.tail,
    pinIn := q.pinIn, pinT := q.pinT, inOpen := q.inOpen, offer := q.offer.bind Offer.reset, eoc := q.eoc,
    engines := q.engines, store := q.store, obs := q.obs, last := q.last }

/-- A port in reset: OFF; the levels at its pins are the outside's. -/
def Port.drop (q : Port) : Port := { pinIn := q.pinIn, pinT := q.pinT }

/-- The ports after a start reset (R100, R422). -/
def resetPorts (keep : List Nat) (m : SMap Port) : SMap Port :=
  m.foldl (fun a e => mput {} a e.1 (if keep.contains e.1 then e.2.keep else e.2.drop)) []

/-- The register of a kept port that survives: its engine block, and EN (R145). -/
def keptReg (keep : List Nat) (a : Nat) : Bool :=
  0x40000 ≤ a && a < 0x80000 &&
    ((a % 0x10000 < 0x8000 && keep.contains (32 * ((a - 0x40000) / 0x10000) + a % 0x10000 / 0x400)) ||
     (0xF000 ≤ a % 0x10000 && a % 16 = 0 && keep.contains (32 * ((a - 0x40000) / 0x10000) + (a % 0x10000 - 0xF000) / 16)))

/-- The rings after a start reset: conditions and counts stay, the lanes of other rings close and a driven output is driven low
(R100, R106). -/
def Ring.restart (v : Ring) (kept : Bool) : Ring :=
  if kept then { v with ddq := [] }
  else { v with lane := false, ddq := [], attach := if v.attach = .z then .z else .low }

/-- Islands 3 to 17 take their reset values; what the ports in `keep` keep stays (R422). -/
def State.wipeIslands (s : State) (keep : List Nat) : State :=
  { s with
    regs := s.regs.filter (fun e => e.1 < 0x40000 || keptReg keep e.1)
    tregs := mclear s.tregs 0x40000 (2 ^ 24)
    stag := s.stag.filter (fun e => e.1 < 0x40000 || keptReg keep e.1)
    ctrs := mclear s.ctrs 0x40000 (2 ^ 24)
    snap := mclear s.snap 0x40000 (2 ^ 24)
    links := [], trunk := {}, groves := [], cores := [], threads := [], beats := s.stillBeats, stalls := [], lookup := {}, recd := {}
    ports := resetPorts keep s.ports
    mems := s.mems.foldl (fun a e => mput {} a e.1 { ready := e.2.ready }) []
    mgmt := { s.mgmt with owed := [] }, time := { s.time with marks := [], ahead := mclear s.time.ahead 0x40000 (2 ^ 24) } }

/-- Head records of a kind that have not been written: staged, or issued and not yet accepted, and not counted as lost already (R373). -/
def Recorder.unwritten (v : Recorder) (ctrl : Bool) : Nat :=
  (v.staged.filter (fun r => r.ctrl = ctrl)).length +
    (v.outst.filter (fun e => decide (e.1 % 3 ≠ 2) = ctrl && !v.failed.contains e.1)).length

/-- What the heartwood retains of the recorder when a start reset begins, and what had not been written. Losses that an earlier attempt of
this start has counted, and of which no RECLOSS is written yet, stay counted (R376, R423). -/
def State.retainRec (s : State) : State :=
  if !s.recd.live then s
  else
    let v := s.recd
    let warm := s.start.warm
    let again := s.start.attempt ≠ 0
    s.modStart (fun t => { t with
      retPtr := v.ptr, retRd := v.rd, retCommit := v.commit, retCtick := v.ctick, retRegion := some (s.recBase, s.nrec)
      lostP := if warm then v.unwritten false + (if again then v.lostP else 0) else 0
      lostC := if warm then v.unwritten true + (if again then v.lostC else 0) else 0 })

/-- What external memory holds of the enabled tables when a start reset begins (R350). -/
def State.retainTables (s : State) : State :=
  if !s.lookup.ready then s
  else s.modStart (fun t => { t with
    retTables := ((upto 64).filter (fun t => s.tblEn t)).map (fun t => (t, s.tblBase t, s.tblSz t, (s.tbl t).slots)) })

/-- Island 1 in a start reset: its registers, the latch and the accesses of the management port; those of the TAP end (R465, R470);
FATALSTAT is the heartwood's (R480, R487, R491). -/
def State.resetMgmt (s : State) : State :=
  { s with
    regs := s.regs.filter (fun e => !(e.1 < 0x10000 || (0x20000 ≤ e.1 && e.1 < 0x21000)))
    ctrs := mclear s.ctrs 0 0x10000
    mgmt := { fatalSafe := s.mgmt.fatalSafe, fatalG := s.mgmt.fatalG
              waiting := s.mgmt.waiting.filter (fun x => x.src = .tap) } }

/-- Heartwood fields at a start reset that are not kept: those with a constant in the Warm column, and the image fields that are
written anew in every step 7 (R387, R426, R452, R506). -/
def State.resetHeart (s : State) : State :=
  let gone := fun a => a = 0x10020 || a = 0x10024 || (0x1100C ≤ a && a < 0x12000) || a = 0x14010
  { s with
    regs := s.regs.filter (fun e => !gone e.1) |>.map (fun e => if e.1 = 0x14004 then (e.1, e.2 &&& 0x200000) else e)
      |>.filter (fun e => e.2 ≠ 0)
    stag := s.stag.filter (fun e => !gone e.1)
    power := [(2, { st := .off })], points := [], nvm := { rstN := s.nvm.rstN }
    start := { s.start with linkFail := none, imgid := 0, memret := false, stopped := false, relaxed := false, porten := 0,
                            tables := [], inits := [] } }

/-- The start reset (R422, R440). -/
def State.startReset (s : State) : State :=
  let rings := s.keptRings
  let keep := s.keptPorts rings
  let s := ((((s.retainRec).retainTables).wipeIslands keep).resetMgmt).resetHeart
  { s with
    regs := s.regs.map (fun e => if 0x40000 ≤ e.1 && 0xF000 ≤ e.1 % 0x10000 then (e.1, e.2 &&& 1) else e) |>.filter (fun e => e.2 ≠ 0)
    rings := s.rings.foldl (fun a e => mput {} a e.1 (e.2.restart (rings.contains e.1))) [] }

/-! ## Failure -/

/-- What a failed step reports (R446). -/
structure Fail where
  code   : Nat
  unit   : Nat := 0
  detail : Nat := 0
  /-- The byte offset of the failing item in the image, and its section. -/
  off    : Option Nat := none
  sect   : Option Nat := none
  deriving DecidableEq, Repr

/-- Every lane closes and every RING_ATTACH is driven low (R445). -/
def State.closeRings (s : State) : State :=
  (upto 16).foldl (fun (s : State) r => (s.closeLane r).modRing r (fun v => { v with attach := .low })) s

/-- A port as SAFE holds it: of its lane only the terminate word of a frame that was cut off (R97). -/
def Port.safe (q : Port) : Port := { q.drop with lane := q.lane.filter (fun x => x.started && x.frag) }

/-- SAFE: islands 3 to 17 are held in reset and HOST_FATAL is asserted (R448); a frame that the closing lanes cut off still gets its
terminate word (R97). -/
def State.enterSafe (s : State) : State :=
  let ports := s.ports.foldl (fun a e => mput {} a e.1 e.2.safe) []
  let s := { s.retainRec.wipeIslands [] with ports := ports }
  let s := s.modStart (fun v => { v with phase := .safe, isSafe := true })
  { s with mgmt := { s.mgmt with fatalSafe := true } }

/-- A step fails: the outputs, the START event, the failure registers and IRQEV.SFAIL; then the back-off or SAFE (R445 to R448,
R490). -/
def State.startFail (s : State) (step : Nat) (f : Fail) : State :=
  let s := (s.closeRings).modStart (fun v => { v with
    step := step, fcode := BitVec.ofNat 8 f.code, unit := BitVec.ofNat 8 f.unit, detail := BitVec.ofNat 8 f.detail
    fail0 := BitVec.ofNat 32 (f.off.getD 0xFFFFFFFF), sect := BitVec.ofNat 16 (f.sect.getD 0xFFFF), failed := step
    memFailed := v.memFailed || step = 8 || step = 9, digok := v.digok && !(0x10 ≤ f.code && f.code ≤ 0x23) })
  let s := (s.startEvent step 2 f.code).orReg 0x2000C 2
  if s.start.attempt ≥ 3 then s.enterSafe else s.modStart (fun v => { v with phase := .backoff, since := s.hw })

/-- The back-off before the next attempt, in heartwood cycles (R447). -/
def State.backoffCycles (s : State) : Nat := (match s.start.attempt with | 0 => 10 | 1 => 40 | _ => 160) * 200000

end Sys2Proof.Machine
end

