-- ==== Sys2Proof/Machine/RegWrite.lean ====
section
/-!
DEFINITION. What a register write does, by its address (R435, R486): one function for each group of the map, and `writeReg` over
all of them. The source of a write is the host, the TAP, a thread through a window, or the image.
-/
namespace Sys2Proof.Machine

/-- A write of image items. -/
def isImage : Src → Bool
  | .image => true
  | _ => false

/-- The write comes from outside, or from the grove's recovery thread (R267, R273, R274, R305, R311). -/
def State.recSrc (s : State) (src : Src) (g : Nat) : Bool :=
  match src with
  | .thread th => th.toNat = s.recovery g
  | .image => false
  | _ => true

/-- A word of a wide register is staged (R481). -/
def State.stage (s : State) (a : Nat) (d : BitVec 32) : State := { s with stag := mput 0 s.stag a d }

/-- The 72-bit value whose two low words are staged from address a (R146). -/
def State.staged72 (s : State) (a : Nat) (top : BitVec 32) : Word :=
  wordOf ((mget 0 s.stag a).toNat + (mget 0 s.stag (a + 4)).toNat * 2 ^ 32 + fld top 0 8 * 2 ^ 64)

/-- W1C: the sticky bits of the mask that are written 1 clear. -/
def State.w1c (s : State) (a : Nat) (mask d : BitVec 32) : State := s.setReg a (s.reg a &&& ~~~(d &&& mask))

/-! ## Island 1 -/

/-- Identity and global control (R487). -/
def State.writeIdent (s : State) (off : Nat) (d : BitVec 32) : State :=
  match off with
  | 0x20 => s.w1c 0x20 0xF8 d
  | 0x28 | 0x2C => s.setReg off d
  | 0x38 => s.setReg 0x38 (d &&& 0xFFFF)
  | _ => s

/-- Interrupt aggregation (R490, R492). -/
def State.writeIrq (s : State) (off : Nat) (d : BitVec 32) : State :=
  match off with
  | 0x04 => s.setReg 0x20004 (d &&& 0x00FF1FFF)
  | 0x0C => s.w1c 0x2000C 0xF d
  | 0x14 => if bit d 0 then s.orReg 0x2000C 8 else s
  | _ => s

/-! ## Start registers -/

/-- A start is requested with attempt 0 (R427 to R429). -/
def State.requestStart (s : State) : State :=
  let warm := s.start.completed
  let s := s.modStart (fun v => { v with
    phase := .due, warm := warm, attempt := 0, slot := if warm then v.lastSlot else false, failed := 0, memFailed := false
    isSafe := false, isDone := false, since := s.hw })
  s.ringsAttach

/-- STARTCMD (R427, R428). -/
def State.writeStartcmd (s : State) (d : BitVec 32) : State :=
  if fld d 24 8 = 0xA5 && bit d 0 && !s.running && (s.start.phase = .service || s.start.phase = .safe) then s.requestStart else s

/-- The start registers (R452). -/
def State.writeStart (s : State) (off : Nat) (d : BitVec 32) : State :=
  match off with
  | 0x00 => s.writeStartcmd d
  | 0x04 => s.w1c 0x14004 0x700000 d
  | 0x10 => s.setReg 0x14010 d
  | _ => s

/-! ## Port islands -/

/-- The registers of engine e: the low words of a 72-bit register are staged, the highest commits (R139, R141, R146, R148). -/
def State.writeEngine (s : State) (p e off : Nat) (d : BitVec 32) : State :=
  let a := aEngine p e
  match off with
  | 0x00 => s.writeEctl p e d
  | 0x04 => s.engHalt p e d
  | 0x08 => s.writeEstat p e d
  | 0x0C => s.writeEngCnt p e d
  | 0x10 | 0x14 | 0x1C | 0x20 | 0x34 | 0x38 | 0x4C | 0x50 => s.stage (a + off) d
  | 0x18 => s.writeShr p e (s.staged72 (a + 0x10) d)
  | 0x24 => s.writeX p e (s.staged72 (a + 0x1C) d)
  | 0x3C => s.writePullq p e (s.staged72 (a + 0x34) d)
  | 0x54 =>
    let w := s.staged72 (a + 0x4C) d
    s.modEng p e (fun x => { x with xinit := w })
  | 0x58 => s.setReg (a + 0x58) (d &&& 0x8003FFC7)
  | _ => s

/-- A port island by offset (R105, R146, R147). An image writes DRAINLIM of PORTCTL, not EN. -/
def State.writeIsland (s : State) (k off : Nat) (d : BitVec 32) (image : Bool) : State :=
  if off < 0x8000 then
    let p := 32 * k + off / 0x400
    let r := off % 0x400
    if r < 0xC0 then s.writeEngStore p (r / 4) d
    else if r = 0xC0 then s.writePecfg p d image
    else if 0x100 ≤ r && r < 0x300 then s.writeEngine p ((r - 0x100) / 0x80) ((r - 0x100) % 0x80) d
    else s
  else if 0xF000 ≤ off && off < 0xF200 then
    let p := 32 * k + (off - 0xF000) / 16
    match off % 16 with
    | 0 => if image then s.setReg (aPort p) (setFld (s.reg (aPort p)) 8 8 (fld d 8 8)) else s.writePortctl p d
    | 4 => s.w1c (aPort p + 4) 0x80 d
    | 8 => s.writeHold p (d.setWidth 8)
    | _ => s
  else s

/-! ## The trunk -/

/-- Dispatch and collector (R66 to R72). -/
def State.writeTrunk (s : State) (off : Nat) (d : BitVec 32) (image : Bool) : State :=
  let a := 0x80000 + off
  if off = 0 then s.setReg a (d &&& 0x00FF0001)
  else if off = 4 then s.w1c a 0x40000 d
  else if off = 0xC then s.setReg a (d &&& 0xFFFF)
  else if 0x1000 ≤ off && off < 0x1400 then s.writeDommap ((off - 0x1000) / 8) (off % 8 / 4) d
  else if 0x3000 ≤ off && off < 0x3800 then
    match off % 16 with
    | 0 => s.writeBufcfg ((off - 0x3000) / 16) d image
    | 8 => s.writeMaxlen ((off - 0x3000) / 16) d
    | _ => s
  else s

/-- The sum of QLIM over all ports and classes (R75). -/
def State.qlimSum (s : State) : Nat := (upto 128).foldl (fun a p => (upto 8).foldl (fun a c => a + s.qlim p c) a) 0

/-- QLIM: a host write beyond the copy store is ignored with CFGERR (R75). -/
def State.writeQlim (s : State) (p off : Nat) (d : BitVec 32) (image : Bool) : State :=
  let s' := s.setReg (aEgress p + off) d
  if !image && s'.qlimSum > 131072 then s.orReg (aEgress p + 0x28) 1 else s'

/-- Egress registers of port p (R102). -/
def State.writeEgressPort (s : State) (p off : Nat) (d : BitVec 32) (image : Bool) : State :=
  let a := aEgress p + off
  if off = 0 then
    let s := s.setReg a (d &&& 0x7FFFF00E)
    if image then s else s.gateEval p
  else if off < 0x14 then s.setReg a d
  else if off < 0x24 then s.writeQlim p off d image
  else if off = 0x24 then s.setReg a (d &&& 0xFFFF)
  else if off = 0x28 then s.w1c a 1 d
  else s

/-- Egress registers and the gate-list window, by offset from M:0x0008_8000 (R102, R104). -/
def State.writeEgress (s : State) (off : Nat) (d : BitVec 32) (image : Bool) : State :=
  if off < 0x2000 then s.writeEgressPort (off / 0x40) (off % 0x40) d image
  else if off = 0x4000 then s.setReg 0x8C000 (d &&& 0x007F13FF)
  else if 0x4004 ≤ off && off < 0x4020 then s.writeGate (off - 0x4000) d image
  else if off = 0x4020 then s.glswap d
  else s

/-! ## Lookup, memory, recorder -/

/-- Lookup registers (R351, R352, R355). -/
def State.writeLookup (s : State) (off : Nat) (d : BitVec 32) (image : Bool) : State :=
  if off = 0 then s.setReg 0xA0000 (d &&& 0x8000FFFF)
  else if off = 4 then s.w1c 0xA0004 0x40000000 d
  else if 0x100 ≤ off && off < 0x140 then s.writeHostSlot (off - 0x100) d
  else if 0x1000 ≤ off && off < 0x1800 then s.writeTbl ((off - 0x1000) / 0x20) (off % 0x20) d image
  else s

/-! ## Groves -/

/-- THCFG: both copies from the image (R182); else the pending one. -/
def State.setThcfg (s : State) (th : Nat) (d : BitVec 32) (image : Bool) : State :=
  s.modThread th (fun t => if image then { t with thcfgP := d &&& 0xF03, thcfgA := d &&& 0xF03 } else t.writeThcfg d)

/-- THCMD; a write with both bits set is ignored (R174, R182). -/
def State.writeThcmd (s : State) (th : Nat) (d : BitVec 32) : State :=
  if bit d 0 && bit d 1 then s
  else if bit d 0 then s.startThread th
  else if bit d 1 then s.parkThread th
  else s

/-- A thread's registers (R174, R182, R282). -/
def State.writeThread (s : State) (th off : Nat) (d : BitVec 32) (image : Bool) : State :=
  match off with
  | 0x00 => s.setThcfg th d image
  | 0x08 => s.writeThpc th d
  | 0x0C => s.setReg (aThread th + 0xC) (d &&& 0xFFFFFF)
  | 0x10 => s.writeThcmd th d
  | 0x14 => s.ipendClear th d
  | 0x18 => s.iraise th d
  | 0x24 => s.dbgcmd th d
  | _ => s

/-- SLOTTABk: both copies from the image (R181). -/
def State.setSlottab (s : State) (g c k : Nat) (d : BitVec 32) (image : Bool) : State :=
  if image then
    (s.setReg (aCore g c + 0x10 + 4 * k) (d &&& 0x1F1F1F1F)).modCore (coreKey g c)
      (fun v => { v with slotAct := mput 0 v.slotAct k (d &&& 0x1F1F1F1F) })
  else s.writeSlottab g c k d

/-- BANKMAPk: both copies from the image (R315). -/
def State.setBankmap (s : State) (g c k : Nat) (d : BitVec 32) (image : Bool) : State :=
  if image then
    (s.setReg (aCore g c + 0xC0 + 4 * k) (d &&& 0x1F1F1F1F)).modCore (coreKey g c)
      (fun v => { v with bankAct := mput 0 v.bankAct k (d &&& 0x1F1F1F1F) })
  else s.writeBankmap g c k d

/-- DBGDATA: D0 and D1 are staged, D2 commits (R278). -/
def State.writeDbgdata (s : State) (g c i : Nat) (d : BitVec 32) : State :=
  if i < 2 then s.modCore (coreKey g c) (fun k => { k with dbgdata := setFld k.dbgdata (32 * i) 32 d.toNat })
  else s.dbgCommit g c d

/-- CORECTL (R176 to R179). -/
def State.writeCorectl (s : State) (g c : Nat) (d : BitVec 32) : State :=
  if bit d 0 then s.requestService g c else s.requestMaint g c

/-- The core-scope registers below the threads (R181, R283, R315). -/
def State.writeCoreReg (s : State) (g c off : Nat) (d : BitVec 32) (image : Bool) : State :=
  let a := aCore g c + off
  if off = 0 then s.writeCorectl g c d
  else if off = 4 then s.w1c a 8 d
  else if off = 8 then s.coresync g c d
  else if 0x10 ≤ off && off < 0x20 then s.setSlottab g c ((off - 0x10) / 4) d image
  else if 0x80 ≤ off && off < 0xA0 then s.setReg a (d &&& (if off % 8 = 0 then 0xFFFFFF else 0xC000FFFF))
  else if off = 0xA0 then s.dbgsel g c d
  else if 0xA4 ≤ off && off < 0xB0 then s.writeDbgdata g c ((off - 0xA4) / 4) d
  else if off = 0xB0 then s.dbghalt g c d
  else if off = 0xB4 then s.w1c a 1 d
  else if 0xC0 ≤ off && off < 0xE0 then s.setBankmap g c ((off - 0xC0) / 4) d image
  else s

/-- A core's registers, by offset from its base (R180). -/
def State.writeCore (s : State) (g c off : Nat) (d : BitVec 32) (image : Bool) : State :=
  if off < 0x100 then s.writeCoreReg g c off d image
  else if off < 0x500 then s.writeThread (thid g c ((off - 0x100) / 0x40)) ((off - 0x100) % 0x40) d image
  else s

/-- LKREL: one lock, or all locks of a thread (R305). -/
def State.writeLkrel (s : State) (g : Nat) (d : BitVec 32) : State :=
  if bit d 16 then
    if thG (fld d 0 12) = g then
      (s.heldLocks (fld d 0 12)).foldl (fun s u => if s.holdsLock (fld d 0 12) u then s.forceRelease g u else s) s
    else s
  else if fld d 8 4 ≠ 0 then s
  else s.forceRelease g (fld d 0 8)

/-- The lock unit (R305 to R318). -/
def State.writeLocks (s : State) (src : Src) (g off : Nat) (d : BitVec 32) : State :=
  let a := aLocks g + off
  if 0x400 ≤ off && off < 0x480 then s.setReg a (d &&& 0xFFFF)
  else if 0x500 ≤ off && off < 0x600 then s.setReg a (d &&& 0x80003FE7)
  else match off with
    | 0x488 => s.setFlags g 0 d true
    | 0x48C => s.setFlags g 32 d true
    | 0x490 => s.setFlags g 0 d false
    | 0x494 => s.setFlags g 32 d false
    | 0x498 | 0x49C => s.setReg a d
    | 0x4A0 => if s.recSrc src g then s.writeLkrel g d else s
    | 0x4A4 => if s.recSrc src g then s.chanFlush g (fld d 0 6) else s
    | 0x4A8 => (if bit d 31 then s else s.setStall g {}).setReg a (d &&& 0x8000FFFF)
    | _ => s

/-- The bank control registers (R291, R316, R317). -/
def State.writeBanks (s : State) (src : Src) (g off : Nat) (d : BitVec 32) : State :=
  let a := aBanks g + off
  if off < 0x88 then if isImage src then s.imageBown g (off / 4) d else s.writeBown g (off / 4) d src
  else if 0x100 ≤ off && off < 0x180 then s.w1c a 0xE d
  else match off with
    | 0x200 => s.setReg a (d &&& 0x8000FFFF)
    | 0x210 => s.setReg a (d &&& 0x8003FFFF)
    | 0x214 | 0x218 => s.stage a d
    | 0x21C => s.bwCommit g d
    | _ => s

/-- A word of the instruction store is about to be written: fetches of the grove cycle under way still return what it holds (R193). -/
def State.keepOld (s : State) (g w : Nat) : State :=
  let b := s.beat g
  if b.inCycle && b.olds.all (fun e => e.1 ≠ w) then s.setBeat g { b with olds := (w, s.isWord g w) :: b.olds } else s

/-- ISDATA2: the staged word and MARK land in the store, or ISERR (R193). -/
def State.isCommit (s : State) (g : Nat) (d : BitVec 32) (image : Bool) : State :=
  let a := aIstore g
  let w := fld (s.reg a) 0 14
  if !image && !s.allMaint g then s.orReg (a + 0x10) 1
  else
    let word := s.staged72 (a + 4) d
    ((s.keepOld g w).modGrove g (fun v => { v with
      istore := mput 0 v.istore w word, imark := mput 0 v.imark w (d.extractLsb' 8 2), iecc := mdel v.iecc w })).isInc g

/-- The instruction store registers (R193). -/
def State.writeIstore (s : State) (g off : Nat) (d : BitVec 32) (image : Bool) : State :=
  let a := aIstore g + off
  match off with
  | 0x00 => s.setReg a (d &&& 0x80003FFF)
  | 0x04 | 0x08 => s.stage a d
  | 0x0C => s.isCommit g d image
  | 0x10 => s.w1c a 1 d
  | _ => s

/-- DCTL: FEN and FLAG, and GO or STOP on the channel as it stands (R299, R301). -/
def State.writeDctl (s : State) (g k : Nat) (d : BitVec 32) : State :=
  let busy := (s.dma g k).busy
  let s := s.setDma g k { s.dma g k with fen := bit d 13, flag := d.extractLsb' 0 6 }
  let s := if bit d 31 && !busy then s.dmaStart g k else s
  if bit d 30 && busy then s.dmaStopReq g k else s

/-- A DMA channel's registers: addresses and count only while it is not busy (R299, R319). -/
def State.writeDma (s : State) (g off : Nat) (d : BitVec 32) : State :=
  let k := off / 0x40
  let v := s.dma g k
  if off ≥ 0x200 then s
  else match off % 0x40 with
    | 0x00 => if v.busy then s else s.setDma g k { v with src := setFld v.src 0 32 d.toNat }
    | 0x04 => if v.busy then s else s.setDma g k { v with src := setFld v.src 32 8 d.toNat }
    | 0x08 => if v.busy then s else s.setDma g k { v with dst := setFld v.dst 0 32 d.toNat }
    | 0x0C => if v.busy then s else s.setDma g k { v with dst := setFld v.dst 32 8 d.toNat }
    | 0x10 => if v.busy then s else s.setDma g k { v with cnt := d.extractLsb' 0 16 }
    | 0x14 => s.writeDctl g k d
    | 0x18 => s.w1c (aDstat g k) 0x60000000 d
    | _ => s

/-- The dispatch interface (R49, R64, R73). -/
def State.writeDisp (s : State) (g off : Nat) (d : BitVec 32) (image : Bool) : State :=
  if off < 0x800 || off = 0x1000 then s.writeShare g off d image
  else if off = 0x1004 then s.w1c (aDisp g + off) 0x1000000 d
  else if off = 0x1008 then s.dabandon g d
  else s

/-- INITRPT: FAIL 1 during step 11 fails the step (R443, R453). -/
def State.writeInitrpt (s : State) (g : Nat) (d : BitVec 32) : State :=
  let s := s.setReg (aExc g + 0x20) (d &&& 0x800000FF)
  if bit d 31 && (s.start.phase = .init0 || s.start.phase = .init1) then
    s.startFail 11 { code := 0x71, unit := g, detail := fld d 0 8 }
  else s

/-- HREL by this source for this thread: the host, or the recovery thread for another thread (R273). -/
def State.hrelOk (s : State) (src : Src) (g th : Nat) : Bool :=
  s.recSrc src g && (match src with | .thread t => decide (t.toNat ≠ th) | _ => true)

/-- The grove exception registers (R267, R268, R273, R274, R284, R453). -/
def State.writeExc (s : State) (src : Src) (g off : Nat) (d : BitVec 32) : State :=
  match off with
  | 0x00 => if isImage src then s.setReg (aExc g) (d &&& 0x1FF) else s.writeRecov g d
  | 0x04 => s.w1c (aExc g + 4) 0x40000000 d
  | 0x10 => if s.hrelOk src g (fld d 0 12) then s.release g (fld d 0 12) (bit d 16) else s
  | 0x14 => s.nmiRaise g d
  | 0x18 => s.setReg (aExc g + 0x18) (d &&& 0xFFFF)
  | 0x1C => if bit d 0 && s.recSrc src g then s.kick g else s
  | 0x20 => s.writeInitrpt g d
  | _ => s

/-- The extension port (R7, R255). -/
def State.writeExt (s : State) (g off : Nat) (d : BitVec 32) : State :=
  if !bit s.ties.xupres g then s
  else match off with
    | 0x00 => s.setReg (aExt g) (d &&& 0x800000FF)
    | 0x04 => s.w1c (aExt g + 4) 0xE00000 d
    | _ => s

/-- A unit of grove g, by its place and the offset in it (R486). -/
def State.writeUnit (s : State) (src : Src) (g unit off : Nat) (d : BitVec 32) : State :=
  match unit with
  | 7 => s.writeTimer g off d
  | 8 => s.writeLocks src g off d
  | 9 => s.writeBanks src g off d
  | 0xA => s.writeIstore g off d (isImage src)
  | 0xB => s.writeDma g off d
  | 0xC => s.writeDisp g off d (isImage src)
  | 0xD => s.writeExc src g off d
  | 0xE => if off = 0 then s.setReg (aHelp g) (d &&& 0xFFFF) else s
  | _ => s.writeExt g off d

/-! ## The whole map -/

/-- A write of the register at address a; an address of no register ignores it (R477, R486). -/
def State.writeReg (s : State) (src : Src) (a : Nat) (d : BitVec 32) : State :=
  if (regShape a).isNone then s
  else if a < 0x10000 then s.writeIdent a d
  else if a < 0x10080 then s.writeTime (a - 0x10000) d
  else if a < 0x12000 then s.writePower (a - 0x11000) d (isImage src)
  else if a < 0x12200 then s.writeRing ((a - 0x12000) / 0x20) (a % 0x20) d (isImage src)
  else if a < 0x14000 then s
  else if a < 0x15000 then s.writeStart (a - 0x14000) d
  else if a < 0x21000 then s.writeIrq (a - 0x20000) d
  else if a < 0x80000 then s.writeIsland ((a - 0x40000) / 0x10000) (a % 0x10000) d (isImage src)
  else if a < 0x86000 then s.writeTrunk (a - 0x80000) d (isImage src)
  else if a < 0x8D000 then s.writeEgress (a - 0x88000) d (isImage src)
  else if a < 0xC0000 then s.writeLookup (a - 0xA0000) d (isImage src)
  else if a < 0xE0000 then s.writeMemReg (a - 0xC0000) d (isImage src)
  else if a < 0xE1000 then s.writeRecorder (a - 0xE0000) d (isImage src)
  else
    let g := (a - 0x800000) / 0x100000
    let off := a % 0x100000
    if off < 0x20000 then s.writeCore g (off / 0x1000) (off % 0x1000) d (isImage src)
    else s.writeUnit src g (off / 0x10000) (off % 0x10000) d

end Sys2Proof.Machine
end

