-- ==== Sys2Proof/Machine/Window.lean ====
section
/-!
DEFINITION. The register windows of a thread (R138, R204, R207, R336, R508): the register a window word names, loads and stores
through them, and the two rows that end a load and free a store buffer entry (R163, R165).
-/
namespace Sys2Proof.Machine

/-- The byte offsets of an engine's registers in the order of the port window (R138). -/
def engWindow : List Nat := [0x00, 0x04, 0x08, 0x0C, 0x10, 0x1C, 0x28, 0x34, 0x40, 0x4C, 0x58]

/-- The register that word `off` of port p's part of the port window names (R138). -/
def portWindowReg (p off : Nat) : Option Nat :=
  let a := aIsland p + 0x400 * (p % 32)
  if off < 0x30 then some (a + 4 * off)
  else if off = 0x30 then some (a + 0xC0)
  else if 0x40 ≤ off && off < 0x80 then
    match engWindow[off % 16]? with
    | some r => some (aEngine p ((off - 0x40) / 16) + r)
    | none => none
  else if off = 0x80 then some (aIsland p + 0xE000 + 16 * (p % 32))
  else if off = 0x81 then some (aIsland p + 0xE000 + 16 * (p % 32) + 8)
  else none

/-- The management address of the register that a window word of thread th names; none where the window gives none (R207, R508). -/
def windowReg (th w : Nat) : Option Nat :=
  if 0x200000 ≤ w && w < 0x208000 then portWindowReg ((w - 0x200000) / 0x100) ((w - 0x200000) % 0x100)
  else if 0x300000 ≤ w && w < 0x300400 then some (aCore (thG th) (thC th) + 4 * (w - 0x300000))
  else if 0x400000 ≤ w && w < 0x410000 && w % 0x1000 < 0x400 then
    some (aGrove (thG th) + (w - 0x400000) / 0x1000 * 0x10000 + 4 * (w % 0x1000))
  else none

/-- The island of a window word is there to answer (R206, R415). -/
def State.windowOpen (s : State) (w : Nat) : Bool :=
  if 0x200000 ≤ w && w < 0x208000 then
    let p := (w - 0x200000) / 0x100
    s.islandOpen (6 + p / 32) && !s.clkGone (2 + p / 32)
  else if w < 0x500000 then true
  else s.islandUp 4

/-- An access to register a has to wait for its bank: a read of BWDATA0 or a write of BWDATA2 of a grove (R292, R296). -/
def State.regWaits (s : State) (a : Nat) (wr : Bool) : Bool :=
  let g := (a - 0x800000) / 0x100000
  g < 8 && (if wr then a = aBw g + 0xC else a = aBw g + 4) && s.bwWaits g

/-- An access of thread th to a window word can be answered now. -/
def State.windowReady (s : State) (th w : Nat) (wr : Bool) : Bool :=
  s.windowOpen w && !(match windowReg th w with | some a => s.regWaits a wr | none => false)

/-! ## Loads -/

/-- A load of register a: a 72-bit register of the port window whole, the low word of a 64-bit register with all 64 bits, any
other register zero-extended; the shared latch is not touched (R138, R207, R386, R480). -/
def State.regLoad (s : State) (a : Nat) : Word × State :=
  match wideAt a with
  | some (rl, n) =>
    if rl = a then
      let r := s.readWide a
      (if a < 0x80000 then wordOf r.1 else if n = 2 then wordOf (r.1 % 2 ^ 64) else wordOf (r.1 % 2 ^ 32), r.2)
    else ((s.peek a).setWidth 72, s)
  | none =>
    let r := s.readPlain a
    (r.1.setWidth 72, r.2)

/-- A load of window word w by thread th. Word 0x81 of a port shows VALID, DOM and SEQ alone (R138). -/
def State.windowLoad (s : State) (th w : Nat) : Word × State :=
  if w ≥ 0x500000 then s.readLkWord (thG th) (w - 0x500000)
  else match windowReg th w with
    | some a =>
      let r := s.regLoad a
      if w < 0x300000 && w % 0x100 = 0x81 then (r.1 &&& ~~~0xFF, r.2) else r
    | none => (0, s)

/-- LOAD_DATA_RETURN: the answer of the outstanding load is there, or the register's island answers now (R163). -/
def State.loadReturn (s : State) (th : Nat) : State :=
  match (s.thread th).outst with
  | none => s
  | some o =>
    match o.ans with
    | some a => s.deliver th o a
    | none =>
      if o.unit = .window && s.windowReady th o.addr.toNat false then
        let r := s.windowLoad th o.addr.toNat
        r.2.deliver th o (.word r.1)
      else s

/-! ## Stores -/

/-- What the lanes that a store does not select leave of a register: its present value, without the bits that act when they are
written 1. -/
def State.windowBase (s : State) (a : Nat) : Word :=
  let off := a % 0x10000
  if a < 0x80000 then
    match wideAt a with
    | some (rl, _) => wordOf (s.wideVal rl)
    | none =>
      let r := off % 0x400
      if off < 0x8000 && 0x100 ≤ r then
        match (r - 0x100) % 0x80 with
        | 0 => (s.peek a &&& 0x7FFFFFFF).setWidth 72
        | 8 => (s.peek a &&& ~~~0x27E00000).setWidth 72
        | _ => (s.peek a).setWidth 72
      else (s.peek a).setWidth 72
  else
    let unit := a % 0x100000 / 0x10000
    let sticky : Bool := match unit with
      | 0 | 1 => off % 0x1000 = 4 || (0x100 ≤ off % 0x1000 && (off - 0x100) % 0x40 = 0x14)
      | 7 => off % 0x40 = 0xC
      | 9 => 0x100 ≤ off && off < 0x180
      | 0xB => off % 0x40 = 0x18
      | 0xD | 0xF => off = 4
      | _ => false
    if sticky then 0 else (s.peek a).setWidth 72

/-- A store of one word to a register of the port window: a 72-bit register takes the whole word (R138). -/
def State.portStore (s : State) (th : Thid) (a : Nat) (w : Word) : State :=
  let p := 32 * ((a - 0x40000) / 0x10000) + a % 0x10000 / 0x400
  let r := a % 0x400
  let e := (r - 0x100) / 0x80
  if a % 0x10000 ≥ 0x8000 then s
  else if r < 0x100 then s.writeReg (.thread th) a (w.setWidth 32)
  else match (r - 0x100) % 0x80 with
    | 0x10 => s.writeShr p e w
    | 0x1C => s.writeX p e w
    | 0x28 | 0x40 => s
    | 0x34 => s.writePullq p e w
    | 0x4C => s.modEng p e (fun x => { x with xinit := w })
    | _ => s.writeReg (.thread th) a (w.setWidth 32)

/-- The time mirror register at an offset of the timer unit (R389). -/
def mirrorReg (off : Nat) : Option MirrorReg :=
  match off with
  | 0x900 => some .tmrate
  | 0x904 => some .tmadj0
  | 0x908 => some .tmadj1
  | 0x90C => some .tmctl
  | _ => none

/-- A store of a word to register a by thread th. -/
def State.regStore (s : State) (th : Thid) (a : Nat) (w : Word) : State :=
  if a < 0x80000 then s.portStore th a w
  else
    match (if a % 0x100000 / 0x10000 = 7 then mirrorReg (a % 0x10000) else none) with
    | some r => s.timeMirror th.toNat r (w.setWidth 32)
    | none => s.writeReg (.thread th) a (w.setWidth 32)

/-- A buffered store to a register window takes effect. -/
def State.windowStore (s : State) (th : Thid) (e : SbEntry) : State :=
  let w := e.addr.toNat
  if w ≥ 0x500000 then
    let old := (s.readLkWord (thG th.toNat) (w - 0x500000)).1
    s.writeLkWord (thG th.toNat) (w - 0x500000) (mergeLanes (if (w - 0x500000) % 8 = 4 then 0 else old) e.data e.mask)
  else match windowReg th.toNat w with
    | some a => s.regStore th a (mergeLanes (s.windowBase a) e.data e.mask)
    | none => s

/-- STORE_ACCEPTANCE: the target accepts the thread's oldest entry, which leaves the buffer (R165). -/
def State.storeAccept (s : State) (th : Thid) : State :=
  match (s.thread th.toNat).sb with
  | [] => s
  | e :: _ =>
    if e.acc then s.dropHead th.toNat
    else match e.target with
      | .window => if e.sent && s.windowReady th.toNat e.addr.toNat true then (s.windowStore th e).dropHead th.toNat else s
      | _ => s

/-! ## One meaning for each event -/

/-- LOAD_DATA_RETURN; the units' own answers have rows of their own. -/
def execLoadDataReturn (th : Thid) (s : State) : Host.Outcome State Fault Refusal :=
  .next (match (s.thread th.toNat).outst with
    | some o => if s.groveOn (thG th.toNat) && (o.unit = .window || o.unit = .packet || o.unit = .external) then
        s.loadReturn th.toNat else s
    | none => s)

def execStoreAcceptance (th : Thid) (s : State) : Host.Outcome State Fault Refusal :=
  .next (if s.groveOn (thG th.toNat) then s.storeAccept th else s)

end Sys2Proof.Machine
end

