-- ==== Sys2Proof/Machine/Mgmt.lean ====
section
/-!
DEFINITION. Accesses of the management port and of the TAP (R280, R470, R474 to R485), and the rows that are an access to a
register with a behaviour of its own. A row whose source is the host or the TAP is one access of that path; a row whose source is
a thread is the acceptance of that thread's oldest store, or the end of its load, when it names that register.
-/
namespace Sys2Proof.Machine

/-! ## One access -/

/-- The path reaches the registers: the management port not while MCLK is lost (R408, R465). -/
def State.pathUp (s : State) (src : Src) : Bool :=
  match src with
  | .mgmt => s.start.phase ≠ .off && !s.inReset && !s.clkGone 0
  | .tap => s.start.phase ≠ .off
  | _ => false

/-- An island that answers a later access only after what it owes, or not while its clock is lost (R408, R478). -/
def State.accWaits (s : State) (i : Nat) : Bool :=
  s.mgmt.owed.any (fun o => o.island = i) || (6 ≤ i && i < 10 && s.clkGone (i - 4))

/-- The completion of an access sets its path's flag (R483). -/
def State.seen (s : State) (src : Src) : State :=
  match src with
  | .mgmt => s.orReg 0x20 8
  | .tap => s.orReg 0x20 0x10
  | _ => s

def State.setRdata (s : State) (d : BitVec 32) : State := { s with mgmt := { s.mgmt with rdata := d } }

/-- Words 1 to n − 1 of a wide value. -/
def upperWords (v n : Nat) : List (BitVec 32) := ((upto n).drop 1).map (fun i => word32 v i)

/-- A read of an open register: the RL word loads the latch, an upper word comes from it or sets LATCHMISS (R480). -/
def State.latchedRead (s : State) (a : BitVec 24) : State :=
  let n := a.toNat
  match wideAt n with
  | some (rl, k) =>
    if rl = n then
      let r := s.readWide n
      ({ r.2 with mgmt := { r.2.mgmt with latchV := true, latchA := a, latchW := upperWords r.1 k } }).setRdata (word32 r.1 0)
    else if s.mgmt.latchV && s.mgmt.latchA.toNat = rl then s.setRdata ((s.mgmt.latchW[(n - rl) / 4 - 1]?).getD 0)
    else (s.setRdata (s.peek n)).orReg 0x20 0x20
  | none =>
    let r := s.readPlain n
    r.2.setRdata r.1

/-- The island of an access that is not open answers nothing and sets its PWRACC bit (R415). -/
def State.pwracc (s : State) (i : Nat) : State := s.orReg 0x1100C (BitVec.ofNat 32 (2 ^ i))

/-- A read by island 1 (R477, R480, R483). -/
def State.mgRead (s : State) (src : Src) (a : BitVec 24) : State :=
  let n := a.toNat
  let s :=
    if n % 4 ≠ 0 then (s.setRdata 0).orReg 0x20 0x40
    else match islandOf n with
      | none => s.setRdata 0
      | some i => if s.islandOpen i then s.latchedRead a else (s.setRdata 0).pwracc i
  s.seen src

/-- The HOSTW record of a completed write, and WRCOUNT (R368, R484, R485). -/
def State.logWrite (s : State) (src : Src) (a : BitVec 24) (d : BitVec 32) : State :=
  (s.count 0x30).ctrlRec 1 6 ((match src with | .tap => 2 ^ 35 | _ => 0) + a.toNat) [d.setWidth 72]

/-- A write by island 1 (R476, R477, R484). -/
def State.mgWrite (s : State) (src : Src) (a : BitVec 24) (d : BitVec 32) : State :=
  let n := a.toNat
  let s :=
    if n % 4 ≠ 0 then s.orReg 0x20 0x40
    else match islandOf n with
      | none => s
      | some i => if s.islandOpen i then s.writeReg src n d else s.pwracc i
  (((s.setRdata 0).seen src).logWrite src a d)

/-- The heartwood's range, which the TAP reaches during a start reset (R470). -/
def inHeart (a : BitVec 24) : Bool := 0x10000 ≤ a.toNat && a.toNat < 0x20000

/-- An access of the TAP during a start reset, on the heartwood's own path: no latch, no flag and no record (R470, R484). -/
def State.resetRead (s : State) (a : BitVec 24) : State :=
  if inHeart a && a.toNat % 4 = 0 then s.setRdata (s.peek a.toNat) else s.setRdata 0
def State.resetWrite (s : State) (a : BitVec 24) (d : BitVec 32) : State :=
  if inHeart a && a.toNat % 4 = 0 then (s.writeReg .tap a.toNat d).setRdata 0 else s.setRdata 0

/-- The access can complete now: a misaligned one, one to no island, to an island that is not open or in a start reset at once; else
when its island and its bank answer (R292, R296, R408, R477, R478). -/
def State.accReady (s : State) (x : Access) : Bool :=
  s.inReset || x.addr.toNat % 4 ≠ 0 ||
    (match islandOf x.addr.toNat with
      | some i => !s.islandOpen i || (!s.accWaits i && !s.regWaits x.addr.toNat x.wr.isSome)
      | none => true)

/-- The access completes; one that Update-DR began shows its data in the TAP (R280, R470, R477). -/
def State.accRun (s : State) (x : Access) : State :=
  let s := match x.wr with
    | some d => if s.inReset then s.resetWrite x.addr d else s.mgWrite x.src x.addr d
    | none => if s.inReset then s.resetRead x.addr else s.mgRead x.src x.addr
  if x.dr then { s with tap := { s.tap with ready := true, data := if x.wr.isSome then 0 else s.mgmt.rdata } } else s

/-- The access that is in progress: the oldest one that has begun on a path that is there. -/
def State.accFront (s : State) : Option Access := s.mgmt.waiting.find? (fun x => s.pathUp x.src)

/-- The access leaves the list of those that wait. -/
def State.accDrop (s : State) (x : Access) : State := { s with mgmt := { s.mgmt with waiting := s.mgmt.waiting.erase x } }

/-- The accesses that wait complete one at a time, in order of beginning, as far as they can now (R479). -/
def State.accServe (s : State) : State :=
  (upto s.mgmt.waiting.length).foldl (fun (s : State) _ =>
    match s.accFront with
    | some x => if s.accReady x then (s.accDrop x).accRun x else s
    | none => s) s

/-- An access begins: it completes at once, or waits for its target or behind those that began before it (R474, R479). -/
def State.accBegin (s : State) (x : Access) : State :=
  let s := s.accServe
  if !s.pathUp x.src then s
  else if s.accFront.isNone && s.accReady x then s.accRun x
  else { s with mgmt := { s.mgmt with waiting := s.mgmt.waiting ++ [x] } }

/-- One read of the host or the TAP. -/
def State.busRead (s : State) (src : Src) (a : BitVec 24) : State := s.accBegin { src := src, addr := a, wr := none }

/-- One write of the host or the TAP. -/
def State.busWrite (s : State) (src : Src) (a : BitVec 24) (d : BitVec 32) : State :=
  s.accBegin { src := src, addr := a, wr := some d }

/-! ## Timed-out accesses -/

/-- An access can time out: ACKTMO is not 0, and its island, which is open and not island 1, does not complete it in a bounded time of
its own (R475, R478). -/
def State.accExpires (s : State) (x : Access) : Option Nat :=
  match islandOf x.addr.toNat with
  | none => none
  | some i =>
    if i = 1 || !s.islandOpen i || x.addr.toNat % 4 ≠ 0 || fld (s.reg 0x38) 0 16 = 0 || !s.pathUp x.src || s.inReset then none else some i

/-- A window access to address a that its island gives up no longer holds a bank port of its old owner (R292, R317). -/
def State.bwGiveUp (s : State) (a : BitVec 24) (wr : Bool) : State :=
  let g := (a.toNat - 0x800000) / 0x100000
  if g < 8 && a.toNat = (if wr then aBw g + 0xC else aBw g + 4) then s.bwDone g else s

/-- The access completes with data 0 and TMO; its island owes the answer, and a write can still land (R478). -/
def State.accExpire (s : State) (x : Access) (i : Nat) : State :=
  let s := if x.wr.isNone then s.bwGiveUp x.addr false else s
  let o : Owed := { island := i, wr := x.wr.map (fun d => (x.addr, d)) }
  let s := ({ s with mgmt := { s.mgmt with owed := s.mgmt.owed ++ [o] } }).setRdata 0
  let s := (s.orReg 0x20 0x80).seen x.src
  let s := match x.wr with | some d => s.logWrite x.src x.addr d | none => s
  if x.src = .tap then { s with tap := { s.tap with ready := true, addr := x.addr, data := 0 } } else s

/-- ACCESS_TIMEOUT: the access in progress, or with none in progress one that begins now and gets no answer (R478). -/
def State.accTimeout (s : State) (src : Src) (a : BitVec 24) (write : Bool) (d : BitVec 32) : State :=
  let x : Access := { src := src, addr := a, wr := if write then some d else none }
  match s.accFront with
  | some y =>
    if y = { x with dr := y.dr } then (match s.accExpires y with | some i => (s.accDrop y).accExpire y i | none => s) else s
  | none => match s.accExpires x with | some i => s.accExpire x i | none => s

/-- The oldest answer that island i owes: whether it has arrived, and whether its write has landed, are free values. A write lands when
its bank lets it (R292, R478). -/
def State.owedOf (s : State) (i : Nat) : State :=
  match s.mgmt.owed.find? (fun o => o.island = i) with
  | none => s
  | some o =>
    let held := match o.wr with | some (a, _) => s.islandOpen i && s.regWaits a.toNat true | none => false
    let (v, s) := s.fresh
    if Config.freeField v % 2 = 0 || held || (6 ≤ i && i < 10 && s.clkGone (i - 4)) then s
    else
      let s := { s with mgmt := { s.mgmt with owed := s.mgmt.owed.erase o } }
      match o.wr with
      | none => s
      | some (a, d) =>
        let (w, s) := s.fresh
        if Config.freeField w % 2 = 0 && s.islandOpen i then s.writeReg .mgmt a.toNat d else s.bwGiveUp a true

/-- Of every island that owes answers the oldest one may arrive; those of one island arrive in order (R478). -/
def State.owedArrive (s : State) : State :=
  (upto 18).foldl (fun s i => if s.mgmt.owed.any (fun o => o.island = i) then s.owedOf i else s) s

/-! ## The TAP -/

/-- Update-DR with DBGACC: one access, unless the last one runs or the address is misaligned (R280). -/
def State.tapUpdate (s : State) : State :=
  let t := s.tap
  let s := { s with tap := { t with upd := false } }
  let a := t.dr.extractLsb' 32 24
  if t.ir ≠ 8 || !t.ready || a.toNat % 4 ≠ 0 then s
  else
    ({ s with tap := { s.tap with ready := false, addr := a, data := 0 } }).accBegin
      { src := .tap, addr := a, wr := if bit t.dr 56 then some (t.dr.extractLsb' 0 32) else none, dr := true }

/-- The next state of the TAP (R280). -/
def TapSt.next (t : TapSt) (tms : Bool) : TapSt :=
  match t, tms with
  | .reset, false => .idle | .reset, true => .reset
  | .idle, false => .idle | .idle, true => .selDr
  | .selDr, false => .capDr | .selDr, true => .selIr
  | .capDr, false => .shDr | .capDr, true => .ex1Dr
  | .shDr, false => .shDr | .shDr, true => .ex1Dr
  | .ex1Dr, false => .paDr | .ex1Dr, true => .updDr
  | .paDr, false => .paDr | .paDr, true => .ex2Dr
  | .ex2Dr, false => .shDr | .ex2Dr, true => .updDr
  | .updDr, false => .idle | .updDr, true => .selDr
  | .selIr, false => .capIr | .selIr, true => .reset
  | .capIr, false => .shIr | .capIr, true => .ex1Ir
  | .shIr, false => .shIr | .shIr, true => .ex1Ir
  | .ex1Ir, false => .paIr | .ex1Ir, true => .updIr
  | .paIr, false => .paIr | .paIr, true => .ex2Ir
  | .ex2Ir, false => .shIr | .ex2Ir, true => .updIr
  | .updIr, false => .idle | .updIr, true => .selDr

/-- Capture-DR of the register that IR selects (R280). -/
def Tap.captureDr (t : Tap) (idcode : BitVec 31) : BitVec 57 :=
  if t.ir = 1 then BitVec.ofNat 57 (idcode.toNat * 2 + 1)
  else if t.ir = 8 then BitVec.ofNat 57 (b1 t.ready * 2 ^ 56 + t.addr.toNat * 2 ^ 32 + t.data.toNat)
  else 0

/-- One bit is shifted in at the high end of the register that IR selects (R280). -/
def Tap.shiftDr (t : Tap) (tdi : Bool) : BitVec 57 :=
  let n := if t.ir = 1 then 32 else if t.ir = 8 then 57 else 1
  BitVec.ofNat 57 (t.dr.toNat / 2 % 2 ^ n + b1 tdi * 2 ^ (n - 1))

/-- A rising edge of TCK: the registers act in the present state, and the state follows TMS. The two upper bits that Capture-IR
loads are free; IEEE 1149.1 gives the lower two. -/
def State.tckRise (s : State) (tms tdi : Bool) : State :=
  let t := s.tap
  let (v, s) := if t.st = .capIr then s.fresh else (0, s)
  let st := t.st.next tms
  let dr := match t.st with
    | .capDr => t.captureDr s.ties.idcode
    | .shDr => t.shiftDr tdi
    | _ => t.dr
  let irSh := match t.st with
    | .capIr => BitVec.ofNat 4 (1 + 4 * (Config.freeField v))
    | .shIr => BitVec.ofNat 4 (t.irSh.toNat / 2 + b1 tdi * 8)
    | _ => t.irSh
  { s with tap := { t with
      st := st, dr := dr, irSh := irSh, ir := if st = .reset then 1 else t.ir, upd := t.upd || st = .updDr } }

/-- A falling edge of TCK: Update-IR, what Update-DR has still to begin, and TDO in the shift states. -/
def State.tckFall (s : State) : State :=
  let s := if s.tap.upd then s.tapUpdate else s
  let t := s.tap
  { s with tap := { t with
      ir := if t.st = .updIr then t.irSh else t.ir
      tdo := match t.st with
        | .shDr => some (bit t.dr 0)
        | .shIr => some (bit t.irSh 0)
        | _ => none } }

/-- Test-Logic-Reset (R470). -/
def State.tapReset (s : State) : State :=
  { s with tap := { s.tap with st := .reset, ir := 1, upd := false, tdo := none } }

/-! ## Rows that are one access -/

/-- The thread's oldest store has been sent to this register with this data. -/
def State.storeNames (s : State) (th a : Nat) (ok : Word → Bool) : Bool :=
  match (s.thread th).sb with
  | e :: _ => e.sent && !e.acc && e.target = .window && windowReg th e.addr.toNat = some a && ok e.data
  | [] => false

/-- The thread's outstanding load names this register. -/
def State.loadNames (s : State) (th a : Nat) : Bool :=
  match (s.thread th).outst with
  | some o => o.unit = .window && windowReg th o.addr.toNat = some a
  | none => false

/-- The low 32 bits of a store are these. -/
def low32 (d : BitVec 32) (w : Word) : Bool := w.setWidth 32 = d

/-- A write of the register at address a from a source. -/
def State.viaWrite (s : State) (src : Src) (a : Nat) (d : BitVec 32) : State :=
  match src with
  | .thread th => if s.storeNames th.toNat a (low32 d) && s.groveOn (thG th.toNat) then s.storeAccept th else s
  | .image => s
  | _ => s.busWrite src (BitVec.ofNat 24 a) d

/-- A read of the register at address a from a source. -/
def State.viaRead (s : State) (src : Src) (a : Nat) : State :=
  match src with
  | .thread th => if s.loadNames th.toNat a && s.groveOn (thG th.toNat) then s.loadReturn th.toNat else s
  | .image => s
  | _ => s.busRead src (BitVec.ofNat 24 a)

/-- A write of a 72-bit engine register: three accesses of the host or the TAP, one store of a thread (R138, R139, R146). -/
def State.viaWide (s : State) (src : Src) (a : Nat) (d : Word) : State :=
  match src with
  | .thread th => if s.storeNames th.toNat a (fun w => w = d) && s.groveOn (thG th.toNat) then s.storeAccept th else s
  | .image => s
  | _ => ((s.busWrite src (BitVec.ofNat 24 a) (word32 d.toNat 0)).busWrite src (BitVec.ofNat 24 (a + 4)) (word32 d.toNat 1)).busWrite
      src (BitVec.ofNat 24 (a + 8)) (word32 d.toNat 2)

/-- A powered block that idles: an owed answer may arrive, an access that waits may end, and one heartwood cycle passes (log entry 4). -/
def State.idle (s : State) : State := if s.start.phase = .off then s else (s.owedArrive.accServe).hwCycle

end Sys2Proof.Machine
end

