-- ==== Sys2Proof/Machine/RegRows.lean ====
section
/-!
DEFINITION. The rows that are an access to one register: a write or a read by the host, the TAP or a thread's window, and the TAP.
-/
namespace Sys2Proof.Machine

/-- The address of a field register of the gate-list window (R104). -/
def gateReg : GateReg → Nat
  | .state => 0x8C004
  | .ivl => 0x8C008
  | .cycle => 0x8C00C
  | .len => 0x8C010
  | .base0 => 0x8C014
  | .base1 => 0x8C018
  | .base2 => 0x8C01C

/-- The offset of a synchronising register from its core (R181, R182, R315). -/
def syncOff : SyncReg → Nat
  | .slottab k => 0x10 + 4 * k.val
  | .bankmap k => 0xC0 + 4 * k.val
  | .thcfg t => 0x100 + 0x40 * t.val

/-- The address of a region register of the recorder (R388). -/
def regionReg : RegionReg → Nat
  | .recbase0 => 0xE0008
  | .recbase1 => 0xE000C
  | .recsize => 0xE0010
  | .recid => 0xE0004

/-- The offset of a time mirror register (R389). -/
def mirrorOff : MirrorReg → Nat
  | .tmrate => 0x900
  | .tmadj0 => 0x904
  | .tmadj1 => 0x908
  | .tmctl => 0x90C

/-! ## Writes of the start and the trunk -/

/-- STARTCMD_GO: STARTCMD with KEY 0xA5 and GO 1 (R427, R428). -/
def execStartcmdGo (src : Src) (d : BitVec 32) (s : State) : Host.Outcome State Fault Refusal :=
  .next (if fld d 24 8 = 0xA5 && bit d 0 then s.viaWrite src 0x14000 d else s)

/-- INITRPT_WRITE (R443, R453). -/
def execInitrptWrite (src : Src) (g : Fin 8) (d : BitVec 32) (s : State) : Host.Outcome State Fault Refusal :=
  .next (s.viaWrite src (aExc g.val + 0x20) d)

/-- DABANDON (R64): a write by the host, the TAP, or the grove's recovery thread. R508 gives the register no word in the grove unit
window, so the thread's write has no store behind it: the row is that write (log entry 83). -/
def execDabandon (src : Src) (g : Fin 8) (d : BitVec 32) (s : State) : Host.Outcome State Fault Refusal :=
  .next (match src with
    | .thread th => if th.toNat = s.recovery g.val && s.groveOn g.val then s.dabandon g.val d else s
    | _ => s.viaWrite src (aDisp g.val + 0x1008) d)

/-- DOMMAP_WRITE (R71). -/
def execDommapWrite (src : Src) (p : Fin 128) (h : Fin 2) (d : BitVec 32) (s : State) : Host.Outcome State Fault Refusal :=
  .next (s.viaWrite src (0x81000 + 8 * p.val + 4 * h.val) d)

/-- BUFCFG_WRITE (R36). -/
def execBufcfgWrite (src : Src) (p : Fin 128) (d : BitVec 32) (s : State) : Host.Outcome State Fault Refusal :=
  .next (s.viaWrite src (0x83000 + 16 * p.val) d)

/-- SHARE_WRITE (R49, R50). -/
def execShareWrite (src : Src) (g : Fin 8) (r : ShareReg) (d : BitVec 32) (s : State) : Host.Outcome State Fault Refusal :=
  .next (s.viaWrite src (match r with | .share c t => aDisp g.val + 4 * (16 * c.val + t.val) | .gpool => aDisp g.val + 0x1000) d)

/-- INFPEAK_READ (R70). -/
def execInfpeakRead (src : Src) (s : State) : Host.Outcome State Fault Refusal :=
  .next (s.viaRead src 0x80014)

/-! ## Egress, ports and rings -/

/-- GLSWAP (R80). -/
def execGlswap (src : Src) (d : BitVec 32) (s : State) : Host.Outcome State Fault Refusal :=
  .next (s.viaWrite src 0x8C020 d)

/-- GATE_LIST_WRITE (R80, R104). -/
def execGateListWrite (src : Src) (r : GateReg) (d : BitVec 32) (s : State) : Host.Outcome State Fault Refusal :=
  .next (s.viaWrite src (gateReg r) d)

/-- ETSQ_READ (R84). -/
def execEtsqRead (src : Src) (p : Fin 128) (s : State) : Host.Outcome State Fault Refusal :=
  .next (s.viaRead src (aIsland p.val + 0xE000 + 16 * (p.val % 32)))

/-- PORT_ENABLE_WRITE (R86). -/
def execPortEnableWrite (src : Src) (p : Fin 128) (d : BitVec 32) (s : State) : Host.Outcome State Fault Refusal :=
  .next (s.viaWrite src (aPort p.val) d)

/-- RINGCFG_WRITE (R89). -/
def execRingcfgWrite (src : Src) (r : Fin 16) (d : BitVec 32) (s : State) : Host.Outcome State Fault Refusal :=
  .next (s.viaWrite src (aRing r.val) d)

/-! ## Port engines -/

/-- ENGINE_HALT: HALT with REQ 1 (R141). -/
def execEngineHalt (src : Src) (p : Fin 128) (e : Fin 4) (d : BitVec 32) (s : State) : Host.Outcome State Fault Refusal :=
  .next (if bit d 0 then s.viaWrite src (aEngine p.val e.val + 4) d else s)

/-- ENGINE_FLUSH: HALT with FLUSH 1 (R141). -/
def execEngineFlush (src : Src) (p : Fin 128) (e : Fin 4) (d : BitVec 32) (s : State) : Host.Outcome State Fault Refusal :=
  .next (if bit d 1 then s.viaWrite src (aEngine p.val e.val + 4) d else s)

/-- ENGINE_RESUME: ECTL with RUN 1 (R141, R142). -/
def execEngineResume (src : Src) (p : Fin 128) (e : Fin 4) (d : BitVec 32) (s : State) : Host.Outcome State Fault Refusal :=
  .next (if bit d 31 then s.viaWrite src (aEngine p.val e.val) d else s)

/-- ECTL_WRITE (R148). -/
def execEctlWrite (src : Src) (p : Fin 128) (e : Fin 4) (d : BitVec 32) (s : State) : Host.Outcome State Fault Refusal :=
  .next (s.viaWrite src (aEngine p.val e.val) d)

/-- ESTAT_WRITE (R139). -/
def execEstatWrite (src : Src) (p : Fin 128) (e : Fin 4) (d : BitVec 32) (s : State) : Host.Outcome State Fault Refusal :=
  .next (s.viaWrite src (aEngine p.val e.val + 8) d)

/-- ENGINE_STATE_WRITE (R139). -/
def execEngineStateWrite (src : Src) (p : Fin 128) (e : Fin 4) (r : EngineReg) (d : Word) (s : State) : Host.Outcome State Fault Refusal :=
  .next (match r with
    | .shr => s.viaWide src (aEngine p.val e.val + 0x10) d
    | .x => s.viaWide src (aEngine p.val e.val + 0x1C) d
    | .cnt => s.viaWrite src (aEngine p.val e.val + 0xC) (d.setWidth 32))

/-- PULLQ_WRITE (R139). -/
def execPullqWrite (src : Src) (p : Fin 128) (e : Fin 4) (d : Word) (s : State) : Host.Outcome State Fault Refusal :=
  .next (s.viaWide src (aEngine p.val e.val + 0x34) d)

/-- PUSHQ_READ (R138, R148). -/
def execPushqRead (src : Src) (p : Fin 128) (e : Fin 4) (s : State) : Host.Outcome State Fault Refusal :=
  .next (s.viaRead src (aEngine p.val e.val + 0x28))

/-- ENGINE_STORE_WRITE (R143). -/
def execEngineStoreWrite (src : Src) (p : Fin 128) (w : Fin 48) (d : BitVec 32) (s : State) : Host.Outcome State Fault Refusal :=
  .next (s.viaWrite src (aIsland p.val + 0x400 * (p.val % 32) + 4 * w.val) d)

/-- PECFG_WRITE (R116). -/
def execPecfgWrite (src : Src) (p : Fin 128) (d : BitVec 32) (s : State) : Host.Outcome State Fault Refusal :=
  .next (s.viaWrite src (aIsland p.val + 0x400 * (p.val % 32) + 0xC0) d)

/-! ## Cores and threads -/

/-- SYNC_REGISTER_WRITE (R168). -/
def execSyncRegisterWrite (src : Src) (g : Fin 8) (c : Fin 32) (r : SyncReg) (d : BitVec 32) (s : State) : Host.Outcome State Fault Refusal :=
  .next (s.viaWrite src (aCore g.val c.val + syncOff r) d)

/-- CORESYNC_CORE: CORESYNC with CORE 1 (R170). -/
def execCoresyncCore (src : Src) (g : Fin 8) (c : Fin 32) (s : State) : Host.Outcome State Fault Refusal :=
  .next (s.viaWrite src (aCore g.val c.val + 8) 0x10000)

/-- CORESYNC_THREADS: CORESYNC with the threads' bits (R170). -/
def execCoresyncThreads (src : Src) (g : Fin 8) (c : Fin 32) (threads : BitVec 16) (s : State) : Host.Outcome State Fault Refusal :=
  .next (s.viaWrite src (aCore g.val c.val + 8) (threads.setWidth 32))

/-- THCMD_START (R174). -/
def execThcmdStart (src : Src) (th : Thid) (s : State) : Host.Outcome State Fault Refusal :=
  .next (s.viaWrite src (aThread th.toNat + 0x10) 1)

/-- THCMD_PARK (R174). -/
def execThcmdPark (src : Src) (th : Thid) (s : State) : Host.Outcome State Fault Refusal :=
  .next (s.viaWrite src (aThread th.toNat + 0x10) 2)

/-- THPC_WRITE (R174). -/
def execThpcWrite (src : Src) (th : Thid) (d : BitVec 32) (s : State) : Host.Outcome State Fault Refusal :=
  .next (s.viaWrite src (aThread th.toNat + 8) d)

/-- SERVICE_MODE_REQUEST (R176). -/
def execServiceModeRequest (src : Src) (g : Fin 8) (c : Fin 32) (s : State) : Host.Outcome State Fault Refusal :=
  .next (s.viaWrite src (aCore g.val c.val) 1)

/-- MAINTENANCE_MODE_REQUEST (R177). -/
def execMaintenanceModeRequest (src : Src) (g : Fin 8) (c : Fin 32) (s : State) : Host.Outcome State Fault Refusal :=
  .next (s.viaWrite src (aCore g.val c.val) 0)

/-- ISTORE_COMMIT (R193). -/
def execIstoreCommit (src : Src) (g : Fin 8) (d : BitVec 32) (s : State) : Host.Outcome State Fault Refusal :=
  .next (s.viaWrite src (aIstore g.val + 0xC) d)

/-- ISTORE_READ (R193). -/
def execIstoreRead (src : Src) (g : Fin 8) (s : State) : Host.Outcome State Fault Refusal :=
  .next (s.viaRead src (aIstore g.val + 4))

/-- IRAISE_LINES (R265). -/
def execIraiseLines (src : Src) (th : Thid) (lines : BitVec 8) (s : State) : Host.Outcome State Fault Refusal :=
  .next (s.viaWrite src (aThread th.toNat + 0x18) (lines.setWidth 32))

/-- IRAISE_NMI (R268). -/
def execIraiseNmi (src : Src) (th : Thid) (s : State) : Host.Outcome State Fault Refusal :=
  .next (s.viaWrite src (aThread th.toNat + 0x18) 0x10000)

/-- NMIRAISE (R268). -/
def execNmiraise (src : Src) (g : Fin 8) (d : BitVec 32) (s : State) : Host.Outcome State Fault Refusal :=
  .next (s.viaWrite src (aExc g.val + 0x14) d)

/-- IPEND_CLEAR (R265). -/
def execIpendClear (src : Src) (th : Thid) (lines : BitVec 8) (s : State) : Host.Outcome State Fault Refusal :=
  .next (s.viaWrite src (aThread th.toNat + 0x14) (lines.setWidth 32))

/-- RECOV_WRITE (R267). -/
def execRecovWrite (src : Src) (g : Fin 8) (d : BitVec 32) (s : State) : Host.Outcome State Fault Refusal :=
  .next (s.viaWrite src (aExc g.val) d)

/-- HREL_PARK (R273). -/
def execHrelPark (src : Src) (g : Fin 8) (thid : Thid) (s : State) : Host.Outcome State Fault Refusal :=
  .next (s.viaWrite src (aExc g.val + 0x10) (thid.setWidth 32))

/-- HREL_RETRY (R273). -/
def execHrelRetry (src : Src) (g : Fin 8) (thid : Thid) (s : State) : Host.Outcome State Fault Refusal :=
  .next (s.viaWrite src (aExc g.val + 0x10) (thid.setWidth 32 + 0x10000))

/-- WDKICK (R274). -/
def execWdkick (src : Src) (g : Fin 8) (s : State) : Host.Outcome State Fault Refusal :=
  .next (s.viaWrite src (aExc g.val + 0x1C) 1)

/-- DEBUG_HALT: by DBGCMD or DBGHALT (R275). -/
def execDebugHalt (src : Src) (target : HaltTarget) (s : State) : Host.Outcome State Fault Refusal :=
  .next (match target with
    | .dbgcmd th => s.viaWrite src (aThread th.toNat + 0x24) 1
    | .dbghalt g c threads => s.viaWrite src (aCore g.val c.val + 0xB0) (threads.setWidth 32 + 0x10000))

/-- DEBUG_RESUME (R275). -/
def execDebugResume (src : Src) (target : HaltTarget) (s : State) : Host.Outcome State Fault Refusal :=
  .next (match target with
    | .dbgcmd th => s.viaWrite src (aThread th.toNat + 0x24) 2
    | .dbghalt g c threads => s.viaWrite src (aCore g.val c.val + 0xB0) (threads.setWidth 32 + 0x20000))

/-- DEBUG_STEP (R276). -/
def execDebugStep (src : Src) (th : Thid) (stepirq : Bool) (s : State) : Host.Outcome State Fault Refusal :=
  .next (s.viaWrite src (aThread th.toNat + 0x24) (if stepirq then 0x14 else 4))

/-- ABORTCH (R279). -/
def execAbortch (src : Src) (th : Thid) (s : State) : Host.Outcome State Fault Refusal :=
  .next (s.viaWrite src (aThread th.toNat + 0x24) 8)

/-- DBGSEL_WRITE (R278). -/
def execDbgselWrite (src : Src) (g : Fin 8) (c : Fin 32) (d : BitVec 32) (s : State) : Host.Outcome State Fault Refusal :=
  .next (s.viaWrite src (aCore g.val c.val + 0xA0) d)

/-- DBGDATA_COMMIT (R278). -/
def execDbgdataCommit (src : Src) (g : Fin 8) (c : Fin 32) (d : BitVec 32) (s : State) : Host.Outcome State Fault Refusal :=
  .next (s.viaWrite src (aCore g.val c.val + 0xAC) d)

/-! ## Grove memory and locks -/

/-- BOWN_WRITE (R291). -/
def execBownWrite (src : Src) (g : Fin 8) (bp : Fin 34) (d : BitVec 32) (s : State) : Host.Outcome State Fault Refusal :=
  .next (s.viaWrite src (aBanks g.val + 4 * bp.val) d)

/-- BANK_WINDOW_READ (R317). -/
def execBankWindowRead (src : Src) (g : Fin 8) (s : State) : Host.Outcome State Fault Refusal :=
  .next (s.viaRead src (aBw g.val + 4))

/-- BANK_WINDOW_COMMIT (R317). -/
def execBankWindowCommit (src : Src) (g : Fin 8) (d : BitVec 32) (s : State) : Host.Outcome State Fault Refusal :=
  .next (s.viaWrite src (aBw g.val + 0xC) d)

/-- DMA_GO: DCTL with GO 1 (R299). -/
def execDmaGo (src : Src) (g : Fin 8) (k : Fin 8) (d : BitVec 32) (s : State) : Host.Outcome State Fault Refusal :=
  .next (if bit d 31 then s.viaWrite src (aDma g.val + 0x40 * k.val + 0x14) d else s)

/-- DMA_STOP: DCTL with STOP 1 (R301). -/
def execDmaStop (src : Src) (g : Fin 8) (k : Fin 8) (d : BitVec 32) (s : State) : Host.Outcome State Fault Refusal :=
  .next (if bit d 30 then s.viaWrite src (aDma g.val + 0x40 * k.val + 0x14) d else s)

/-- LKREL_LOCK (R305). -/
def execLkrelLock (src : Src) (g : Fin 8) (arg : BitVec 12) (s : State) : Host.Outcome State Fault Refusal :=
  .next (s.viaWrite src (aLocks g.val + 0x4A0) (arg.setWidth 32))

/-- LKREL_THREAD (R305). -/
def execLkrelThread (src : Src) (g : Fin 8) (thid : Thid) (s : State) : Host.Outcome State Fault Refusal :=
  .next (s.viaWrite src (aLocks g.val + 0x4A0) (thid.setWidth 32 + 0x10000))

/-- EVSET (R306). -/
def execEvset (src : Src) (g : Fin 8) (h : Fin 2) (mask : BitVec 32) (s : State) : Host.Outcome State Fault Refusal :=
  .next (s.viaWrite src (aLocks g.val + 0x488 + 4 * h.val) mask)

/-- EVCLR (R306). -/
def execEvclr (src : Src) (g : Fin 8) (h : Fin 2) (mask : BitVec 32) (s : State) : Host.Outcome State Fault Refusal :=
  .next (s.viaWrite src (aLocks g.val + 0x490 + 4 * h.val) mask)

/-- CHFLUSH (R311). -/
def execChflush (src : Src) (g : Fin 8) (ch : Fin 64) (s : State) : Host.Outcome State Fault Refusal :=
  .next (s.viaWrite src (aLocks g.val + 0x4A4) (BitVec.ofNat 32 ch.val))

/-! ## Lookup, time, recorder and timers -/

/-- TABLE_ENABLE: TBLCFG with EN 1 (R321, R350). -/
def execTableEnable (src : Src) (t : Fin 64) (d : BitVec 32) (s : State) : Host.Outcome State Fault Refusal :=
  .next (if bit d 31 then s.viaWrite src (aTable t.val) d else s)

/-- TABLE_DISABLE: TBLCFG with EN 0 (R352). -/
def execTableDisable (src : Src) (t : Fin 64) (d : BitVec 32) (s : State) : Host.Outcome State Fault Refusal :=
  .next (if bit d 31 then s else s.viaWrite src (aTable t.val) d)

/-- TBLCFG_WRITE (R352). -/
def execTblcfgWrite (src : Src) (t : Fin 64) (d : BitVec 32) (s : State) : Host.Outcome State Fault Refusal :=
  .next (s.viaWrite src (aTable t.val) d)

/-- TRATE_WRITE (R360). -/
def execTrateWrite (src : Src) (d : BitVec 32) (s : State) : Host.Outcome State Fault Refusal :=
  .next (s.viaWrite src 0x1001C d)

/-- TIME_STEP: a TADJ1 commit with STEP 1 (R361). -/
def execTimeStep (src : Src) (d : BitVec 32) (s : State) : Host.Outcome State Fault Refusal :=
  .next (if bit s.timectl 31 then s.viaWrite src 0x10024 d else s)

/-- TIME_SLEW: a TADJ1 commit with STEP 0 (R361). -/
def execTimeSlew (src : Src) (d : BitVec 32) (s : State) : Host.Outcome State Fault Refusal :=
  .next (if bit s.timectl 31 then s else s.viaWrite src 0x10024 d)

/-- TSET_COMMIT (R363). -/
def execTsetCommit (src : Src) (d : BitVec 32) (s : State) : Host.Outcome State Fault Refusal :=
  .next (s.viaWrite src 0x10018 d)

/-- TIME_MIRROR_WRITE (R365). -/
def execTimeMirrorWrite (th : Thid) (r : MirrorReg) (d : BitVec 32) (s : State) : Host.Outcome State Fault Refusal :=
  .next (s.viaWrite (.thread th) (aTimers (thG th.toNat) + mirrorOff r) d)

/-- RECORDER_REGION_WRITE (R375). -/
def execRecorderRegionWrite (src : Src) (r : RegionReg) (d : BitVec 32) (s : State) : Host.Outcome State Fault Refusal :=
  .next (s.viaWrite src (regionReg r) d)

/-- RECRD_WRITE: the committing word (R372). -/
def execRecrdWrite (src : Src) (d : BitVec 32) (s : State) : Host.Outcome State Fault Refusal :=
  .next (s.viaWrite src 0xE004C d)

/-- TIMER_ARM (R379). -/
def execTimerArm (src : Src) (g : Fin 8) (k : Fin 32) (s : State) : Host.Outcome State Fault Refusal :=
  .next (s.viaWrite src (aTimer g.val k.val + 8) 1)

/-- TIMER_DISARM (R379). -/
def execTimerDisarm (src : Src) (g : Fin 8) (k : Fin 32) (s : State) : Host.Outcome State Fault Refusal :=
  .next (s.viaWrite src (aTimer g.val k.val + 8) 2)

/-- TIMER_COMPARE_COMMIT (R380, R386). -/
def execTimerCompareCommit (src : Src) (g : Fin 8) (k : Fin 32) (d : BitVec 32) (s : State) : Host.Outcome State Fault Refusal :=
  .next (s.viaWrite src (aTimer g.val k.val + 0x1C) d)

/-- TIMER_COUNT_COMMIT (R384, R386). -/
def execTimerCountCommit (src : Src) (g : Fin 8) (k : Fin 32) (d : BitVec 32) (s : State) : Host.Outcome State Fault Refusal :=
  .next (s.viaWrite src (aTimer g.val k.val + 0x14) d)

/-- TCAP_READ (R383). -/
def execTcapRead (src : Src) (g : Fin 8) (k : Fin 32) (s : State) : Host.Outcome State Fault Refusal :=
  .next (s.viaRead src (aTimer g.val k.val + 0x20))

/-- GOUT_WRITE (R389). -/
def execGoutWrite (src : Src) (g : Fin 8) (d : BitVec 32) (s : State) : Host.Outcome State Fault Refusal :=
  .next (s.viaWrite src (aTimers g.val + 0x800) d)

/-! ## Clocks, power and the management port -/

/-- GROVE_GATE_WRITE (R413). -/
def execGroveGateWrite (src : Src) (g : Fin 8) (d : BitVec 32) (s : State) : Host.Outcome State Fault Refusal :=
  .next (s.viaWrite src (aGclk g.val) d)

/-- ISLAND_WAKE: GATE 0 to an island in OFF, a grove's PT kept (R417). -/
def execIslandWake (src : Src) (i : Fin 18) (s : State) : Host.Outcome State Fault Refusal :=
  .next (let i := i.val
    if (s.isl i).st ≠ .off || i < 6 then s
    else if i < 10 then s.viaWrite src (aPictl (i - 6)) 0
    else s.viaWrite src (aGclk (i - 10)) (s.reg (aGclk (i - 10)) &&& 7))

/-- PORT_ISLAND_GATE_WRITE (R414). -/
def execPortIslandGateWrite (src : Src) (k : Fin 4) (d : BitVec 32) (s : State) : Host.Outcome State Fault Refusal :=
  .next (s.viaWrite src (aPictl k.val) d)

/-- CLOCK_POINT_WRITE (R419). -/
def execClockPointWrite (src : Src) (g : Fin 8) (d : BitVec 32) (s : State) : Host.Outcome State Fault Refusal :=
  .next (s.viaWrite src (aGclk g.val) d)

/-- REGISTER_WRITE (R474, R476). -/
def execRegisterWrite (src : Src) (a : BitVec 24) (d : BitVec 32) (s : State) : Host.Outcome State Fault Refusal :=
  .next (s.viaWrite src a.toNat d)

/-- LATCH_READ: a read of an RL word (R480). -/
def execLatchRead (src : Src) (a : BitVec 24) (s : State) : Host.Outcome State Fault Refusal :=
  .next (if (wideAt a.toNat).any (fun w => w.1 = a.toNat) then s.viaRead src a.toNat else s)

/-- ACCESS_TIMEOUT (R478). -/
def execAccessTimeout (src : Src) (a : BitVec 24) (write : Bool) (d : BitVec 32) (s : State) : Host.Outcome State Fault Refusal :=
  .next (s.accTimeout src a write d)

/-- IRQTEST (R490). -/
def execIrqtest (src : Src) (d : BitVec 32) (s : State) : Host.Outcome State Fault Refusal :=
  .next (s.viaWrite src 0x20014 d)

/-- MANAGEMENT_READ (R475, R483). -/
def execManagementRead (src : Src) (a : BitVec 24) (s : State) : Host.Outcome State Fault Refusal :=
  .next (s.viaRead src a.toNat)

/-- TAP_UPDATE_DR (R280). -/
def execTapUpdateDr (s : State) : Host.Outcome State Fault Refusal :=
  .next (if s.tap.upd then s.tapUpdate else s)

/-- TAP_RESET (R470). -/
def execTapReset (s : State) : Host.Outcome State Fault Refusal :=
  .next (s.tapReset)

/-- TCK_EDGE (R280). -/
def execTckEdge (rising : Bool) (tms : Bool) (tdi : Bool) (s : State) : Host.Outcome State Fault Refusal :=
  .next (if s.start.phase = .off then s else if rising then s.tckRise tms tdi else s.tckFall)

end Sys2Proof.Machine
end

