-- ==== Sys2Proof/Machine/Nvm.lean ====
section
/-!
DEFINITION. The NVM signals and island 2 (R412, R430, R431, R455, R468): the reads of the root loader, and the level of each line
in each half of an SCK cycle. A start reads within one command, so between commands the island is OFF (log entry 102).
-/
namespace Sys2Proof.Machine

/-! ## One read -/

/-- The read command of a mode; octal mode sends 0xEE with the extension 0x11 (R430). -/
def nvmCmd (mode : Nat) : Nat :=
  match mode with
  | 0 => 0x0C
  | 1 => 0x3C
  | _ => 0xEE11

/-- SCK cycles of the command and the address: one bit a cycle, in octal mode two bytes a cycle (R468). -/
def NvmRead.headCycles (r : NvmRead) : Nat := if r.mode = 2 then 3 else 40

/-- SCK cycles of a byte of data: 8 in single mode, 4 in dual mode; in octal mode a cycle carries two bytes (R430). -/
def NvmRead.dataCycles (r : NvmRead) : Nat :=
  match r.mode with
  | 0 => 8 * r.len
  | 1 => 4 * r.len
  | _ => (r.len + 1) / 2

/-- SCK cycles of the whole read, with NVM_CS_N low (R468). -/
def NvmRead.cycles (r : NvmRead) : Nat := r.headCycles + r.dummy + r.dataCycles

/-- Half a period of SCK in tenths of a nanosecond: the clock is 200 MHz / (2 × DIV) (R430). -/
def NvmRead.halfTenths (r : NvmRead) : Nat := 50 * r.div

/-- The level at which the block drives DQ line i in a half of an SCK cycle, halves counted from 0; none while the line is at high
impedance (R468). -/
def NvmRead.drives (r : NvmRead) (half i : Nat) : Option Bool :=
  if r.mode = 2 then
    if half < 6 ∧ i < 8 then some ((nvmCmd 2 * 2 ^ 32 + r.addr).testBit (8 * (5 - half) + i)) else none
  else
    if half < 80 ∧ i = 0 then some ((nvmCmd r.mode * 2 ^ 32 + r.addr).testBit (39 - half / 2)) else none

/-- The byte of the read and its bit that the flash gives on DQ line i in a half of an SCK cycle (R468). -/
def NvmRead.carries (r : NvmRead) (half i : Nat) : Option (Nat × Nat) :=
  let h := half - 2 * (r.headCycles + r.dummy)
  let c := h / 2
  if half < 2 * (r.headCycles + r.dummy) ∨ 2 * r.cycles ≤ half then none
  else match r.mode with
    | 0 => if i = 1 then some (c / 8, 7 - c % 8) else none
    | 1 => if i = 0 then some (c / 4, 6 - 2 * (c % 4)) else if i = 1 then some (c / 4, 7 - 2 * (c % 4)) else none
    | _ => if i < 8 ∧ h < r.len then some (h, i) else none

/-! ## The loader -/

def State.nvmDo (s : State) (op : NvmOp) : State := { s with nvm := { s.nvm with ops := s.nvm.ops ++ [op] } }

/-- Island 2 goes ON or OFF; only the root loader, while it reads, has it ON (R412). -/
def State.nvmPower (s : State) (on : Bool) : State :=
  let st : Power := if on then .on else .off
  if (s.isl 2).st = st then s else (s.setIsl 2 { st := st }).nvmDo (.power on)

/-- Step 5 begins: NVM_RST_N is low for 10 µs, and NVM_CS_N first falls 50 µs after its rise (R468). -/
def State.nvmBegin (s : State) : State :=
  let s := (({ s with nvm := {} }).nvmPower true).nvmDo (.rstN false 10000)
  { s with nvm := { s.nvm with rstN := true, ops := s.nvm.ops ++ [.rstN true 50000] } }

/-- The byte address of the slot in use (R429). -/
def State.slotBase (s : State) : Nat := if s.start.slot then 0x02000000 else 0

/-- The first 256 bytes are read in the boot mode at 25 MHz (R430). -/
def State.nvmBoot (s : State) : State :=
  let mode := s.ties.bootmode.toNat
  s.nvmDo (.read { mode := mode, div := 4, dummy := if mode = 2 then 20 else 8, addr := s.slotBase, len := 256 })

/-- Bytes of the image are read in the mode and at the clock of NVMCFG (R430, R432). -/
def State.nvmRead (s : State) (off len : Nat) : State :=
  let cfg := s.nvm.cfg
  if len = 0 then s
  else (s.nvmPower true).nvmDo (.read { mode := cfg % 4, div := cfg / 4 % 4 + 1, dummy := if cfg % 4 = 2 then cfg / 16 % 32 else 8
                                        addr := s.slotBase + off, len := len })

/-! ## Levels between reads -/

/-- NVM_RST_N, NVM_CS_N, NVM_SCK and NVM_DQ as they stand after a command: the loader then reads nothing (R455, R468). -/
def State.nvmPins (s : State) : Bool × Bool × Bool × List (Option Bool) := (s.nvm.rstN, true, false, List.replicate 8 none)

end Sys2Proof.Machine
end

