-- ==== Sys2Proof/Machine/Image.lean ====
section
/-!
DEFINITION. The Relica image: its header and section table (R432 to R434), the checks of step 5 (R430, R436, R446), the digests
and signature of step 6 (R437, R438), and the sections that step 7 applies (R434, R435, R441). Bytes of the flash beyond those
that the environment lists read 0xFF (log entry 60).
-/
namespace Sys2Proof.Machine

/-! ## Bytes -/

/-- n bytes of the flash from an offset. -/
def bytesAt (b : List Byte) (off n : Nat) : List Byte :=
  let l := (b.drop off).take n
  l ++ List.replicate (n - l.length) 0xFF

/-- n bytes as a little-endian number. -/
def numAt (b : List Byte) (off n : Nat) : Nat := leNat (bytesAt b off n)

/-- n bytes as a big-endian number. -/
def bigAt (b : List Byte) (off n : Nat) : Nat := beNat (bytesAt b off n)

/-! ## Header (R432) -/

def imgRelaxed (b : List Byte) : Bool := numAt b 6 2 % 2 = 1
def imgLen (b : List Byte) : Nat := numAt b 8 4
def imgNsect (b : List Byte) : Nat := numAt b 0xC 2
def imgNvmcfg (b : List Byte) : Nat := numAt b 0xE 2
/-- First byte after the section table. -/
def imgTableEnd (b : List Byte) : Nat := 0x100 + 48 * imgNsect b

/-- A header field of code 0x13 is at fault. -/
def hdrBad (off : Nat) : Option Fail := some { code := 0x13, detail := off, off := some off }

/-- The header checks in the order of R446; the mode of NVMCFG is octal exactly when BOOTMODE is (R430). -/
def headerFail (b : List Byte) (boot : Nat) : Option Fail :=
  let rel := imgRelaxed b
  let mode := imgNvmcfg b % 4
  if numAt b 0 4 ≠ 0x494C4552 then some { code := 0x11, off := some 0 }
  else if numAt b 4 2 ≠ 4 then some { code := 0x12, detail := numAt b 4 1, off := some 4 }
  else if !rel && numAt b 6 2 / 2 ≠ 0 then hdrBad 0x06
  else if imgNsect b = 0 || imgNsect b > 1024 then hdrBad 0x0C
  else if imgLen b % 8 ≠ 0 || imgLen b < imgTableEnd b || imgLen b > 2 ^ 25 then hdrBad 0x08
  else if mode = 3 || decide (mode = 2) ≠ decide (boot = 2) || (!rel && imgNvmcfg b / 2 ^ 9 ≠ 0) then hdrBad 0x0E
  else if !rel && numAt b 0x38 8 ≠ 0 then hdrBad 0x38
  else if !rel && numAt b 0xE0 32 ≠ 0 then hdrBad 0xE0
  else none

/-! ## Section table (R433, R434) -/

/-- A section: its index, TYPE, TARGET, OFFSET, LENGTH, and SDIGEST as a big-endian number. -/
structure Sect where
  idx : Nat
  typ : Nat
  tgt : Nat
  off : Nat
  len : Nat
  dig : Nat
  deriving DecidableEq, Repr

/-- Offset of entry i of the section table. -/
def entryAt (i : Nat) : Nat := 0x100 + 48 * i

/-- Entry i of the section table. -/
def sectAt (b : List Byte) (i : Nat) : Sect :=
  let o := entryAt i
  { idx := i, typ := numAt b o 2, tgt := numAt b (o + 2) 2, off := numAt b (o + 4) 4, len := numAt b (o + 8) 4
    dig := bigAt b (o + 16) 32 }

/-- The sections of an image. -/
def sections (b : List Byte) : List Sect := (upto (imgNsect b)).map (sectAt b)

/-- LENGTH suits TYPE (R434). -/
def lenOk (typ len : Nat) : Bool :=
  match typ with
  | 1 | 6 => len % 8 = 0
  | 2 => len = 2560
  | 3 => 8 ≤ len && len % 8 = 0 && (len - 8) % 10 < 8
  | 4 => len = 192
  | 5 => len % 40 = 0
  | 7 => len % 2 = 0
  | _ => true

/-- TARGET lies in the range of TYPE (R434). -/
def targetOk (typ tgt : Nat) : Bool :=
  match typ with
  | 1 => tgt < 18
  | 2 | 3 | 7 => tgt < 8
  | 4 => tgt < 128
  | 5 => tgt < 64
  | 6 => tgt = 0
  | _ => true

/-- R434 gives the TYPE. -/
def knownType (typ : Nat) : Bool := 1 ≤ typ && typ ≤ 7

/-- Two sections share a byte. -/
def Sect.overlaps (x y : Sect) : Bool := x.off < y.off + y.len && y.off < x.off + x.len

/-- The entry breaks R433 or R436, its contents aside. -/
def Sect.entryBad (b : List Byte) (x : Sect) : Bool :=
  (!imgRelaxed b && (!knownType x.typ || numAt b (entryAt x.idx + 12) 4 ≠ 0)) ||
    x.off % 8 ≠ 0 || x.off < imgTableEnd b || imgLen b < x.off + x.len ||
    (upto x.idx).any (fun j => (sectAt b j).overlaps x) || !lenOk x.typ x.len || !targetOk x.typ x.tgt

/-- The failure of a section table entry. -/
def Sect.entryFail (x : Sect) : Fail := { code := 0x14, off := some (entryAt x.idx), sect := some x.idx }

/-- The first entry that is wrong. -/
def tableFail (b : List Byte) : Option Fail := ((sections b).find? (Sect.entryBad b)).map Sect.entryFail

/-- First store word and records of a PROGRAM section. -/
def Sect.firstWord (b : List Byte) (x : Sect) : Nat := numAt b x.off 8 % 2 ^ 14
def Sect.nwords (x : Sect) : Nat := (x.len - 8) / 10

/-- A PROGRAM section whose words pass store word 16,383 (R434); a read of the whole image finds it. -/
def programFail (b : List Byte) : Option Fail :=
  ((sections b).find? (fun x => x.typ = 3 && x.firstWord b + x.nwords > 16384)).map Sect.entryFail

/-- The bytes of a section. -/
def Sect.bytes (b : List Byte) (x : Sect) : List Byte := bytesAt b x.off x.len

/-! ## Digests and signature (R437, R438) -/

/-- HDIGEST. -/
def hdigest (b : List Byte) : Nat := sha256 (bytesAt b 0 0x80 ++ bytesAt b 0x100 (48 * imgNsect b))

/-- DIGEST of the header. -/
def imgDigest (b : List Byte) : Nat := bigAt b 0x80 32

/-- The digest of a section is its SDIGEST. -/
def Sect.digestOk (b : List Byte) (x : Sect) : Bool := sha256 (x.bytes b) = x.dig

/-- The SHA-256 of PUBKEY, its byte 0 lowest as the tie KEYHASH gives it. -/
def keyHash (b : List Byte) : Nat := leNat (beBytes 32 (sha256 (bytesAt b 0x40 64)))

/-- Step 6 (R438). -/
def authFail (b : List Byte) (ties : Ties) : Option Fail :=
  if ties.authsig && keyHash b ≠ ties.keyhash.toNat then some { code := 0x20, off := some 0x40 }
  else if hdigest b ≠ imgDigest b then some { code := 0x21, off := some 0x80 }
  else match (sections b).find? (fun x => !x.digestOk b) with
    | some x => some { code := 0x21, off := some x.off, sect := some x.idx }
    | none =>
      if ties.authsig && !ecdsaOk (bigAt b 0x40 32) (bigAt b 0x60 32) (bigAt b 0xA0 32) (bigAt b 0xC0 32) (imgDigest b)
      then some { code := 0x22, off := some 0xA0 }
      else none

/-! ## Applying the sections (R435, R441) -/

/-- What step 7 carries along: the state, and the islands of the PECFG items that ask for pin mode without pads, by register (R10). -/
structure Load where
  st     : State
  absent : SMap Nat

/-- A load in progress, or its failure with the state that it left. -/
abbrev Loading := Except (Fail × State) Load

/-- What step 7 knows of the image: its bytes, whether reserved fields count, whether heartwood fields that a warm start keeps are
written, and the ports that R145 keeps. -/
structure Parse where
  bytes   : List Byte
  relaxed : Bool
  warm    : Bool
  keep    : List Nat

/-- A failure of a section's item at an offset of the image. -/
def itemFail (code : Nat) (x : Sect) (o : Nat) : Fail := { code := code, off := some o, sect := some x.idx }

/-- The island is ON for step 7: a state that the image itself gives counts. -/
def Load.on (l : Load) (i : Nat) : Bool := (l.st.isl i).st = .on

/-- A register of the heartwood whose image fields a warm start keeps (R106, R387, R506). -/
def heartKept (a : Nat) : Bool := (0x10000 ≤ a && a < 0x10080) || (0x12000 ≤ a && a < 0x12200)

/-- A register of a port that R145 keeps: engines, PECFG and store. -/
def portKept (keep : List Nat) (a : Nat) : Bool := keptReg keep a && a % 0x10000 < 0x8000

/-- The ports whose items select pin mode without pads, after an item: the write itself lands no pin mode (R7, R10). -/
def Load.resource (l : Load) (a : Nat) (d : BitVec 32) : SMap Nat :=
  let i := (islandOf a).getD 0
  let pin : Bool := 6 ≤ i && i < 10 && a % 0x10000 < 0x8000 && a % 0x400 = 0xC0 && bit d 31 &&
    !bit l.st.ties.pinpads (32 * (i - 6) + a % 0x10000 / 0x400)
  mput 0 l.absent a (if pin then i else 0)

/-- A permitted item is written, unless the start keeps the field (R145, R506). -/
def Load.write (p : Parse) (l : Load) (a : Nat) (d : BitVec 32) : Load :=
  if (p.warm && heartKept a) || portKept p.keep a then l
  else { st := l.st.writeReg .image a d, absent := l.resource a d }

/-- The island that the items of a section must lie in; RECORDER items lie from M:0x000E_0000 to M:0x000E_0FFF (R434). -/
def Sect.place (x : Sect) (a : Nat) : Bool :=
  if x.typ = 6 then 0xE0000 ≤ a && a < 0xE1000 else islandOf a = some x.tgt

/-- One register item at an offset of the image (R435, R436). -/
def Load.item (p : Parse) (x : Sect) (l : Load) (o : Nat) : Loading :=
  let d := BitVec.ofNat 32 (numAt p.bytes o 4)
  let a := numAt p.bytes (o + 4) 3
  let strict := !p.relaxed
  match regShape a with
  | none => if strict then .error (itemFail 0x33 x o, l.st) else .ok l
  | some (img, other) =>
    if !x.place a || img = 0 then .error (itemFail 0x33 x o, l.st)
    else if strict && (numAt p.bytes (o + 7) 1 ≠ 0 || d &&& ~~~(img ||| other) ≠ 0) then .error (itemFail 0x32 x o, l.st)
    else if d &&& other &&& ~~~img ≠ 0 then .error (itemFail 0x33 x o, l.st)
    else .ok (l.write p a (d &&& img))

/-- The items of an ISLAND or RECORDER section, in order. -/
def Load.items (p : Parse) (x : Sect) (l : Load) : Loading :=
  (upto (x.len / 8)).foldlM (fun l i => Load.item p x l (x.off + 8 * i)) l

/-- A field of n bytes whose bits outside the mask are reserved (R436). -/
def Load.field (p : Parse) (x : Sect) (l : Load) (o n mask : Nat) : Except (Fail × State) Nat :=
  let v := numAt p.bytes o n
  if !p.relaxed && v &&& mask ≠ v then .error (itemFail 0x32 x o, l.st) else .ok (v &&& mask)

/-- SLOTPLAN: word i of the plan of a grove; both copies are loaded (R434). -/
def Load.slotWord (p : Parse) (x : Sect) (l : Load) (i : Nat) : Loading := do
  let tab : Bool := i % 20 < 4
  let v ← l.field p x (x.off + 4 * i) 4 (if tab then 0x1F1F1F1F else 0xF03)
  let d := BitVec.ofNat 32 v
  return { l with st :=
    if tab then l.st.setSlottab x.tgt (i / 20) (i % 20) d true
    else l.st.setThcfg (thid x.tgt (i / 20) (i % 20 - 4)) d true }

/-- PROGRAM: record i, the word with its MARK (R434). -/
def Load.progWord (p : Parse) (x : Sect) (first : Nat) (l : Load) (i : Nat) : Loading := do
  let o := x.off + 8 + 10 * i
  let mark ← l.field p x (o + 9) 1 3
  let w := first + i
  return { l with st := l.st.modGrove x.tgt (fun v => { v with
    istore := mput 0 v.istore w (wordOf (numAt p.bytes o 9)), imark := mput 0 v.imark w (BitVec.ofNat 2 mark)
    iecc := mdel v.iecc w }) }

/-- PROGRAM (R434). -/
def Load.program (p : Parse) (x : Sect) (l : Load) : Loading := do
  let first ← l.field p x x.off 8 0x3FFF
  (upto x.nwords).foldlM (Load.progWord p x first) l

/-- ENGINE: store word i of a port (R434). -/
def Load.engineWord (p : Parse) (x : Sect) (l : Load) (i : Nat) : Loading := do
  let v ← l.field p x (x.off + 4 * i) 4 0xFFFFFF
  return { l with st := l.st.modPort x.tgt (fun q => { q with store := mput 0 q.store i (BitVec.ofNat 24 v) }) }

/-- INIT: entry i (R434); step 11 uses the list. -/
def Load.initEntry (p : Parse) (x : Sect) (l : Load) (i : Nat) : Loading := do
  let v ← l.field p x (x.off + 2 * i) 2 0x1FF
  return { l with st := l.st.modStart (fun t => { t with inits := t.inits ++ [(x.tgt, v)] }) }

/-- The island that a section targets. -/
def Sect.island (x : Sect) : Nat :=
  match x.typ with
  | 1 => x.tgt
  | 4 => 6 + x.tgt / 32
  | 5 => 4
  | 6 => 5
  | _ => 10 + x.tgt

/-- A section is applied: skipped when its island is not ON, or for a port that R145 keeps (R441). -/
def Load.apply (p : Parse) (stopped : Bool) (l : Load) (x : Sect) : Loading :=
  if !knownType x.typ || !l.on x.island then .ok l
  else match x.typ with
    | 2 => (upto 640).foldlM (Load.slotWord p x) l
    | 3 => Load.program p x l
    | 4 => if p.keep.contains x.tgt then .ok l else (upto 48).foldlM (Load.engineWord p x) l
    | 5 =>
      let t : TblSect := { idx := x.idx, tbl := x.tgt, off := x.off, len := x.len, dig := BitVec.ofNat 256 x.dig,
                           bytes := if stopped then [] else x.bytes p.bytes }
      .ok { l with st := l.st.modStart (fun v => { v with tables := v.tables ++ [t] }) }
    | 7 => (upto (x.len / 2)).foldlM (Load.initEntry p x) l
    | _ => Load.items p x l

/-- One section of step 7: after a read that stopped it is first read from NVM and its digest checked (R441). -/
def Load.sect (p : Parse) (stopped : Bool) (l : Load) (x : Sect) : Loading :=
  if stopped && x.typ ≠ 5 then
    let l := { l with st := l.st.nvmRead x.off x.len }
    if x.digestOk p.bytes then l.apply p stopped x else .error ({ code := 0x23, off := some x.off, sect := some x.idx }, l.st)
  else l.apply p stopped x

/-- The sections in the order of step 7: those of island 0 first (R441). -/
def loadOrder (b : List Byte) : List Sect :=
  let first (x : Sect) : Bool := x.typ = 1 && x.tgt = 0
  (sections b).filter first ++ (sections b).filter (fun x => !first x)

/-! ## The configuration checks (R441) -/

/-- A configuration rule is broken. -/
def ruleFail (rule island : Nat) : Fail := { code := 0x31, unit := island, detail := rule % 256 }

/-- R36: RESV of all ports, and RESV against LIMIT. -/
def State.okR36 (s : State) : Bool :=
  let cfg (p : Nat) : BitVec 32 := s.reg (0x83000 + 16 * p)
  (upto 128).foldl (fun a p => a + fld (cfg p) 0 12) 0 ≤ cellCount && (upto 128).all (fun p => fld (cfg p) 0 12 ≤ fld (cfg p) 12 16)

/-- R154: no thread is named in two neighbouring TIMED slots of the core's table. -/
def State.okR154 (s : State) (k : Nat) : Bool := slotTableOk (s.core k).slotAct

/-- R260: no thread has SVS 1 with TCEIL 0. -/
def State.okR260 (s : State) (g : Nat) : Bool := s.threads.all (fun e => thG e.1 ≠ g || !bit e.2.thcfgA 11 || e.2.tceilA)

/-- R371: RECBASE is a multiple of 4,096, the region lies in external memory and overlaps no enabled table. -/
def State.okR371 (s : State) : Bool :=
  s.recBase % 4096 = 0 && (s.nrec = 0 || s.recBase + 2 * s.nrec ≤ 2 ^ 39 &&
    (upto 64).all (fun t => !s.tblEn t || s.tblBase t + 4 * s.tblPositions t ≤ s.recBase || s.recBase + 2 * s.nrec ≤ s.tblBase t))

/-- The first grove that breaks a condition, as its failure. -/
def groveFail (rule : Nat) (ok : Nat → Bool) : Option Fail := ((upto 8).find? (fun g => !ok g)).map (fun g => ruleFail rule (10 + g))

/-- A store word holds an extension instruction: a long one with an opcode from 0x70 to 0x7F (R190, R201). -/
def extWord (w : Word) (mark : BitVec 2) : Bool :=
  (upto 2).any (fun h => bit mark h && 0x70 ≤ fld w (36 * h + 25) 7)

/-- R10: the first grove without an extension unit whose instruction store holds an extension program. -/
def State.extProgram (s : State) : Option Nat :=
  (upto 8).find? (fun g => !s.xPresent g && (s.grove g).imark.any (fun e => extWord (mget 0 (s.grove g).istore e.1) e.2))

/-- R10: the island of a resource that the image uses and the block has not. -/
def State.absentUse (s : State) (absent : SMap Nat) : Option Nat :=
  (absent.head?.map (·.2)).orElse (fun _ => s.extProgram.map (10 + ·))

/-- The first configuration rule that the image breaks, in the order of R441. -/
def State.configFail (s : State) (absent : SMap Nat) : Option Fail :=
  let top := fld (s.reg 0xC0004) 0 13 * 2 ^ 26
  let past (t : Nat) : Bool := s.tblEn t && s.tblBase t + 4 * s.tblPositions t > top
  ((s.absentUse absent).map (fun i => ({ code := 0x30, unit := i, detail := 10 } : Fail)))
    |>.orElse (fun _ => if s.okR36 then none else some (ruleFail 36 3))
    |>.orElse (fun _ => groveFail 49 (fun g => s.capacity g ≤ 2048))
    |>.orElse (fun _ => if s.qlimSum ≤ 131072 then none else some (ruleFail 75 3))
    |>.orElse (fun _ => if (upto 16).all (fun r => !s.ringEn r || s.ringOk r (s.reg (aRing r))) then none else some (ruleFail 89 0))
    |>.orElse (fun _ => groveFail 154 (fun g => (upto 32).all (fun c => s.okR154 (coreKey g c))))
    |>.orElse (fun _ => groveFail 260 s.okR260)
    |>.orElse (fun _ => groveFail 267 (fun g => !s.hasShare (s.recovery g)))
    |>.orElse (fun _ => if (upto 64).all (fun t => !s.tblEn t || s.tblOk t) then none else some (ruleFail 321 4))
    |>.orElse (fun _ => if s.okR371 then none else some (ruleFail 371 5))
    |>.orElse (fun _ =>
      if (upto 64).any past then some (ruleFail 397 4)
      else if s.nrec ≠ 0 && s.recBase + 2 * s.nrec > top then some (ruleFail 397 5)
      else none)

end Sys2Proof.Machine
end

