-- ==== Sys2Proof/Machine/Start.lean ====
section
/-!
DEFINITION. The start sequence (R427 to R450): power-on, the reset input, the steps of an attempt up to step 7, which run with the
start reset, and the steps that wait for something outside: memory, time, the groves.
-/
namespace Sys2Proof.Machine

/-! ## Power and reset input -/

/-- The block as power-on leaves it: the outside's levels, the ties and the queue are not the block's to reset. -/
def State.powered (s : State) (phase : Phase) : State :=
  { State.reset with
    pending := s.pending, ties := s.ties, freeCtr := s.freeCtr
    ports := s.ports.foldl (fun a e => mput {} a e.1 { pinIn := e.2.pinIn }) []
    mems := s.mems.foldl (fun a e => mput {} a e.1 { ready := e.2.ready }) []
    memRet := s.memRet
    start := { phase := phase, srstLow := s.start.srstLow } }

/-- SRST_N falls: islands 1 to 17 are held in start reset, and a start that runs is abandoned; while PWRGOOD is low only the level
is seen (R428, R458). -/
def State.srstAssert (s : State) : State :=
  let s := s.modStart (fun v => { v with srstLow := true })
  match s.start.phase with
  | .off | .srst => s
  | _ => (s.requestStart.startReset).modStart (fun v => { v with phase := .srst, step := 1 })

/-- SRST_N rises: a new start with attempt 0 (R428, R458). -/
def State.srstRelease (s : State) : State :=
  let s := s.modStart (fun v => { v with srstLow := false })
  if s.start.phase = .srst then s.requestStart else s

/-- The back-off has passed: the next attempt; the other slot after a failure in step 5 or 6 with ALTEN (R429, R447). -/
def State.retry (s : State) : State :=
  if s.start.phase = .backoff && s.start.since + s.backoffCycles ≤ s.hw then
    s.modStart (fun v => { v with
      phase := .due, attempt := v.attempt + 1
      slot := if s.ties.alten && (v.failed = 5 || v.failed = 6) then !v.slot else v.slot })
  else s

/-! ## Steps 1 to 4 -/

/-- A start finds an uncorrectable error in the retention store (R424, R503). -/
def State.storeBad (s : State) (env : StartEnv) : Bool := env.storeUe || s.start.marks.any (fun e => e.2 = 2)

/-- The start reset and step 1: an uncorrectable error of the retention store loses what it held and counts in ECCUNCA; the recorder,
which the reset has turned OFF, writes no ECCU (R424, R503, R504); the first attempt clears the failure
registers; a warm start has the recorder's place at hand (R376, R423). -/
def State.attemptBegin (s : State) (env : StartEnv) : State :=
  let s := s.startReset
  let s := if s.storeBad env then
      ((s.eccEvent 0 0 0 0).orReg 0x14004 0x100000).modStart (fun v => { v with
        digok := false, retSlot := false, retImgid := 0, retSeed := none, retRegion := none, retPtr := 0, retRd := 0,
        retCommit := 0, retCtick := 0, held := [], marks := v.marks.filter (fun e => e.2 ≠ 2) })
    else s
  let s := s.modStart (fun v =>
    if v.attempt = 0 then { v with step := 1, fcode := 0, fail0 := 0, sect := 0xFFFF, unit := 0, detail := 0 } else { v with step := 1 })
  let v := s.start
  let s := if v.warm then
      { s with recd := { s.recd with ptr := v.retPtr, rd := v.retRd, commit := v.retCommit, ctick := v.retCtick } }
    else s
  s.startEvent 1 0 0

/-- Step 2 begins: HOST_FATAL of SAFE and of a grove is deasserted, and island 1 answers again after it (R422, R448). -/
def State.step2Begin (s : State) : State :=
  ({ s with mgmt := { s.mgmt with fatalSafe := false, fatalG := 0 } }).modStart (fun v => { v with step := 2 })

/-- The lowest input clock that is lost (R408). -/
def State.lostClock (s : State) : Option Nat := (upto 6).find? (fun i => s.clkGone i)

/-- Step 2 fails: a lost clock, or a link (R408, R411). -/
def State.step2Fail (s : State) (env : StartEnv) : Option Fail :=
  match s.lostClock, env.linkFail with
  | some i, _ => some { code := 0x02, unit := i }
  | none, some (a, b) => some { code := 0x01, unit := b.val, detail := a.val }
  | none, none => none

/-- LINKSTAT shows the first link that failed (R411). -/
def State.noteLink (s : State) (env : StartEnv) : State :=
  match env.linkFail with
  | some (a, b) => s.modStart (fun v => { v with linkFail := some (a.val, b.val) })
  | none => s

/-- Step 3 runs in the first attempt of a cold start, and in a retry after a failure of step 3 (R440). -/
def State.step3Runs (s : State) : Bool := if s.start.attempt = 0 then !s.start.warm else s.start.failed = 3

/-! ## Steps 5 to 7 -/

/-- The image in the slot in use (R429). -/
def State.slotBytes (s : State) (env : StartEnv) : List Byte := if s.start.slot then env.slot1 else env.slot0

/-- The read stops after the section table: the retained digest is that of this image (R440). -/
def State.readStops (s : State) (b : List Byte) : Bool :=
  (s.start.warm || s.start.attempt > 0) && s.start.digok && hdigest b = s.start.digest.toNat && imgDigest b = s.start.digest.toNat

/-- Step 7 of a cold attempt: heartwood fields that the image does not write read 0 (R15, R440, R506). -/
def State.clearHeartImage (s : State) : State :=
  if s.start.warm then s
  else
    let gone := fun a => a = 0x1001C || a = 0x1002C || (0x12000 ≤ a && a < 0x12200 && a % 0x20 < 0x14)
    { s with regs := (s.regs.filter (fun e => !gone e.1)).map (fun e => if e.1 = 0x10028 then (e.1, e.2 &&& 0x80000000) else e)
      |>.filter (fun e => e.2 ≠ 0) }

/-- The header's fields reach their places (R327, R395, R432, R435). -/
def State.takeHeader (s : State) (b : List Byte) : State :=
  (s.modStart (fun v => { v with
    imgid := BitVec.ofNat 64 (numAt b 0x10 8), memseed := BitVec.ofNat 64 (numAt b 0x20 8)
    porten := BitVec.ofNat 128 (numAt b 0x28 16), relaxed := imgRelaxed b })).modLookup
      (fun l => { l with seed := BitVec.ofNat 64 (numAt b 0x18 8) })

/-- A port is started: PORTCTL.EN 1 with its DRAINLIM (R100, R444). -/
def State.startPort (s : State) (p : Nat) : State := s.writePortctl p (s.reg (aPort p) ||| 1)

/-- Rings with EARLY set start their ports and open at the end of step 7, but for those that a warm start kept open (R100). -/
def State.openEarly (s : State) : State :=
  (upto 16).foldl (fun (s : State) r =>
    if s.ringEn r && bit (s.reg (aRing r)) 30 && !(s.ring r).lane then
      ((s.startPort (s.portA r)).startPort (s.portB r)).openLane r
    else s) s

/-- Step 7 (R441): the sections, the checks, the early rings; then step 8 waits. -/
def State.step7 (s : State) (b : List Byte) : State :=
  let s := ((s.modStart (fun v => { v with step := 7 })).clearHeartImage).takeHeader b
  let p : Parse := { bytes := b, relaxed := imgRelaxed b, warm := s.start.warm, keep := s.keptPorts s.keptRings }
  match (loadOrder b).foldlM (Load.sect p s.start.stopped) { st := s, absent := [] } with
  | .error (f, s) => s.startFail 7 f
  | .ok l =>
    match l.st.configFail l.absent with
    | some f => l.st.startFail 7 f
    | none =>
      let s := ((l.st.recActivate).openEarly).startEvent 7 0 0
      s.modStart (fun v => { v with phase := .waitMem, step := 8, since := s.hw })

/-- Step 6 (R438, R439), after a full read. -/
def State.step6 (s : State) (b : List Byte) : State :=
  let s := ((s.nvmPower false).startEvent 5 0 0).modStart (fun v => { v with step := 6 })
  match authFail b s.ties with
  | some f => s.startFail 6 f
  | none =>
    let s := s.modStart (fun v => { v with
      digest := BitVec.ofNat 256 (imgDigest b), digok := true, retSlot := v.slot, retImgid := BitVec.ofNat 64 (numAt b 0x10 8) })
    (s.startEvent 6 0 0).step7 b

/-- The header or the section table is wrong, or the flash gives no strobe in octal mode (R430 to R433). -/
def State.step5Fail (s : State) (env : StartEnv) (b : List Byte) : Option Fail :=
  if s.ties.bootmode = 2 && env.noStrobe then some { code := 0x10 }
  else (headerFail b s.ties.bootmode.toNat).orElse (fun _ => tableFail b)

/-- What step 5 reads: the header; when it passes, a new read from byte 0x100 takes the section table, and goes on to the end of the
image when the table passes and the read does not stop (R430, R440, R468; log entry 102). -/
def State.step5Reads (s : State) (env : StartEnv) (b : List Byte) : State :=
  let s := s.nvmBegin.nvmBoot
  if (s.ties.bootmode = 2 && env.noStrobe) || (headerFail b s.ties.bootmode.toNat).isSome then s
  else
    let s := { s with nvm := { s.nvm with cfg := imgNvmcfg b } }
    s.nvmRead 0x100 (if (tableFail b).isSome || s.readStops b then 48 * imgNsect b else imgLen b - 0x100)

/-- Step 5 (R440); with RELAXED 1 it sets RSVDIGN (R436). -/
def State.step5 (s : State) (env : StartEnv) : State :=
  let b := s.slotBytes env
  let s := (s.modStart (fun v => { v with step := 5 })).step5Reads env b
  match s.step5Fail env b with
  | some f => s.startFail 5 f
  | none =>
    let s := if imgRelaxed b then s.orReg 0x14004 0x400000 else s
    if s.readStops b then
      (((s.modStart (fun v => { v with stopped := true })).startEvent 5 1 0).startEvent 6 1 0).step7 b
    else match programFail b with
      | some f => s.startFail 5 f
      | none => s.step6 b

/-- START_RESET: the start reset and the steps that need nothing further from outside (R440). -/
def State.runStart (s : State) (env : StartEnv) : State :=
  if s.start.phase ≠ .due then s
  else
    let s := (s.attemptBegin env).step2Begin
    match s.step2Fail env with
    | some f => (s.noteLink env).startFail 2 f
    | none =>
      let s := (s.startEvent 2 0 0).modStart (fun v => { v with step := 3 })
      match (if s.step3Runs then env.sramFail else none) with
      | some i => s.startFail 3 { code := 0x03, unit := i.val }
      | none =>
        let s := (s.startEvent 3 (if s.step3Runs then 0 else 1) 0).modStart (fun v => { v with step := 4 })
        ((s.startEvent 4 0 0).step5 env).nvmPower false

/-! ## Step 8 -/

/-- Every memory port present shows MEM_READY 1 (R442). -/
def State.notReady (s : State) : Option Nat := (upto s.ties.memports).find? (fun p => !(s.mem p).ready || s.clkGone 1)

/-- The values that R396 names match the retained ones. -/
def State.seedsMatch (s : State) : Bool := s.start.retSeed = some s.start.memseed && s.start.retPorts = s.ties.memports

/-- The recorder continues the region, with the records that were staged counted lost, or begins it anew (R376); RECCTICK is kept in
every warm start (R388). -/
def State.recResume (s : State) (retained : Bool) : State :=
  let v := s.start
  let s :=
    if v.warm && retained && s.seedsMatch && v.retRegion = some (s.recBase, s.nrec) then
      ((s.count 0xE0060 v.lostP).count 0xE0068 v.lostC).modRec (fun r => { r with
        lostP := r.lostP + v.lostP, lostC := r.lostC + v.lostC, lossDue := true })
    else s.modRec (fun r => { r with ptr := 0, rd := 0, commit := 0 })
  (s.modRec (fun r => { r with live := true })).modStart (fun v => { v with lostP := 0, lostC := 0 })

/-- Step 8 passes: the values retained, MEMRET, the recorder's place, and the held events (R396, R442, R450). -/
def State.step8Pass (s : State) (retained : Bool) : State :=
  let v := s.start
  let keep : Bool := v.warm && retained && s.seedsMatch && v.stopped && !v.memFailed
  let s := { s.recResume retained with memRet := retained }
  let s := s.modStart (fun v => { v with memret := keep, retSeed := some v.memseed, retPorts := s.ties.memports })
  (s.startEvent 8 0 0).writeHeld

/-! ## Step 9 -/

/-- The command slot of the table load. -/
def loadKey : Nat := 146

/-- An entry from its four words, when VALID is 1 (R324). -/
def entryOf (e0 e1 e2 e3 : Word) : Option Entry :=
  if bit e3 71 then
    some { keyl := e0, keyh := e1, result := e2, static := bit e3 70, plen := fld e3 62 8, user := BitVec.ofNat 16 (fld e3 32 16)
           lasthit := BitVec.ofNat 32 (fld e3 0 32) }
  else none

/-- The contents of a table of which the block does not know what memory holds: free values. -/
def freeTable (v n : Nat) : SMap Entry :=
  (upto n).filterMap (fun i =>
    (entryOf (Config.freeWord v (4 * i)) (Config.freeWord v (4 * i + 1)) (Config.freeWord v (4 * i + 2))
      (Config.freeWord v (4 * i + 3))).map (fun e => (i, e)))

/-- Memory counts as retained: each enabled table is what memory held, its filters rebuilt, and nothing is inserted. Every position is
read, for the cache, the filters and ENTRIES (R350; log entry 100). -/
def State.tableResume (s : State) (t : Nat) : State :=
  if !s.tblEn t then s
  else
    let (slots, s) := match mfind s.start.retTables t with
      | some (base, sz, m) =>
        if base = s.tblBase t && sz = s.tblSz t then (m, s) else (let r := s.fresh; (freeTable r.1 (s.tblPositions t), r.2))
      | none => (let r := s.fresh; (freeTable r.1 (s.tblPositions t), r.2))
    let s := s.countTable t false 4
    (s.setTbl t { slots := slots }).rebuildFilters t

/-- A write of the table load: the entry and its filter bits. -/
def State.loadWrite (s : State) (t : Nat) (w : LkWrite) : State :=
  match w.entry with
  | some e =>
    (((s.modTbl t (fun v => { v with slots := mins v.slots w.pos e })).addFilter t e).cacheIn t w.pos).countSlot t w.pos true
  | none => s.modTbl t (fun v => { v with slots := mdel v.slots w.pos })

/-- INSERT of one record into table t, with its result code (R337, R350). -/
def State.loadInsert (s : State) (t : Nat) (c : Cmd) : Nat × State :=
  let s := s.setCmd loadKey { c with busy := true, op := 1, table := BitVec.ofNat 8 t, live := s.tblEn t, full := true }
  let c := s.cmd loadKey
  let s := if !c.live then s.cmdRan loadKey 4 [] else if s.badKey t c then s.cmdRan loadKey 5 [] else s.cmdInsert loadKey t c
  let c := s.cmd loadKey
  let s := (c.plan.foldl (fun (s : State) w => s.loadWrite t w) s).setCmd loadKey {}
  (c.rcN.toNat, if c.rcN = 0 then s.tblCount t 2 else s)

/-- Record i of a TABLE section (R434, R436). -/
def State.loadRecord (b : List Byte) (relaxed : Bool) (x : TblSect) (s : State) (i : Nat) : Except (Fail × State) State :=
  let o := 40 * i
  let word (k : Nat) : Word := wordOf (numAt b (o + 9 * k) 9)
  let bad (at' : Nat) : Fail := { code := 0x32, off := some (x.off + at'), sect := some x.idx }
  if !relaxed && fld (word 3) 48 14 ≠ 0 then .error (bad (o + 27), s)
  else if !relaxed && numAt b (o + 36) 4 ≠ 0 then .error (bad (o + 36), s)
  else
    let r := s.loadInsert x.tbl { keyl := word 0, keyh := word 1, res := word 2, ent := word 3 }
    if r.1 = 0 then .ok r.2
    else .error ({ code := 0x50, unit := x.tbl, detail := r.1, off := some (x.off + o), sect := some x.idx }, r.2)

/-- A part of the table load: the clear, the reload or the check of one table, or one record. -/
abbrev LoadUnit := State → Except (Fail × State) State

/-- The units of a TABLE section: from the staged copy, or from the flash with its digest checked first (R442). -/
def State.loadTable (s : State) (nvm : List Byte) (x : TblSect) : List LoadUnit :=
  let b := if s.start.stopped then bytesAt nvm x.off x.len else x.bytes
  let check : LoadUnit := fun s =>
    let s := if s.start.stopped then s.nvmRead x.off x.len else s
    if s.start.stopped && sha256 b ≠ x.dig.toNat then .error ({ code := 0x23, off := some x.off, sect := some x.idx }, s) else .ok s
  check :: (upto (x.len / 40)).map (fun i s => State.loadRecord b s.start.relaxed x s i)

/-- Table t is cleared: a word of every position is written (R350, R406; log entry 100). -/
def State.clearLoad (t : Nat) (s : State) : Except (Fail × State) State := .ok ((s.tblEmpty t).countTable t true 1)

/-- The table load of step 9, in order: each enabled table reloaded when memory counts as retained; otherwise each cleared, and then the
records of the image inserted (R350, R442). -/
def State.loadUnits (s : State) (nvm : List Byte) : List LoadUnit :=
  let on := (upto 64).filter (fun t => s.tblEn t)
  if s.start.memret then on.map (fun t s => .ok (s.tableResume t))
  else on.map State.clearLoad ++ s.start.tables.flatMap (fun x => s.loadTable nvm x)

/-- Units of the table load, one after the other. -/
def State.runLoad (s : State) (us : List LoadUnit) : Except (Fail × State) State := us.foldlM (fun s u => u s) s

/-- Step 11 begins (R443). -/
def State.beginInit (s : State) : State := s.modStart (fun v => { v with phase := .init0, step := 11, since := s.hw })

/-- Step 9 passes; step 10 is skipped when ACQ is 1 (R440). -/
def State.step9Pass (s : State) : State :=
  let s := (s.modLookup (fun l => { l with ready := true })).startEvent 9 0 0
  if s.time.acq then (s.startEvent 10 1 0).beginInit
  else s.modStart (fun v => { v with phase := .waitTime, step := 10, since := s.hw })

/-- The line of four words on port p among the neighbouring lines that one of them lies in (R395). -/
def State.lineOn (s : State) (p line : Nat) : Nat :=
  let n := max s.ties.memports 1
  line / n * n + (p + n * 65536 - s.memHash (line / n)) % n

/-- A word of a table that lies on port p: which table, which slot and which of its words is a free value. -/
def State.loadWordAt (s : State) (p v : Nat) : Nat :=
  let t := pickFrom ((upto 64).filter (fun t => s.tblEn t)) v 0
  let n := max s.ties.memports 1
  let first := s.tblBase t / 4
  let line := first + v / 64 % s.tblPositions t
  let l := s.lineOn p line
  let l := if l < first then s.lineOn p (line + n) else if first + s.tblPositions t ≤ l then s.lineOn p (line - n) else l
  4 * l + v / 2 ^ 40 % 4

/-- A request of the table load has failed at port p: a timeout after its transfer, whose tag is quarantined, a timeout before it, or an
answer with ERR. Which of these, whether it is a read or a write, and the fields of its event are free values, since the command names the
port alone; a reload only reads (R350, R401, R402, R406; log entry 101). -/
def State.loadFail (s : State) (p : Nat) : State :=
  let (n, s) := s.fresh
  let (m, s) := s.fresh
  let v := Config.freeField n
  let write := !s.start.memret && v / 3 % 2 = 1
  let q : MReq := { cls := 0, write := write, ea := s.loadWordAt p (Config.freeField m), mask := 0xFF, data := 0, src := .cmd loadKey,
                    since := 0 }
  let tag := v / 6 % 512
  let sent := s.count (aMem p + if write then 0x48 else 0x40)
  let out (s : State) : State := ((s.mpstat p 30).count (aMem p + 0x50)).memEvent p 0 write tag 0 (some q.ea)
  match v % 3 with
  | 0 => (out sent).modMem p (fun m => { m with quar := mins m.quar tag q })
  | 1 => out s
  | _ => sent.memErr p tag q

/-- The unit of the table load in which a request fails has made a part of its transfers: how many at each port is a free value (R406; log
entry 101). -/
def State.partLoad (s : State) (u : LoadUnit) : State :=
  let whole := match u s with | .ok s => s | .error e => e.2
  let (n, s) := s.fresh
  (upto 12).foldl (fun (s : State) p => [0x40, 0x48].foldl (fun (s : State) o =>
    let d := ((mget 0 whole.ctrs (aMem p + o)) - (mget 0 s.ctrs (aMem p + o))).toNat
    s.count (aMem p + o) ((Config.freeWord n (aMem p + o)).toNat % (d + 1))) s) s

/-- A port fails during the table load, in a unit that is a free value: those before it are complete, and the step fails (R442, R446; log
entry 101). -/
def State.loadBroken (s : State) (us : List LoadUnit) (p : Nat) : State :=
  let (n, s) := s.fresh
  let k := Config.freeField n % max us.length 1
  match s.runLoad (us.take k) with
  | .error (f, s) => s.startFail 9 f
  | .ok s =>
    let s := match us[k]? with | some u => s.partLoad u | none => s
    (s.loadFail p).startFail 9 { code := 0x51, unit := p }

/-- Step 9: the tables are loaded; a port that fails while a table is in use fails the step, and a port that the block does not have
cannot (R7, R442). -/
def State.step9 (s : State) (nvm : List Byte) (fail : Option (Fin 12)) : State :=
  let s := s.modStart (fun v => { v with step := 9 })
  let us := s.loadUnits nvm
  match fail with
  | some p =>
    if p.val < s.ties.memports && (upto 64).any (fun t => s.tblEn t) then s.loadBroken us p.val
    else match s.runLoad us with | .error (f, s) => s.startFail 9 f | .ok s => s.step9Pass
  | none => match s.runLoad us with | .error (f, s) => s.startFail 9 f | .ok s => s.step9Pass

/-- MEMORY_STEP: step 8 passes when every memory port is ready, and step 9 follows (R442). -/
def State.memoryStep (s : State) (nvm : List Byte) (retained : Bool) (fail : Option (Fin 12)) : State :=
  if s.start.phase ≠ .waitMem || s.notReady.isSome then s else ((s.step8Pass retained).step9 nvm fail).nvmPower false

/-- A limit of the start in milliseconds, 0 acting as 1, has passed since its step began (R452). -/
def State.limitPassed (s : State) (ms : Nat) : Bool := s.start.since + max 1 ms * 200000 ≤ s.hw

/-- MEMORY_STEP_TIMEOUT (R442, R446). -/
def State.memoryTimeout (s : State) : State :=
  match s.notReady with
  | some p =>
    if s.start.phase = .waitMem && s.limitPassed (fld (s.reg 0x14010) 16 16) then s.startFail 8 { code := 0x40, unit := p } else s
  | none => s

/-! ## Step 10 -/

/-- A PPS edge has come since step 10 began. -/
def State.edgeSeen (s : State) : Bool := match s.time.ppsAt with | some h => s.start.since ≤ h | none => false

/-- TIME_ACQUISITION: at the first edge, or at once with PPSEN 0 (R363). -/
def State.timeStep10 (s : State) : State :=
  if s.start.phase ≠ .waitTime then s
  else if !bit s.timectl 30 then (s.acquireFree.startEvent 10 0 0).beginInit
  else if s.edgeSeen then (s.acquirePps.startEvent 10 0 0).beginInit
  else s

/-- ACQUISITION_TIMEOUT: PPSTMO ms without an edge (R363). -/
def State.timeTimeout (s : State) : State :=
  let late : Bool := s.start.since + fld (s.reg 0x1002C) 0 16 * 200000 ≤ s.hw
  if s.start.phase = .waitTime && bit s.timectl 30 && !s.edgeSeen && late then (s.acquireFree.startEvent 10 0 0).beginInit else s

/-! ## Steps 11 and 12 -/

/-- The first grove that is ON and meets a condition. -/
def State.findGrove (s : State) (f : Nat → Bool) : Option Nat := (upto 8).find? (fun g => s.groveOn g && f g)

/-- The INIT threads start and every core is asked for service mode (R443). -/
def State.initBegin (s : State) : State :=
  let s := s.start.inits.foldl (fun (s : State) e => if s.groveOn e.1 then s.startThread (512 * e.1 + e.2) else s) s
  let s := (upto 8).foldl (fun (s : State) g =>
    if s.groveOn g then (upto 32).foldl (fun (s : State) c => s.requestService g c) s else s) s
  s.modStart (fun v => { v with phase := .init1 })

/-- GMASK of each ON grove with every core in service mode (R176). -/
def State.initMask (s : State) : State :=
  (upto 8).foldl (fun (s : State) g =>
    if s.groveOn g && (upto 32).all (fun c => (s.core (coreKey g c)).service) then s.orReg 0x80000 (BitVec.ofNat 32 (2 ^ (16 + g)))
    else s) s

/-- A grove that is ON has not its GMASK bit yet (R443). -/
def State.initOpen (s : State) : Option Nat := s.findGrove (fun g => !bit (s.reg 0x80000) (16 + g))

/-- Admission begins: what INE engines wrote before is discarded, an open frame up to its end (R135). -/
def State.dispRise (s : State) : State :=
  let dead : Frame := { cells := [], nwords := 0, its := 0, last := 0, dead := true }
  (s.ports.map (·.1)).foldl (fun (s : State) p =>
    ({ s with links := mdel s.links p }).modPort p (fun q => { q with frame := if q.inOpen then some dead else none })) s

/-- Step 12 (R444): the ports of PORTEN, the other rings, DISPCTL.EN; the start is complete. -/
def State.step12 (s : State) : State :=
  let s := s.modStart (fun v => { v with step := 12 })
  let s := (upto 128).foldl (fun (s : State) p =>
    if bit s.start.porten p && s.islandUp (6 + p / 32) && (s.port p).st ≠ .up then s.startPort p else s) s
  let s := (upto 16).foldl (fun (s : State) r => if s.ringEn r && !(s.ring r).lane then s.openLane r else s) s
  let s := ((s.orReg 0x80000 1).dispRise).orReg 0x2000C 1
  let s := s.modStart (fun v => { v with phase := .service, completed := true, lastSlot := v.slot, isDone := true })
  (s.startEvent 12 0 0).ringsAttach

/-- INITIALISATION: step 11 begins, or it looks whether the groves are ready and ends (R443). -/
def State.initStep (s : State) : State :=
  let fatal := s.findGrove (fun g => (s.grove g).fatal)
  match s.start.phase, fatal with
  | .init0, some g => s.startFail 11 { code := 0x72, unit := g }
  | .init1, some g => s.startFail 11 { code := 0x72, unit := g }
  | .init0, none => s.initBegin
  | .init1, none =>
    let s := s.initMask
    if s.initOpen.isNone then (s.startEvent 11 0 0).step12 else s
  | _, _ => s

/-- INITIALISATION_TIMEOUT (R443, R446). -/
def State.initTimeout (s : State) : State :=
  match s.initOpen with
  | some g =>
    if (s.start.phase = .init0 || s.start.phase = .init1) && s.limitPassed (fld (s.reg 0x14010) 0 16) then
      s.startFail 11 { code := 0x70, unit := g }
    else s
  | none => s

/-! ## One meaning for each event -/

/-- POWER_ON: PWRGOOD rises; with SRST_N low the cold start waits for its release (R427, R440, R458). -/
def execPowerOn (s : State) : Host.Outcome State Fault Refusal :=
  .next (if s.start.phase = .off then s.powered (if s.start.srstLow then .srst else .due) else s)
/-- PWRGOOD_FALL: the whole block is in power-on reset (R457). -/
def execPwrgoodFall (s : State) : Host.Outcome State Fault Refusal := .next (s.powered .off)
def execSrstAssert (s : State) : Host.Outcome State Fault Refusal := .next s.srstAssert
def execSrstRelease (s : State) : Host.Outcome State Fault Refusal := .next s.srstRelease
def execStartReset (env : StartEnv) (s : State) : Host.Outcome State Fault Refusal := .next (s.runStart env)
def execMemoryStep (nvm : List Byte) (retained : Bool) (fail : Option (Fin 12)) (s : State) : Host.Outcome State Fault Refusal :=
  .next (s.memoryStep nvm retained fail)
def execMemoryStepTimeout (s : State) : Host.Outcome State Fault Refusal := .next s.memoryTimeout
def execTimeAcquisition (s : State) : Host.Outcome State Fault Refusal := .next s.timeStep10
def execAcquisitionTimeout (s : State) : Host.Outcome State Fault Refusal := .next s.timeTimeout
def execInitialisation (s : State) : Host.Outcome State Fault Refusal := .next s.initStep
def execInitialisationTimeout (s : State) : Host.Outcome State Fault Refusal := .next s.initTimeout
def execRetryBackoffExpiry (s : State) : Host.Outcome State Fault Refusal := .next s.retry

end Sys2Proof.Machine
end

