-- ==== Sys2Proof/Machine/Dispatch.lean ====
section
/-!
DEFINITION. The meaning of each command: one arm per constructor of Instr, each one direct call.
-/
namespace Sys2Proof.Machine

/-- The effect of a command on everything but the queue. -/
def exec (i : Instr) (s : State) : Host.Outcome State Fault Refusal :=
  match i with
  | .powerOn => Sys2Proof.Machine.execPowerOn s
  | .srstAssert => Sys2Proof.Machine.execSrstAssert s
  | .srstRelease => Sys2Proof.Machine.execSrstRelease s
  | .startcmdGo src d => Sys2Proof.Machine.execStartcmdGo src d s
  | .startReset env => Sys2Proof.Machine.execStartReset env s
  | .memoryStep nvm retained fail => Sys2Proof.Machine.execMemoryStep nvm retained fail s
  | .memoryStepTimeout => Sys2Proof.Machine.execMemoryStepTimeout s
  | .timeAcquisition => Sys2Proof.Machine.execTimeAcquisition s
  | .acquisitionTimeout => Sys2Proof.Machine.execAcquisitionTimeout s
  | .initialisation => Sys2Proof.Machine.execInitialisation s
  | .initialisationTimeout => Sys2Proof.Machine.execInitialisationTimeout s
  | .retryBackoffExpiry => Sys2Proof.Machine.execRetryBackoffExpiry s
  | .initrptWrite src g d => Sys2Proof.Machine.execInitrptWrite src g d s
  | .llynonWordDelivery path => Sys2Proof.Machine.execLlynonWordDelivery path s
  | .canopyTick => Sys2Proof.Machine.execCanopyTick s
  | .ingressWord p => Sys2Proof.Machine.execIngressWord p s
  | .frameEnd p => Sys2Proof.Machine.execFrameEnd p s
  | .sequenceAssignment => Sys2Proof.Machine.execSequenceAssignment s
  | .descriptorIssue => Sys2Proof.Machine.execDescriptorIssue s
  | .groveCreditReturn g => Sys2Proof.Machine.execGroveCreditReturn g s
  | .descriptorArrival g => Sys2Proof.Machine.execDescriptorArrival g s
  | .completionAccept g => Sys2Proof.Machine.execCompletionAccept g s
  | .retirement => Sys2Proof.Machine.execRetirement s
  | .holtTimeout d => Sys2Proof.Machine.execHoltTimeout d s
  | .dabandon src g d => Sys2Proof.Machine.execDabandon src g d s
  | .abandonCompletionEntry g => Sys2Proof.Machine.execAbandonCompletionEntry g s
  | .dommapWrite src p h d => Sys2Proof.Machine.execDommapWrite src p h d s
  | .bufcfgWrite src p d => Sys2Proof.Machine.execBufcfgWrite src p d s
  | .shareWrite src g r d => Sys2Proof.Machine.execShareWrite src g r d s
  | .infpeakRead src => Sys2Proof.Machine.execInfpeakRead src s
  | .copySelect p => Sys2Proof.Machine.execCopySelect p s
  | .pauseLimitExpiry p c => Sys2Proof.Machine.execPauseLimitExpiry p c s
  | .gateEntryChange p => Sys2Proof.Machine.execGateEntryChange p s
  | .glswap src d => Sys2Proof.Machine.execGlswap src d s
  | .gateBankSwap p => Sys2Proof.Machine.execGateBankSwap p s
  | .gateListWrite src r d => Sys2Proof.Machine.execGateListWrite src r d s
  | .etsqRead src p => Sys2Proof.Machine.execEtsqRead src p s
  | .portEnableWrite src p d => Sys2Proof.Machine.execPortEnableWrite src p d s
  | .portUp p => Sys2Proof.Machine.execPortUp p s
  | .drainFlush p => Sys2Proof.Machine.execDrainFlush p s
  | .drainComplete p => Sys2Proof.Machine.execDrainComplete p s
  | .expressFrame p words => Sys2Proof.Machine.execExpressFrame p words s
  | .duplicateDiscardRequest r => Sys2Proof.Machine.execDuplicateDiscardRequest r s
  | .ringcfgWrite src r d => Sys2Proof.Machine.execRingcfgWrite src r d s
  | .rxWord p w => Sys2Proof.Machine.execRxWord p w s
  | .pinEdge p pin level => Sys2Proof.Machine.execPinEdge p pin level s
  | .txTransferSlot p => Sys2Proof.Machine.execTxTransferSlot p s
  | .engineMov p e => Sys2Proof.Machine.execEngineMov p e s
  | .shin p e => Sys2Proof.Machine.execShin p e s
  | .shout p e => Sys2Proof.Machine.execShout p e s
  | .wait p e => Sys2Proof.Machine.execWait p e s
  | .jmp p e => Sys2Proof.Machine.execJmp p e s
  | .setp p e => Sys2Proof.Machine.execSetp p e s
  | .enginePush p e => Sys2Proof.Machine.execEnginePush p e s
  | .pull p e => Sys2Proof.Machine.execPull p e s
  | .cnt p e => Sys2Proof.Machine.execCnt p e s
  | .mark p e => Sys2Proof.Machine.execMark p e s
  | .engineReservedFetch p e => Sys2Proof.Machine.execEngineReservedFetch p e s
  | .engineSignal g => Sys2Proof.Machine.execEngineSignal g s
  | .engineHalt src p e d => Sys2Proof.Machine.execEngineHalt src p e d s
  | .engineFlush src p e d => Sys2Proof.Machine.execEngineFlush src p e d s
  | .engineResume src p e d => Sys2Proof.Machine.execEngineResume src p e d s
  | .ectlWrite src p e d => Sys2Proof.Machine.execEctlWrite src p e d s
  | .estatWrite src p e d => Sys2Proof.Machine.execEstatWrite src p e d s
  | .engineStateWrite src p e r d => Sys2Proof.Machine.execEngineStateWrite src p e r d s
  | .pullqWrite src p e d => Sys2Proof.Machine.execPullqWrite src p e d s
  | .pushqRead src p e => Sys2Proof.Machine.execPushqRead src p e s
  | .engineStoreWrite src p w d => Sys2Proof.Machine.execEngineStoreWrite src p w d s
  | .pecfgWrite src p d => Sys2Proof.Machine.execPecfgWrite src p d s
  | .slotTableActivate g c => Sys2Proof.Machine.execSlotTableActivate g c s
  | .syncRegisterWrite src g c r d => Sys2Proof.Machine.execSyncRegisterWrite src g c r d s
  | .coresyncCore src g c => Sys2Proof.Machine.execCoresyncCore src g c s
  | .coresyncThreads src g c threads => Sys2Proof.Machine.execCoresyncThreads src g c threads s
  | .loadDataReturn th => Sys2Proof.Machine.execLoadDataReturn th s
  | .storeBufferDrain th other => Sys2Proof.Machine.execStoreBufferDrain th other s
  | .storeAcceptance th => Sys2Proof.Machine.execStoreAcceptance th s
  | .storeTimeout th => Sys2Proof.Machine.execStoreTimeout th s
  | .loadTimeout th => Sys2Proof.Machine.execLoadTimeout th s
  | .packetWindowRequest g => Sys2Proof.Machine.execPacketWindowRequest g s
  | .thcmdStart src th => Sys2Proof.Machine.execThcmdStart src th s
  | .thcmdPark src th => Sys2Proof.Machine.execThcmdPark src th s
  | .thpcWrite src th d => Sys2Proof.Machine.execThpcWrite src th d s
  | .serviceModeRequest src g c => Sys2Proof.Machine.execServiceModeRequest src g c s
  | .serviceModeEntry g c => Sys2Proof.Machine.execServiceModeEntry g c s
  | .maintenanceModeRequest src g c => Sys2Proof.Machine.execMaintenanceModeRequest src g c s
  | .maintenanceModeEntry g c => Sys2Proof.Machine.execMaintenanceModeEntry g c s
  | .istoreCommit src g d => Sys2Proof.Machine.execIstoreCommit src g d s
  | .istoreRead src g => Sys2Proof.Machine.execIstoreRead src g s
  | .nop th => Sys2Proof.Machine.execNop th s
  | .add th => Sys2Proof.Machine.execAdd th s
  | .adc th => Sys2Proof.Machine.execAdc th s
  | .sub th => Sys2Proof.Machine.execSub th s
  | .sbc th => Sys2Proof.Machine.execSbc th s
  | .and th => Sys2Proof.Machine.execAnd th s
  | .or th => Sys2Proof.Machine.execOr th s
  | .xor th => Sys2Proof.Machine.execXor th s
  | .andn th => Sys2Proof.Machine.execAndn th s
  | .shl th => Sys2Proof.Machine.execShl th s
  | .shr th => Sys2Proof.Machine.execShr th s
  | .sar th => Sys2Proof.Machine.execSar th s
  | .rol th => Sys2Proof.Machine.execRol th s
  | .cmp th => Sys2Proof.Machine.execCmp th s
  | .tst th => Sys2Proof.Machine.execTst th s
  | .mul th => Sys2Proof.Machine.execMul th s
  | .mov th => Sys2Proof.Machine.execMov th s
  | .neg th => Sys2Proof.Machine.execNeg th s
  | .addi th => Sys2Proof.Machine.execAddi th s
  | .adci th => Sys2Proof.Machine.execAdci th s
  | .subi th => Sys2Proof.Machine.execSubi th s
  | .sbci th => Sys2Proof.Machine.execSbci th s
  | .andi th => Sys2Proof.Machine.execAndi th s
  | .ori th => Sys2Proof.Machine.execOri th s
  | .xori th => Sys2Proof.Machine.execXori th s
  | .andni th => Sys2Proof.Machine.execAndni th s
  | .shli th => Sys2Proof.Machine.execShli th s
  | .shri th => Sys2Proof.Machine.execShri th s
  | .sari th => Sys2Proof.Machine.execSari th s
  | .roli th => Sys2Proof.Machine.execRoli th s
  | .cmpi th => Sys2Proof.Machine.execCmpi th s
  | .tsti th => Sys2Proof.Machine.execTsti th s
  | .movi th => Sys2Proof.Machine.execMovi th s
  | .insi th => Sys2Proof.Machine.execInsi th s
  | .ext th => Sys2Proof.Machine.execExt th s
  | .ins th => Sys2Proof.Machine.execIns th s
  | .clz th => Sys2Proof.Machine.execClz th s
  | .sel th => Sys2Proof.Machine.execSel th s
  | .pset th => Sys2Proof.Machine.execPset th s
  | .ldw th => Sys2Proof.Machine.execLdw th s
  | .stw th => Sys2Proof.Machine.execStw th s
  | .ld th => Sys2Proof.Machine.execLd th s
  | .st th => Sys2Proof.Machine.execSt th s
  | .stm th => Sys2Proof.Machine.execStm th s
  | .lds th => Sys2Proof.Machine.execLds th s
  | .sts th => Sys2Proof.Machine.execSts th s
  | .push th => Sys2Proof.Machine.execPush th s
  | .pop th => Sys2Proof.Machine.execPop th s
  | .bmov th => Sys2Proof.Machine.execBmov th s
  | .macx th => Sys2Proof.Machine.execMacx th s
  | .macxI th => Sys2Proof.Machine.execMacxI th s
  | .macxC th => Sys2Proof.Machine.execMacxC th s
  | .aadd th => Sys2Proof.Machine.execAadd th s
  | .aswp th => Sys2Proof.Machine.execAswp th s
  | .b th => Sys2Proof.Machine.execB th s
  | .call th => Sys2Proof.Machine.execCall th s
  | .jr th => Sys2Proof.Machine.execJr th s
  | .callr th => Sys2Proof.Machine.execCallr th s
  | .ret th => Sys2Proof.Machine.execRet th s
  | .retx th => Sys2Proof.Machine.execRetx th s
  | .mfc th => Sys2Proof.Machine.execMfc th s
  | .mtc th => Sys2Proof.Machine.execMtc th s
  | .sync th => Sys2Proof.Machine.execSync th s
  | .trap th => Sys2Proof.Machine.execTrap th s
  | .done th => Sys2Proof.Machine.execDone th s
  | .donePark th => Sys2Proof.Machine.execDonePark th s
  | .lock th => Sys2Proof.Machine.execLock th s
  | .tryl th => Sys2Proof.Machine.execTryl th s
  | .unlk th => Sys2Proof.Machine.execUnlk th s
  | .waite th => Sys2Proof.Machine.execWaite th s
  | .sige th => Sys2Proof.Machine.execSige th s
  | .clre th => Sys2Proof.Machine.execClre th s
  | .send th => Sys2Proof.Machine.execSend th s
  | .recv th => Sys2Proof.Machine.execRecv th s
  | .parse th => Sys2Proof.Machine.execParse th s
  | .crcf th => Sys2Proof.Machine.execCrcf th s
  | .csum th => Sys2Proof.Machine.execCsum th s
  | .tscf th => Sys2Proof.Machine.execTscf th s
  | .helperResult th => Sys2Proof.Machine.execHelperResult th s
  | .lkup th => Sys2Proof.Machine.execLkup th s
  | .lookupRequest g => Sys2Proof.Machine.execLookupRequest g s
  | .lookupProbeReturn th => Sys2Proof.Machine.execLookupProbeReturn th s
  | .lookupResult th => Sys2Proof.Machine.execLookupResult th s
  | .extensionOp th => Sys2Proof.Machine.execExtensionOp th s
  | .extensionProbe th => Sys2Proof.Machine.execExtensionProbe th s
  | .extensionRequestTransfer g => Sys2Proof.Machine.execExtensionRequestTransfer g s
  | .extensionAnswer g xathid err data => Sys2Proof.Machine.execExtensionAnswer g xathid err data s
  | .extensionTimeout th => Sys2Proof.Machine.execExtensionTimeout th s
  | .exceptionEntry th => Sys2Proof.Machine.execExceptionEntry th s
  | .iraiseLines src th lines => Sys2Proof.Machine.execIraiseLines src th lines s
  | .iraiseNmi src th => Sys2Proof.Machine.execIraiseNmi src th s
  | .nmiraise src g d => Sys2Proof.Machine.execNmiraise src g d s
  | .ipendClear src th lines => Sys2Proof.Machine.execIpendClear src th lines s
  | .recovWrite src g d => Sys2Proof.Machine.execRecovWrite src g d s
  | .hrelPark src g thid => Sys2Proof.Machine.execHrelPark src g thid s
  | .hrelRetry src g thid => Sys2Proof.Machine.execHrelRetry src g thid s
  | .wdkick src g => Sys2Proof.Machine.execWdkick src g s
  | .watchdogExpiry g => Sys2Proof.Machine.execWatchdogExpiry g s
  | .debugHalt src target => Sys2Proof.Machine.execDebugHalt src target s
  | .debugHaltTaken th => Sys2Proof.Machine.execDebugHaltTaken th s
  | .debugResume src target => Sys2Proof.Machine.execDebugResume src target s
  | .debugStep src th stepirq => Sys2Proof.Machine.execDebugStep src th stepirq s
  | .abortch src th => Sys2Proof.Machine.execAbortch src th s
  | .dbgselWrite src g c d => Sys2Proof.Machine.execDbgselWrite src g c d s
  | .dbgdataCommit src g c d => Sys2Proof.Machine.execDbgdataCommit src g c d s
  | .tapUpdateDr => Sys2Proof.Machine.execTapUpdateDr s
  | .tapReset => Sys2Proof.Machine.execTapReset s
  | .bownWrite src g bp d => Sys2Proof.Machine.execBownWrite src g bp d s
  | .handoverComplete g bp => Sys2Proof.Machine.execHandoverComplete g bp s
  | .bankClearComplete g bank => Sys2Proof.Machine.execBankClearComplete g bank s
  | .eccWriteback g word => Sys2Proof.Machine.execEccWriteback g word s
  | .scrubRead g bank => Sys2Proof.Machine.execScrubRead g bank s
  | .bankWindowRead src g => Sys2Proof.Machine.execBankWindowRead src g s
  | .bankWindowCommit src g d => Sys2Proof.Machine.execBankWindowCommit src g d s
  | .dmaGo src g k d => Sys2Proof.Machine.execDmaGo src g k d s
  | .dmaStop src g k d => Sys2Proof.Machine.execDmaStop src g k d s
  | .dmaWord g k => Sys2Proof.Machine.execDmaWord g k s
  | .lkrelLock src g arg => Sys2Proof.Machine.execLkrelLock src g arg s
  | .lkrelThread src g thid => Sys2Proof.Machine.execLkrelThread src g thid s
  | .evset src g h mask => Sys2Proof.Machine.execEvset src g h mask s
  | .evclr src g h mask => Sys2Proof.Machine.execEvclr src g h mask s
  | .chflush src g ch => Sys2Proof.Machine.execChflush src g ch s
  | .stallCensus g => Sys2Proof.Machine.execStallCensus g s
  | .insert slot => Sys2Proof.Machine.execInsert slot s
  | .replace slot => Sys2Proof.Machine.execReplace slot s
  | .delete slot => Sys2Proof.Machine.execDelete slot s
  | .read slot => Sys2Proof.Machine.execRead slot s
  | .testins slot => Sys2Proof.Machine.execTestins slot s
  | .scan slot => Sys2Proof.Machine.execScan slot s
  | .flush slot => Sys2Proof.Machine.execFlush slot s
  | .frebuild slot => Sys2Proof.Machine.execFrebuild slot s
  | .badop slot => Sys2Proof.Machine.execBadop slot s
  | .lookupCommandComplete slot => Sys2Proof.Machine.execLookupCommandComplete slot s
  | .lkcmdStatusRead th j => Sys2Proof.Machine.execLkcmdStatusRead th j s
  | .sweepVisit => Sys2Proof.Machine.execSweepVisit s
  | .tableEnable src t d => Sys2Proof.Machine.execTableEnable src t d s
  | .tableDisable src t d => Sys2Proof.Machine.execTableDisable src t d s
  | .tblcfgWrite src t d => Sys2Proof.Machine.execTblcfgWrite src t d s
  | .trateWrite src d => Sys2Proof.Machine.execTrateWrite src d s
  | .timeStep src d => Sys2Proof.Machine.execTimeStep src d s
  | .timeSlew src d => Sys2Proof.Machine.execTimeSlew src d s
  | .slewComplete => Sys2Proof.Machine.execSlewComplete s
  | .tsetCommit src d => Sys2Proof.Machine.execTsetCommit src d s
  | .timeMirrorWrite th r d => Sys2Proof.Machine.execTimeMirrorWrite th r d s
  | .ppsEdge rising => Sys2Proof.Machine.execPpsEdge rising s
  | .ppsTimeout => Sys2Proof.Machine.execPpsTimeout s
  | .recordStage j => Sys2Proof.Machine.execRecordStage j s
  | .recordWrite => Sys2Proof.Machine.execRecordWrite s
  | .boundaryMarker j => Sys2Proof.Machine.execBoundaryMarker j s
  | .recorderCommit => Sys2Proof.Machine.execRecorderCommit s
  | .recorderRegionWrite src r d => Sys2Proof.Machine.execRecorderRegionWrite src r d s
  | .recrdWrite src d => Sys2Proof.Machine.execRecrdWrite src d s
  | .timerArm src g k => Sys2Proof.Machine.execTimerArm src g k s
  | .timerDisarm src g k => Sys2Proof.Machine.execTimerDisarm src g k s
  | .timerCompareCommit src g k d => Sys2Proof.Machine.execTimerCompareCommit src g k d s
  | .timerCountCommit src g k d => Sys2Proof.Machine.execTimerCountCommit src g k d s
  | .timerMatch g k => Sys2Proof.Machine.execTimerMatch g k s
  | .timerPinAction k => Sys2Proof.Machine.execTimerPinAction k s
  | .timerCapture g k => Sys2Proof.Machine.execTimerCapture g k s
  | .tcapRead src g k => Sys2Proof.Machine.execTcapRead src g k s
  | .goutWrite src g d => Sys2Proof.Machine.execGoutWrite src g d s
  | .memoryRequestTransfer p write => Sys2Proof.Machine.execMemoryRequestTransfer p write s
  | .memoryReadResponse p tag err data => Sys2Proof.Machine.execMemoryReadResponse p tag err data s
  | .memoryWriteAck p tag err => Sys2Proof.Machine.execMemoryWriteAck p tag err s
  | .memoryTimeout p => Sys2Proof.Machine.execMemoryTimeout p s
  | .memReadyChange p level => Sys2Proof.Machine.execMemReadyChange p level s
  | .clockLoss j => Sys2Proof.Machine.execClockLoss j s
  | .clockReturn j => Sys2Proof.Machine.execClockReturn j s
  | .refclkLoss => Sys2Proof.Machine.execRefclkLoss s
  | .refclkReturn => Sys2Proof.Machine.execRefclkReturn s
  | .groveGateWrite src g d => Sys2Proof.Machine.execGroveGateWrite src g d s
  | .groveClkoffEntry g => Sys2Proof.Machine.execGroveClkoffEntry g s
  | .islandWake src j => Sys2Proof.Machine.execIslandWake src j s
  | .islandWakeComplete j => Sys2Proof.Machine.execIslandWakeComplete j s
  | .portIslandGateWrite src k d => Sys2Proof.Machine.execPortIslandGateWrite src k d s
  | .clockPointWrite src g d => Sys2Proof.Machine.execClockPointWrite src g d s
  | .clockPointChange g => Sys2Proof.Machine.execClockPointChange g s
  | .registerWrite src a d => Sys2Proof.Machine.execRegisterWrite src a d s
  | .latchRead src a => Sys2Proof.Machine.execLatchRead src a s
  | .accessTimeout src a write d => Sys2Proof.Machine.execAccessTimeout src a write d s
  | .irqtest src d => Sys2Proof.Machine.execIrqtest src d s
  | .idleSlot g c => Sys2Proof.Machine.execIdleSlot g c s
  | .managementRead src a => Sys2Proof.Machine.execManagementRead src a s
  | .tckEdge rising tms tdi => Sys2Proof.Machine.execTckEdge rising tms tdi s
  | .pwrgoodFall => Sys2Proof.Machine.execPwrgoodFall s
  | .islandChangeComplete j => Sys2Proof.Machine.execIslandChangeComplete j s

end Sys2Proof.Machine
end

