-- ==== Sys2Proof/Safety.lean ====
section
/-!
DEFINITION. The terms in which statements are made: a command completes, a thread makes the step of an instruction, what such
a step leaves in the thread's registers and flags, and the invariants of the state.
-/
namespace Sys2Proof.Machine

/-- Command i answers a next state, and Q holds of it. -/
def Completes (i : Instr) (s : State) (Q : State → Prop) : Prop := ∃ t, exec i s = .next t ∧ Q t

/-- Thread th makes the step of instruction f, whose mnemonic is mn, in its core's present cycle: the core issues it (R149 to
R156, R201, R263), its condition holds (R198), and no register that it reads holds an uncorrectable error (R271). -/
def State.Executes (s : State) (th : Nat) (mn : Mn) (f : FInstr) : Prop :=
  (s.issue th mn).map Prod.fst = some f ∧
    ((f.mn.stepped && decide ((s.thread th).prog ≠ 0)) || (s.thread th).latchV || condHolds (s.thread th).status f.cond) = true ∧
    (s.thread th).badReg f = none

/-- What register r holds after a step whose own writes leave v there: a load that lands with the step wins (R160). -/
def Thread.after (t : Thread) (r : Nat) (v : Word) : Word :=
  match t.landing with
  | some l => if l.reg = r then l.val else v
  | none => v

/-- What P is after a step whose own writes leave p there (R160, R185). -/
def Thread.afterP (t : Thread) (p : Bool) : Bool :=
  match t.landing with
  | some l => l.p.getD p
  | none => p

/-- The registers of thread th after a step from s to u that writes v to register d, and its PC. Register 0 reads 0 (R183). -/
def StepWrites (s u : State) (th d : Nat) (v : Word) (pc : BitVec 24) : Prop :=
  (∀ r, r ≠ 0 → (u.thread th).greg r = (s.thread th).after r (if r = d then v else (s.thread th).greg r)) ∧
    (u.thread th).greg 0 = 0 ∧ (u.thread th).pc = pc

/-- Z, N, C and V of thread th after a step from s to u, with the rest of its status as before, P aside, which a load that
lands may write (R160). -/
def FlagsBecome (s u : State) (th : Nat) (z n c v : Bool) : Prop :=
  bit (u.thread th).status 0 = z ∧ bit (u.thread th).status 1 = n ∧ bit (u.thread th).status 2 = c ∧
    bit (u.thread th).status 3 = v ∧ bit (u.thread th).status 4 = (s.thread th).afterP (bit (s.thread th).status 4) ∧
    ∀ i, 5 ≤ i → bit (u.thread th).status i = bit (s.thread th).status i

/-- The status of thread th is as before, P aside, which a load that lands may write (R160). -/
def FlagsKept (s u : State) (th : Nat) : Prop :=
  FlagsBecome s u th (bit (s.thread th).status 0) (bit (s.thread th).status 1) (bit (s.thread th).status 2)
    (bit (s.thread th).status 3)

/-- The PC after instruction f (R191). -/
def State.pcPast (s : State) (th : Nat) (f : FInstr) : BitVec 24 := (s.thread th).pc + BitVec.ofNat 24 f.size

/-- What of a thread no integer, move, field or branch instruction changes: accumulators, return stack, modulo and control registers,
exception registers, configuration and descriptors. -/
def Thread.specials (t : Thread) : List Word × List (SMap Word) × List (BitVec 64) × List Desc :=
  ([t.accl, t.acch], [t.rstack, t.modP, t.modA],
   [t.dsbase.setWidth 64, t.dslim.setWidth 64, BitVec.ofNat 64 t.rsp, t.tvec.setWidth 64, t.cause.setWidth 64,
    t.badins.setWidth 64, t.badaddr.setWidth 64, t.lcrpc.setWidth 64, t.lcrst.setWidth 64, t.thcfgA.setWidth 64,
    t.thcfgP.setWidth 64], t.descs)

/-- Thread x of t at the beginning, and of u at the end of a core cycle of another thread, or of its own after its step: it may park,
halt as it parks, leave a wait of the first case of R262, pass a WAITE, and have an interrupt line set by a routed flag (R174, R244,
R264, R275, R307). A thread that waits on no event flag keeps its PC. -/
def Thread.Bystander (t x : Thread) : Prop :=
  (∃ w o sw p h hc hr st li pc, x = { t with
      wait := w, outst := o, sendW := sw, parkReq := p, halted := h, hcause := hc, haltReq := hr, step := st, lines := li, pc := pc }) ∧
    (∀ i, bit t.lines i = true → bit x.lines i = true) ∧
    ((∀ f, t.wait ≠ .event f) → x.pc = t.pc ∧ ∀ f, x.wait ≠ .event f)

/-- A timer channel at the beginning and after cycles of its grove: an armed one may have counted, and edges of its input may have come to
their cycle; its compare and capture values, and a channel that is not armed, are as before (R378, R382). -/
def Timer.Passes (t x : Timer) : Prop :=
  ∃ c d e, x = { t with cnt := c, due := d, edges := e } ∧ (t.armed = false → c = t.cnt ∧ d = t.due)

/-- The frame of an instruction of thread th that stores nothing. All memory is as before: the scratchpads, instruction stores and
everything else of the groves but waiting lists of locks and channels (of threads that the cycle parks or takes out of a wait), the
counts of armed timer channels of the thread's grove, whose cycle begins, and a marked error that a fetch corrected; the packet buffer,
registers, ports, tables and memory ports. Threads of other groves are as before, and others of the thread's grove are bystanders. -/
def Framed (s u : State) (th : Nat) : Prop :=
  u = { s with threads := u.threads, groves := u.groves, cores := u.cores, ctrs := u.ctrs, stalls := u.stalls, beats := u.beats } ∧
    (∀ g, ∃ i l c t, u.grove g = { s.grove g with iecc := i, locks := l, chans := c, timers := t }) ∧
    (∀ g k, (u.lock g k).holder = (s.lock g k).holder) ∧ (∀ g k, (u.chan g k).msgs = (s.chan g k).msgs) ∧
    (∀ g k, (s.timer g k).Passes (u.timer g k) ∧ (g ≠ thG th → u.timer g k = s.timer g k)) ∧
    ∀ x, x ≠ th → (s.thread x).Bystander (u.thread x) ∧ (thG x ≠ thG th → u.thread x = s.thread x)

/-- The step of thread th is the last of a cycle of its grove: every other core has run the cycle (R149). -/
def State.LastOfCycle (s : State) (th : Nat) : Prop :=
  ∀ c, c < 32 → c ≠ thC th → (s.core (coreKey (thG th) c)).pos = ((s.core (thCore th)).pos + 1) % 16

/-- No event flag of grove g has risen in the cycle under way, so that its end sets no line (R307). -/
def State.NoRise (s : State) (g : Nat) : Prop :=
  ∀ f, f < 64 → bit (s.grove g).flags f = true → (s.beat g).inCycle = true → bit (s.beat g).flags f = true

/-- Packet k, which CELL names, has left the buffer: its cells are free, and its port no longer uses them (R32). -/
def Released (s u : State) (k : Packet) (cell : Nat) : Prop :=
  mfind u.trunk.pkts cell = none ∧ (∀ c, c ∈ u.trunk.alloc ↔ c ∈ s.trunk.alloc ∧ c ∉ k.cells) ∧
    (u.port k.port).used = (s.port k.port).used - k.cells.length

/-- The slots of domain d that hold their completions in a row from sequence number q on, n at most: the tag, the slot and the emit list
of each (R61). -/
def Trunk.inRow (t : Trunk) (d q : Nat) : Nat → List (Nat × Slot × List Emit)
  | 0 => []
  | n + 1 =>
    match t.slots.find? (fun x => x.2.dom = d && x.2.seq = q) with
    | some (tag, sl) =>
      match sl.done with
      | some es => (tag, sl, es) :: t.inRow d ((q + 1) % 65536) n
      | none => []
    | none => []

/-- What retires in the next trunk cycle, in order: the domains in turn after the last one served, from each the slots in a row from its
head, 8 in all (R61). -/
def Trunk.retiring (t : Trunk) : List (Nat × Slot × List Emit) :=
  ((upto 64).flatMap (fun i => t.inRow ((t.rot + 1 + i) % 64) (t.dom ((t.rot + 1 + i) % 64)).head 8)).take 8

/-- The copies of a retiring packet that the trunk hands to egress, in emit-list order, and not those that leave no symbol, whose override
word they do not hold, or whose port is OFF or DRAINING (R58). -/
def State.handed (s : State) (x : Nat × Slot × List Emit) : List Copy :=
  match mfind s.trunk.pkts x.2.1.cell with
  | none => []
  | some k =>
    (x.2.2.filter (fun e => decide (e.skip + e.trim < k.len) &&
      (!e.oven || (decide (e.skip < 8 * e.ovoff + 8) && decide (8 * e.ovoff < k.len - e.trim))) &&
      ((s.port e.port).st = .up || (s.port e.port).st = .starting))).map (fun e =>
        { emit := e, cell := x.2.1.cell, len := k.len, its := k.its, iport := k.port, dom := x.2.1.dom, seq := x.2.1.seq,
          cls := k.cls, bad := 0 })

/-- Since the last cycles of the grove nothing has written the word through the other port of its bank (R294). -/
def State.WritesAlone (s : State) (g phys : Nat) (portB : Bool) : Prop :=
  phys < 30 * 4096 ∨ ∀ y, (s.grove g).dual = some y → y.word = phys → y.portB ≠ portB →
    y.cycle ≠ ((s.grove g).cyc, (s.beat g).begun)

/-- The instructions of the integer and move families, and the two jumps: they change the thread's general registers, status and PC. -/
def plainRows (th : Thid) : List (Instr × Mn) :=
  [(.nop th, .nop), (.add th, .add), (.adc th, .adc), (.sub th, .sub), (.sbc th, .sbc), (.and th, .and), (.or th, .or),
   (.xor th, .xor), (.andn th, .andn), (.shl th, .shl), (.shr th, .shr), (.sar th, .sar), (.rol th, .rol), (.cmp th, .cmp),
   (.tst th, .tst), (.mul th, .mul), (.mov th, .mov), (.neg th, .neg), (.addi th, .addi), (.adci th, .adci), (.subi th, .subi),
   (.sbci th, .sbci), (.andi th, .andi), (.ori th, .ori), (.xori th, .xori), (.andni th, .andni), (.shli th, .shli),
   (.shri th, .shri), (.sari th, .sari), (.roli th, .roli), (.cmpi th, .cmpi), (.tsti th, .tsti), (.movi th, .movi),
   (.insi th, .insi), (.ext th, .ext), (.ins th, .ins), (.clz th, .clz), (.sel th, .sel), (.pset th, .pset), (.b th, .b),
   (.jr th, .jr)]

/-- The other instructions of the ISA, each with its mnemonic; DONE has two rows. -/
def otherRows (th : Thid) : List (Instr × Mn) :=
  [(.ldw th, .ldw), (.stw th, .stw), (.ld th, .ld), (.st th, .st), (.stm th, .stm), (.lds th, .lds), (.sts th, .sts),
   (.push th, .push), (.pop th, .pop), (.bmov th, .bmov), (.macx th, .macx), (.macxI th, .macxI), (.macxC th, .macxC),
   (.aadd th, .aadd), (.aswp th, .aswp), (.call th, .call), (.callr th, .callr), (.ret th, .ret), (.retx th, .retx),
   (.mfc th, .mfc), (.mtc th, .mtc), (.sync th, .sync), (.trap th, .trap), (.lock th, .lock), (.tryl th, .tryl),
   (.unlk th, .unlk), (.waite th, .waite), (.sige th, .sige), (.clre th, .clre), (.send th, .send), (.recv th, .recv),
   (.parse th, .parse), (.crcf th, .crcf), (.csum th, .csum), (.tscf th, .tscf), (.lkup th, .lkup),
   (.extensionOp th, .xop), (.extensionProbe th, .xprobe)]

/-- What instruction f, of mnemonic mn, leaves of its own thread whatever comes of it: of the general registers all but its fields D
and S and the stack pointer, of which a load that lands may write one (R160); the accumulators but for MACX and MTC; the limits, the
vector, the modulo registers and TCEIL but for MTC; their active copies but for SYNC; the configuration and the descriptors. -/
def OwnFrame (s u : State) (th : Nat) (mn : Mn) (f : FInstr) : Prop :=
  let t := s.thread th
  let x := u.thread th
  (∀ r, r ≠ f.d → r ≠ f.s → r ≠ 31 → x.greg r = t.greg r ∨ x.greg r = t.after r (t.greg r)) ∧
    x.thcfgP = t.thcfgP ∧ x.descs = t.descs ∧
    (mn ∉ [Mn.macx, .macxI, .macxC, .mtc] → x.accl = t.accl ∧ x.acch = t.acch) ∧
    (mn ≠ .mtc → x.dsbase = t.dsbase ∧ x.dslim = t.dslim ∧ x.tvec = t.tvec ∧ x.modP = t.modP ∧ x.tceilP = t.tceilP) ∧
    (mn ≠ .sync → x.modA = t.modA ∧ x.thcfgA = t.thcfgA ∧ x.tceilA = t.tceilA)

/-- Instruction f writes r to register d, sets all four flags and moves past itself (R184, R191). -/
def ArithResult (s u : State) (th : Nat) (f : FInstr) (d : Nat) (r : Word) (c v : Bool) : Prop :=
  StepWrites s u th d r (s.pcPast th f) ∧ FlagsBecome s u th (decide (r = 0)) r.msb c v

/-- Instruction f writes r to register d, sets Z and N, keeps V, and sets C to c (R184). -/
def LogicResult (s u : State) (th : Nat) (f : FInstr) (d : Nat) (r : Word) (c : Bool) : Prop :=
  ArithResult s u th f d r c (bit (s.thread th).status 3)

/-- Instruction f writes r to register d, keeps the flags and moves past itself. -/
def MoveResult (s u : State) (th : Nat) (f : FInstr) (d : Nat) (r : Word) : Prop :=
  StepWrites s u th d r (s.pcPast th f) ∧ FlagsKept s u th

/-- Nothing of an earlier step of an instruction is kept: no latched word, no store that waits, no request. -/
def Thread.noStep (t : Thread) : Prop := t.latchV = false ∧ t.pendSt = none ∧ t.outst = none

/-- A signed number lies outside 72 bits (V of R184). -/
def Overflows (i : Int) : Bool := decide (i < -(2 ^ 71)) || decide (2 ^ 71 ≤ i)

/-- A load of thread th at word ea reads w from a scratchpad bank of its core: the access is allowed, the thread has no store
buffered to that word, and the stored word holds no error. -/
def State.SpadReads (s : State) (th : Nat) (ea w : Word) : Prop :=
  (∃ phys b, s.checkAccess th ea false = .ok (.spad phys b) ∧ mget 0 (s.grove (thG th)).secc phys = 0 ∧
    w = mget 0 (s.grove (thG th)).scratch phys) ∧
    ∀ e ∈ (s.thread th).sb, e.addr.toNat ≠ ea.toNat

/-- No entry of the list, a thread's buffered stores, shares a lane with a load of these lanes of the word at ea (R166). -/
def NoOverlap (l : List SbEntry) (ea : Word) (lanes : BitVec 8) : Prop :=
  ∀ e ∈ l, e.addr.toNat = ea.toNat → e.mask &&& lanes = 0

/-- Entry e is the youngest buffered store of thread th that shares a lane with a load of these lanes of the word at ea (R166). -/
def State.Youngest (s : State) (th : Nat) (ea : Word) (lanes : BitVec 8) (e : SbEntry) : Prop :=
  ∃ old young, (s.thread th).sb = old ++ e :: young ∧ e.addr.toNat = ea.toNat ∧ e.mask &&& lanes ≠ 0 ∧ NoOverlap young ea lanes

/-- A load of these lanes of the word at ea, in the regions allowed, has its word w at once: from scratchpad, or from the youngest
buffered store of the thread that shares a lane with it and holds all its lanes (R163, R166). -/
def State.LoadGives (s : State) (th : Nat) (ea : Word) (lanes : BitVec 8) (allow : Target → Bool) (w : Word) : Prop :=
  ∃ tg, s.checkAccess th ea false = .ok tg ∧ allow tg = true ∧
    ((NoOverlap (s.thread th).sb ea lanes ∧ ∃ phys b, tg = .spad phys b ∧ mget 0 (s.grove (thG th)).secc phys = 0 ∧
        w = mget 0 (s.grove (thG th)).scratch phys) ∨
      ∃ e, s.Youngest th ea lanes e ∧ e.mask &&& lanes = lanes ∧ w = e.data)

/-- A load meets a buffered store that holds a part of its lanes only (R166). -/
def State.LoadMeets (s : State) (th : Nat) (ea : Word) (lanes : BitVec 8) (allow : Target → Bool) (e : SbEntry) : Prop :=
  (∃ tg, s.checkAccess th ea false = .ok tg ∧ allow tg = true) ∧ s.Youngest th ea lanes e ∧ e.mask &&& lanes ≠ lanes

/-- A load goes to a target outside the scratchpads (R163, R208). -/
def State.LoadGoes (s : State) (th : Nat) (ea : Word) (lanes : BitVec 8) (allow : Target → Bool) (tg : Target) : Prop :=
  s.checkAccess th ea false = .ok tg ∧ allow tg = true ∧ tg.isSpad = false ∧ NoOverlap (s.thread th).sb ea lanes

/-- The messages of a link that have not reached its receive buffer, oldest first: those in flight, and those that wait for a credit. -/
def Link.inFlight (l : Link) : List Message := l.out ++ l.wait

/-- The request is at the port: it waits for a credit, or in a class queue, or is presented. -/
def MPort.holds (m : MPort) (r : MReq) : Prop :=
  r ∈ m.wait ∨ r ∈ m.queue ∨ m.shownR.map (·.req) = some r ∨ m.shownW.map (·.req) = some r

/-- The thread's pending load is v for register r, with P (R160). -/
def Lands (u : State) (th r : Nat) (v : Word) (p : Option Bool) : Prop :=
  (u.thread th).landing = some { reg := r, val := v, p := p }

/-- The store buffer of thread th gains these stores in order, and no memory word changes (R164). -/
def Buffers (s u : State) (th : Nat) (reqs : List StoreReq) : Prop :=
  (u.thread th).sb.map (fun e => (e.addr, e.data, e.mask)) =
      (s.thread th).sb.map (fun e => (e.addr, e.data, e.mask)) ++ reqs.map (fun r => (r.ea.setWidth 40, r.data, r.mask)) ∧
    (∀ g, (u.grove g).scratch = (s.grove g).scratch) ∧ u.trunk.buf = s.trunk.buf

/-- The thread may make these stores now: its buffer has room and each target is allowed (R164, R203). -/
def State.MayStore (s : State) (th : Nat) (reqs : List StoreReq) (allow : Target → Bool) : Prop :=
  (s.thread th).sb.length + reqs.length ≤ 2 ∧ ∀ r ∈ reqs, ∃ t, s.checkAccess th r.ea true = .ok t ∧ allow t = true

/-- An access of the host or the TAP to address a completes now, outside a start reset: no access that began before it waits, and its
island is ON and answers (R415, R470, R478, R479). -/
def State.HostReaches (s : State) (src : Src) (a : Nat) : Prop :=
  (src = .mgmt ∨ src = .tap) ∧ s.pathUp src = true ∧ s.mgmt.waiting = [] ∧
    (∀ wr, s.accReady { src := src, addr := BitVec.ofNat 24 a, wr := wr } = true) ∧ s.inReset = false ∧
    ∃ i, islandOf a = some i ∧ s.islandOpen i = true

/-- Register a of the plain ones: a write of it stores the bits of m and does nothing else, and its other bits are reserved (R16, R66,
R70, R102, R106, R182, R283, R284, R316, R318, R351, R388, R405, R452, R482, R490; HLPCFG of R255). -/
def PlainReg (s : State) (a : Nat) (m : BitVec 32) : Prop :=
  (a, m) ∈ [(0x28, 0xFFFFFFFF), (0x2C, 0xFFFFFFFF), (0x38, 0xFFFF), (0x20004, 0x00FF1FFF), (0x14010, 0xFFFFFFFF), (0x8000C, 0xFFFF),
    (0xA0000, 0x8000FFFF), (0xC0000, 0xFF), (0xC0010, 0xFFFFFFFF), (0xC0014, 0xFF), (0xE0000, 0xF80000FF)] ∨
  (∃ k, k < 4 ∧ a = 0xE0020 + 4 * k ∧ m = 0xFFFFFFFF) ∨
  (∃ r, r < 16 ∧ (a, m) ∈ [(aRing r + 4, 0xFFFF), (aRing r + 8, 0xFFFFFFFF), (aRing r + 0xC, 0xFFFF), (aRing r + 0x10, 0x80FF)]) ∨
  (∃ p, p < 128 ∧ ((∃ k, k < 4 ∧ a = aEgress p + 4 + 4 * k ∧ m = 0xFFFFFFFF) ∨ (a = aEgress p + 0x24 ∧ m = 0xFFFF) ∨
    ((s.port p).frame = none ∧ a = 0x83008 + 16 * p ∧ m = 0x3FFF))) ∨
  (∃ g c k, g < 8 ∧ c < 32 ∧ k < 4 ∧
    ((a = aCore g c + 0x80 + 8 * k ∧ m = 0xFFFFFF) ∨ (a = aCore g c + 0x84 + 8 * k ∧ m = 0xC000FFFF))) ∨
  (∃ x, x < 4096 ∧ a = aThread x + 0xC ∧ m = 0xFFFFFF) ∨
  (∃ g, g < 8 ∧ ((a, m) ∈ [(aExc g + 0x18, 0xFFFF), (aBanks g + 0x200, 0x8000FFFF), (aHelp g, 0xFFFF), (aLocks g + 0x498, 0xFFFFFFFF),
    (aLocks g + 0x49C, 0xFFFFFFFF)] ∨ (∃ k, k < 32 ∧ a = aLocks g + 0x400 + 4 * k ∧ m = 0xFFFF) ∨
    ∃ u, u < 64 ∧ a = aLocks g + 0x500 + 4 * u ∧ m = 0x80003FE7))

/-- A thread's oldest buffered store, with all its lanes, has been sent to register a with these low 32 bits, and its target answers
now (R165, R204, R207). -/
def State.ThreadWrites (s : State) (x : Thid) (a : Nat) (d : BitVec 32) : Prop :=
  s.groveOn (thG x.toNat) = true ∧ (s.thread x.toNat).pendSt = none ∧ ∃ e es, (s.thread x.toNat).sb = e :: es ∧ e.sent = true ∧
    e.acc = false ∧ e.target = .window ∧ e.mask = 0xFF ∧ e.data.setWidth 32 = d ∧ windowReg x.toNat e.addr.toNat = some a ∧
    s.windowReady x.toNat e.addr.toNat true = true

/-- A write of register a with value d takes effect now: one of the host or the TAP, or a thread's through its window. -/
def State.Writes (s : State) (src : Src) (a : Nat) (d : BitVec 32) : Prop :=
  s.HostReaches src a ∨ ∃ x, src = .thread x ∧ s.ThreadWrites x a d

/-- A thread waits in LOAD for register a, all of whose word goes to its register r, and the target answers now (R163, R207). -/
def State.ThreadReads (s : State) (x : Thid) (a r : Nat) : Prop :=
  s.groveOn (thG x.toNat) = true ∧ (s.thread x.toNat).wait = .load ∧ ∃ o, (s.thread x.toNat).outst = some o ∧ o.unit = .window ∧
    o.ans = none ∧ o.dest = .land r 0 8 ∧ windowReg x.toNat o.addr.toNat = some a ∧ s.windowReady x.toNat o.addr.toNat false = true

/-- Thread th has taken an exception from state s, all in one step (R257): the pending load has landed, the PC given and the status
are pushed with KIND 1, CAUSE takes the code, S is 1, IE and PROG are 0, and the PC is the active TVEC. -/
def EntryMade (s u : State) (th : Nat) (cause : BitVec 6) (pc : BitVec 24) : Prop :=
  let t := s.thread th
  let x := u.thread th
  x.pc = t.tvec ∧ x.cause = cause ∧ x.rsp = t.rsp + 1 ∧
    mget 0 x.rstack t.rsp = BitVec.ofNat 72 (2 ^ 56 + t.land.status.toNat * 2 ^ 24 + pc.toNat) ∧
    (∀ i, i ≠ t.rsp → mget 0 x.rstack i = mget 0 t.rstack i) ∧
    bit x.status 31 = true ∧ bit x.status 30 = false ∧ x.prog = 0 ∧
    (∀ i, 22 ≤ i → i < 30 → bit x.status i = bit t.status i) ∧ (∀ i, i < 4 → bit x.status i = bit t.status i) ∧
    bit x.status 4 = t.afterP (bit t.status 4) ∧
    (∀ r, r ≠ 0 → x.greg r = t.after r (t.greg r)) ∧ x.sb.map (·.addr) = t.sb.map (·.addr)

/-- The core of thread th runs its next cycle and the choice of the cycle falls on the thread (R150 to R157). -/
def State.Chosen (s : State) (th : Nat) : Prop :=
  s.coreRuns (thG th) (thC th) = true ∧ (s.choice (thG th) (thC th)).t = some (thT th)

/-- Engine e of port p executes word w, of type op, in this cycle of its port island (R108, R109, R111, R118). -/
def State.EngineRuns (s : State) (p e : Nat) (op : EOp) (w : BitVec 24) : Prop :=
  s.portOn p = true ∧ (s.eng p e).st ≠ .halted ∧ s.engFetch p e = w ∧ engDecode w = some op ∧ s.ownsEndpoints p e op w = true

/-- The engine runs on at pc, or halts with ERRCODE 2 where pc leaves its range or the store (R109). -/
def EngineGoes (s u : State) (p e pc : Nat) : Prop :=
  (u.eng p e).pc = BitVec.ofNat 6 pc ∧
    if s.pcOk p e pc then (u.eng p e).st = .running
    else (u.eng p e).st = .halted ∧ (u.eng p e).errc = 2 ∧ bit (u.reg (aEngine p e + 8)) 29 = true

/-- What PARSE finds in an IP header of version v at symbol k, with the symbols of the packet and the end of what it reads: L4OFF, L3OFF,
L4P, L3K, FRAG, OPT and TRUNC (R247). The extension headers of IPv6 are a list of their places, each with its type, of which each but the
last one is passed. -/
def ParsesIp (b : Nat → Nat) (lim k v : Nat) (out : Nat → Nat → Nat → Nat → Nat → Nat → Nat → Prop) : Prop :=
  let be := fun j => b j * 256 + b (j + 1)
  let size := fun x : Nat × Nat => if x.2 = 44 then 8 else (b (x.1 + 1) + 1) * 8
  let passed := fun x : Nat × Nat => x.2 ∈ [0, 43, 60, 44] ∧ x.1 + 2 ≤ lim ∧ x.1 + size x ≤ lim ∧
    (x.2 = 44 → be (x.1 + 2) / 8 = 0)
  (v = 4 →
    let hl := 4 * (b k % 16)
    let later := be (k + 6) % 8192 ≠ 0
    (lim < k + 20 ∨ lim < k + hl → out 0 k 0 1 0 0 1) ∧
    (k + 20 ≤ lim → k + hl ≤ lim →
      out (if later then 0 else k + hl) k (b (k + 9)) 1 (if later then 1 else 0) (if 20 < hl then 1 else 0) 0)) ∧
  (v = 6 → (lim < k + 40 → out 0 k 0 2 0 0 1) ∧
    (k + 40 ≤ lim → ∀ (hs : List (Nat × Nat)) (x : Nat × Nat), (hs ++ [x]).head? = some (k + 40, b (k + 6)) →
      (∀ j y z, (hs ++ [x])[j]? = some y → (hs ++ [x])[j + 1]? = some z → passed y ∧ z = (y.1 + size y, b y.1)) →
      (x.2 ∉ [0, 43, 60, 44] → out (if x.2 = 59 then 0 else x.1) k x.2 2 0 (if hs = [] then 0 else 1) 0) ∧
      (x.2 ∈ [0, 43, 60, 44] → (lim < x.1 + 2 ∨ lim < x.1 + size x) → out 0 k 0 2 0 1 1) ∧
      (x.2 = 44 → x.1 + 8 ≤ lim → be (x.1 + 2) / 8 ≠ 0 → out 0 k (b x.1) 2 1 1 0))) ∧
  (v ≠ 4 → v ≠ 6 → out 0 0 0 0 0 0 0)

/-- What PARSE finds in an Ethernet header at symbol o of a packet of len symbols: all fields of its word (R247). The tags are a list of
their places, each with the VLAN tags and the HSR tags before it, of which each but the last one, where ETYPE stands, is passed. -/
def ParsesEth (b : Nat → Nat) (len o xtpid : Nat) (out : List Nat → Prop) : Prop :=
  let be := fun j => b j * 256 + b (j + 1)
  let lim := min (len - 4) (o + 256)
  let vlan := fun e : Nat => e = 0x8100 ∨ e = 0x88A8 ∨ (xtpid ≠ 0 ∧ e = xtpid)
  let next := fun x y : Nat × Nat × Nat => x.1 + 2 ≤ lim ∧
    ((vlan (be x.1) ∧ x.2.1 < 2 ∧ y = (x.1 + 4, x.2.1 + 1, x.2.2)) ∨
      (¬ vlan (be x.1) ∧ be x.1 = 0x892F ∧ x.2.2 = 0 ∧ y = (x.1 + 6, x.2.1, 1)))
  (lim < o + 14 → out [0, 0, 0, 0, 0, 0, 0, 0, 0, 0, 1]) ∧
  (o + 14 ≤ lim → ∀ (tags : List (Nat × Nat × Nat)) (k t h : Nat), (tags ++ [(k, t, h)]).head? = some (o + 12, 0, 0) →
    (∀ j x y, (tags ++ [(k, t, h)])[j]? = some x → (tags ++ [(k, t, h)])[j + 1]? = some y → next x y) →
    let e := be k
    let prpt := if k + 12 ≤ len ∧ be (len - 6) = 0x88FB ∧ be (len - 8) % 4096 = len - 4 - (k + 2) then 1 else 0
    ((lim < k + 2 ∨ (vlan e ∧ t = 2)) → out [0, 0, 0, 0, t, h, 0, 0, 0, 0, 1]) ∧
    (k + 2 ≤ lim → ¬ vlan e → ¬ (e = 0x892F ∧ h = 0) →
      ParsesIp b lim (k + 2) (if e = 0x0800 then 4 else if e = 0x86DD then 6 else 0) (fun l4off l3off l4p l3k frag opt trunc =>
        out [l4off, l3off, l4p, e, t, h, prpt, l3k, frag, opt, trunc])))

/-- Symbol m of copy k as its packet holds it, in the word that OVEN names as the override gives it (R54). -/
def State.copyStored (s : State) (k : Copy) (m : Nat) : BitVec 9 :=
  let i := (k.emit.skip + m) / 8
  lane (if k.emit.oven && k.emit.ovoff = i then k.emit.e1 else s.pktWord k.cell k.len i) ((k.emit.skip + m) % 8)

/-- Symbol m of copy k as port p sends it: with ONESTEP and TSUPD the 8 symbols at CFOFF grow by T16 of the time stamp, and the last 4 are
the CRC-32 of those before them, in word mode, when the copy has CFOFF + 12 symbols at least (R85). -/
def State.copySent (s : State) (p : Nat) (k : Copy) (ets : Word) (m : Nat) : BitVec 9 :=
  let off := (s.egcfg p).toNat / 2 ^ 20 % 2 ^ 11
  let cf := (upto 8).foldl (fun a j => a * 256 + (s.copyStored k (off + j)).toNat % 256) 0
  let new := (cf + ets.toNat * 10 ^ 9 / 2 ^ 16) % 2 ^ 64
  let upd := fun j : Nat =>
    if off ≤ j ∧ j < off + 8 then BitVec.ofNat 9 (new / 256 ^ (off + 7 - j) % 256) else s.copyStored k j
  let crc := crc32 ((upto (k.length - 4)).map (fun j => BitVec.ofNat 8 (upd j).toNat))
  if k.emit.tsupd && bit (s.egcfg p) 3 && !s.pinMode p && decide (off + 12 ≤ k.length) then
    if k.length - 4 ≤ m then BitVec.ofNat 9 (crc / 256 ^ (m - (k.length - 4)) % 256) else upd m
  else s.copyStored k m

/-- The register map and the scratchpads in their canonical form. -/
def Canonical (s : State) : Prop := SMap.wf 0 s.regs = true ∧ ∀ g, SMap.wf 0 (s.grove g).scratch = true

end Sys2Proof.Machine
end

