-- ==== Sys2Proof/Certificates/Slice0/Obligations.lean ====
section
/-!
DEFINITION. The statements for the provers. Each says, for the rules that its docstring names, what the block does.
-/
open Sys2Proof Sys2Proof.Machine

/-! ## The integer instructions -/

/-- R184 and R223 for ADD, ADC, SUB, SBC, NEG, CMP and their immediate forms: the result goes to g[D] (CMP writes none), Z and N
follow it, C is the carry or no-borrow, V the signed overflow of the whole operation, and the PC moves past the instruction. -/
def Obligations.ArithmeticResults : Prop :=
  ∀ (th : Thid) (s : State) (f : FInstr),
    let t := s.thread th.toNat
    let a := t.greg f.a
    let b := t.opnd f.b
    let c := bit t.status 2
    let k := b1 c
    let n := 1 - b1 c
    (∀ i mn, (i, mn) ∈ [(Instr.add th, Mn.add), (.addi th, .addi)] → s.Executes th.toNat mn f → Completes i s (fun u =>
      ArithResult s u th.toNat f f.d (a + b) (decide (2 ^ 72 ≤ a.toNat + b.toNat)) (Overflows (a.toInt + b.toInt)))) ∧
    (∀ i mn, (i, mn) ∈ [(Instr.adc th, Mn.adc), (.adci th, .adci)] → s.Executes th.toNat mn f → Completes i s (fun u =>
      ArithResult s u th.toNat f f.d (a + b + BitVec.ofNat 72 k) (decide (2 ^ 72 ≤ a.toNat + b.toNat + k))
        (Overflows (a.toInt + b.toInt + k)))) ∧
    (∀ i mn, (i, mn) ∈ [(Instr.sub th, Mn.sub), (.subi th, .subi)] → s.Executes th.toNat mn f → Completes i s (fun u =>
      ArithResult s u th.toNat f f.d (a - b) (decide (b.toNat ≤ a.toNat)) (Overflows (a.toInt - b.toInt)))) ∧
    (∀ i mn, (i, mn) ∈ [(Instr.sbc th, Mn.sbc), (.sbci th, .sbci)] → s.Executes th.toNat mn f → Completes i s (fun u =>
      ArithResult s u th.toNat f f.d (a - b - BitVec.ofNat 72 n) (decide (b.toNat + n ≤ a.toNat))
        (Overflows (a.toInt - b.toInt - n)))) ∧
    (∀ i mn, (i, mn) ∈ [(Instr.cmp th, Mn.cmp), (.cmpi th, .cmpi)] → s.Executes th.toNat mn f → Completes i s (fun u =>
      StepWrites s u th.toNat 0 0 (s.pcPast th.toNat f) ∧
        FlagsBecome s u th.toNat (decide (a = b)) (a - b).msb (decide (b.toNat ≤ a.toNat)) (Overflows (a.toInt - b.toInt)))) ∧
    (s.Executes th.toNat .neg f → Completes (.neg th) s (fun u =>
      ArithResult s u th.toNat f f.d (- t.greg f.s) (decide (t.greg f.s = 0)) (Overflows (- (t.greg f.s).toInt))))

/-- R184 and R223 for AND, OR, XOR, ANDN, TST with their immediate forms, and MUL: the result goes to g[D] (TST writes none), Z and N
follow it, and C and V are unchanged. -/
def Obligations.LogicResults : Prop :=
  ∀ (th : Thid) (s : State) (f : FInstr),
    let t := s.thread th.toNat
    let a := t.greg f.a
    let b := t.opnd f.b
    let c := bit t.status 2
    (∀ i mn, (i, mn) ∈ [(Instr.and th, Mn.and), (.andi th, .andi)] → s.Executes th.toNat mn f →
      Completes i s (fun u => LogicResult s u th.toNat f f.d (a &&& b) c)) ∧
    (∀ i mn, (i, mn) ∈ [(Instr.or th, Mn.or), (.ori th, .ori)] → s.Executes th.toNat mn f →
      Completes i s (fun u => LogicResult s u th.toNat f f.d (a ||| b) c)) ∧
    (∀ i mn, (i, mn) ∈ [(Instr.xor th, Mn.xor), (.xori th, .xori)] → s.Executes th.toNat mn f →
      Completes i s (fun u => LogicResult s u th.toNat f f.d (a ^^^ b) c)) ∧
    (∀ i mn, (i, mn) ∈ [(Instr.andn th, Mn.andn), (.andni th, .andni)] → s.Executes th.toNat mn f →
      Completes i s (fun u => LogicResult s u th.toNat f f.d (a &&& ~~~b) c)) ∧
    (∀ i mn, (i, mn) ∈ [(Instr.tst th, Mn.tst), (.tsti th, .tsti)] → s.Executes th.toNat mn f → Completes i s (fun u =>
      StepWrites s u th.toNat 0 0 (s.pcPast th.toNat f) ∧
        FlagsBecome s u th.toNat (decide (a &&& b = 0)) (a &&& b).msb c (bit t.status 3))) ∧
    (s.Executes th.toNat .mul f → Completes (.mul th) s (fun u =>
      LogicResult s u th.toNat f f.d (BitVec.ofNat 72 (a.toNat % 2 ^ 32 * (b.toNat % 2 ^ 32))) c))

/-- R184, R223 and R224 for SHL, SHR, SAR, ROL and their immediate forms: the amount is the low 7 bits of the operand; shifts of 72 or
more give 0, or the sign for SAR; C takes the last bit shifted out and is unchanged for an amount of 0. -/
def Obligations.ShiftResults : Prop :=
  ∀ (th : Thid) (s : State) (f : FInstr),
    let t := s.thread th.toNat
    let a := t.greg f.a
    let n := (t.opnd f.b).toNat % 128
    let m := n % 72
    let c := bit t.status 2
    (∀ i mn, (i, mn) ∈ [(Instr.shl th, Mn.shl), (.shli th, .shli)] → s.Executes th.toNat mn f → Completes i s (fun u =>
      LogicResult s u th.toNat f f.d (if 72 ≤ n then 0 else a <<< n)
        (if n = 0 then c else if n ≤ 72 then a.getLsbD (72 - n) else false))) ∧
    (∀ i mn, (i, mn) ∈ [(Instr.shr th, Mn.shr), (.shri th, .shri)] → s.Executes th.toNat mn f → Completes i s (fun u =>
      LogicResult s u th.toNat f f.d (if 72 ≤ n then 0 else a >>> n)
        (if n = 0 then c else if n ≤ 72 then a.getLsbD (n - 1) else false))) ∧
    (∀ i mn, (i, mn) ∈ [(Instr.sar th, Mn.sar), (.sari th, .sari)] → s.Executes th.toNat mn f → Completes i s (fun u =>
      LogicResult s u th.toNat f f.d (if 72 ≤ n then (if a.msb then BitVec.allOnes 72 else 0) else a.sshiftRight n)
        (if n = 0 then c else if n ≤ 72 then a.getLsbD (n - 1) else a.msb))) ∧
    (∀ i mn, (i, mn) ∈ [(Instr.rol th, Mn.rol), (.roli th, .roli)] → s.Executes th.toNat mn f → Completes i s (fun u =>
      LogicResult s u th.toNat f f.d (a.rotateLeft m) (if m = 0 then c else (a.rotateLeft m).getLsbD 0)))

/-- R223 and R225 for MOV, MOVI, INSI, SEL, PSET and NOP: the value moved, no flag changed but the P of PSET. -/
def Obligations.MoveResults : Prop :=
  ∀ (th : Thid) (s : State) (f : FInstr),
    let t := s.thread th.toNat
    (s.Executes th.toNat .mov f → Completes (.mov th) s (fun u => MoveResult s u th.toNat f f.d (t.greg f.s))) ∧
    (s.Executes th.toNat .movi f → Completes (.movi th) s (fun u => MoveResult s u th.toNat f f.d (t.opnd f.b))) ∧
    (s.Executes th.toNat .insi f → Completes (.insi th) s (fun u =>
      MoveResult s u th.toNat f f.d ((t.greg f.s <<< 15) ||| t.opnd f.b))) ∧
    (s.Executes th.toNat .sel f → Completes (.sel th) s (fun u =>
      MoveResult s u th.toNat f f.d (if condHolds t.status (f.s2.toNat % 16) then t.greg f.s else t.opnd f.b))) ∧
    (s.Executes th.toNat .nop f → Completes (.nop th) s (fun u => MoveResult s u th.toNat f 0 0)) ∧
    (s.Executes th.toNat .pset f → Completes (.pset th) s (fun u =>
      StepWrites s u th.toNat 0 0 (s.pcPast th.toNat f) ∧
        (∀ i, i ≠ 4 → bit (u.thread th.toNat).status i = bit t.status i) ∧
        bit (u.thread th.toNat).status 4 = t.afterP (condHolds t.status (f.s2.toNat % 16))))

/-- R225 for EXT, INS and CLZ: the field extracted and extended, the field inserted with the other bits kept, and the number of
leading 0 bits. -/
def Obligations.FieldResults : Prop :=
  ∀ (th : Thid) (s : State) (f : FInstr),
    let t := s.thread th.toNat
    let x := t.greg f.s
    let pos := (f.s2.extractLsb' 7 7).toNat
    let len := (f.s2.extractLsb' 0 7).toNat + 1
    let c := bit t.status 2
    (s.Executes th.toNat .ext f → Completes (.ext th) s (fun u =>
      LogicResult s u th.toNat f f.d
        (if f.s2.msb then (x.extractLsb' pos len).signExtend 72 else (x.extractLsb' pos len).setWidth 72) c)) ∧
    (s.Executes th.toNat .ins f → Completes (.ins th) s (fun u => ∃ r : Word,
      (∀ i, i < 72 → r.getLsbD i = if pos ≤ i ∧ i < pos + len then x.getLsbD (i - pos) else (t.greg f.d).getLsbD i) ∧
        MoveResult s u th.toNat f f.d r)) ∧
    (s.Executes th.toNat .clz f → Completes (.clz th) s (fun u => ∃ k, k ≤ 72 ∧
      (∀ j, j < k → x.getLsbD (71 - j) = false) ∧ (k < 72 → x.getLsbD (71 - k) = true) ∧
        LogicResult s u th.toNat f f.d (BitVec.ofNat 72 k) c))

/-! ## Memory instructions -/

/-- R160, R163, R166, R208, R209, R220 and R226 for LDW, LD, POP and an LDS within one word. A word of scratchpad, or of a buffered
store that holds all the lanes, lands in g[D] with the thread's next instruction; a buffered store with a part of the lanes annuls
the load, which counts in OVLWAIT and waits in OVLAP; from the packet window, a register window or external memory the thread waits
in LOAD with its request made. A modified base is written at once and the PC moves past the instruction. -/
def Obligations.LoadResults : Prop :=
  ∀ (th : Thid) (s : State) (f : FInstr) (w : Word) (e : SbEntry) (tg : Target),
    let n := th.toNat
    let t := s.thread n
    let g := thG n
    let sp := t.greg 31
    let sa := t.symAddr f
    let one := sa.1.toNat % 8
    let meets := fun (u : State) => (u.thread n).wait = .ovlap e.ord ∧ (u.thread n).pc = t.pc ∧ (u.thread n).g = t.g ∧
      (u.thread n).sb = t.sb ∧ u.ctr (aCore g (thC n) + 0x58) = s.ctr (aCore g (thC n) + 0x58) + 1
    let goes := fun (u : State) (ea : Word) (first k r : Nat) (v : Word) =>
      (u.thread n).wait = .load ∧ (u.thread n).outst.map (fun o => (o.unit, o.dest, o.pc, o.addr, o.ans)) =
        some (tg.unit', .land f.d first k, t.pc, ea.setWidth 40, none) ∧ MoveResult s u n f r v ∧
      (∀ i d ds, tg = .packet i → t.descs = d :: ds → (u.link (144 + g)).inFlight = (s.link (144 + g)).inFlight ++
        [.window { th := n, cell := d.cell, len := d.len, write := false, word := i, data := 0, mask := 0 }]) ∧
      (∀ x, tg = .ext x → ∃ q, (u.mem (s.memPortOf x)).holds q ∧ q.ea = x ∧ q.write = false ∧ q.src = .core n (s.grove g).cyc)
    (s.Executes n .ldw f →
      (s.LoadGives n (t.greg f.s) 0xFF anyTarget w → Completes (.ldw th) s (fun u => Lands u n f.d w none ∧ MoveResult s u n f 0 0)) ∧
      (s.LoadMeets n (t.greg f.s) 0xFF anyTarget e → Completes (.ldw th) s meets) ∧
      (s.LoadGoes n (t.greg f.s) 0xFF anyTarget tg → Completes (.ldw th) s (fun u => goes u (t.greg f.s) 0 8 0 0))) ∧
    (∀ ea next, s.Executes n .ld f → t.addrM f = some (ea, next) →
      let r := if next.isSome then f.s else 0
      (s.LoadGives n ea 0xFF anyTarget w → Completes (.ld th) s (fun u => Lands u n f.d w none ∧
        MoveResult s u n f r (next.getD 0))) ∧
      (s.LoadMeets n ea 0xFF anyTarget e → Completes (.ld th) s meets) ∧
      (s.LoadGoes n ea 0xFF anyTarget tg → Completes (.ld th) s (fun u => goes u ea 0 8 r (next.getD 0)))) ∧
    (s.Executes n .pop f → t.dsbase.toNat ≤ sp.toNat → sp.toNat < t.dslim.toNat →
      (s.LoadGives n sp 0xFF anyTarget w → Completes (.pop th) s (fun u => Lands u n f.d w none ∧ MoveResult s u n f 31 (sp + 1))) ∧
      (s.LoadMeets n sp 0xFF anyTarget e → Completes (.pop th) s meets)) ∧
    (s.Executes n .lds f → t.noStep → one + sa.2 ≤ 8 →
      (s.LoadGives n (sa.1 >>> 3) (lanesFrom one sa.2) Target.symbols w → Completes (.lds th) s (fun u =>
        Lands u n f.d (takeLanes w one sa.2) none ∧ MoveResult s u n f 0 0)) ∧
      (s.LoadMeets n (sa.1 >>> 3) (lanesFrom one sa.2) Target.symbols e → Completes (.lds th) s meets) ∧
      (s.LoadGoes n (sa.1 >>> 3) (lanesFrom one sa.2) Target.symbols tg → Completes (.lds th) s (fun u =>
        goes u (sa.1 >>> 3) one sa.2 0 0)))

/-- R214: an LDS over two words takes two steps; the first keeps the lanes of the first word, with PROG 1, the PC in place and every
register as it was, and the second joins the lanes of the second word above them. Model's choice: log entry 13. -/
def Obligations.SplitLoadSteps : Prop :=
  ∀ (th : Thid) (s : State) (f : FInstr) (w : Word),
    let t := s.thread th.toNat
    let sa := t.symAddr f
    let first := sa.1.toNat % 8
    s.Executes th.toNat .lds f → 8 < first + sa.2 → t.pendSt = none → t.outst = none →
      (t.prog = 0 → s.LoadGives th.toNat (sa.1 >>> 3) (lanesFrom first (8 - first)) Target.symbols w → Completes (.lds th) s (fun u =>
        (u.thread th.toNat).prog = 1 ∧ (u.thread th.toNat).pc = t.pc ∧ (u.thread th.toNat).latchV = true ∧
          (u.thread th.toNat).latch = takeLanes w first (8 - first) ∧ (u.thread th.toNat).g = t.g)) ∧
      (t.prog = 1 → t.latchV = true →
        s.LoadGives th.toNat ((sa.1 >>> 3) + 1) (lanesFrom 0 (first + sa.2 - 8)) Target.symbols w → Completes (.lds th) s (fun u =>
          (u.thread th.toNat).prog = 0 ∧ (u.thread th.toNat).pc = s.pcPast th.toNat f ∧
            Lands u th.toNat f.d (t.latch ||| (takeLanes w 0 (first + sa.2 - 8) <<< (9 * (8 - first)))) none ∧
            ∀ r, r ≠ 0 → (u.thread th.toNat).greg r = t.after r (t.greg r)))

/-- R164, R209, R215, R220 and R226 for STW, ST, STM, PUSH and STS: each store enters the thread's buffer with its word address, its
lanes and its data, no memory word changes yet, and a modified base is written. -/
def Obligations.StoreResults : Prop :=
  ∀ (th : Thid) (s : State) (f : FInstr),
    let t := s.thread th.toNat
    let sp := t.greg 31
    let stw : List StoreReq := [{ ea := t.greg f.d, data := t.greg f.s, mask := 0xFF }]
    let stm : List StoreReq :=
      [{ ea := t.greg f.s + (f.s2.extractLsb' 0 7).signExtend 72, data := t.greg f.d, mask := f.s2.extractLsb' 7 8 }]
    let push : List StoreReq := [{ ea := sp - 1, data := t.greg f.s, mask := 0xFF }]
    let sts := stsReqs (t.symAddr f).1 (t.greg f.d) (t.symAddr f).2
    (s.Executes th.toNat .stw f → s.MayStore th.toNat stw anyTarget → Completes (.stw th) s (fun u =>
      Buffers s u th.toNat stw ∧ MoveResult s u th.toNat f 0 0)) ∧
    (∀ ea next, s.Executes th.toNat .st f → t.addrM f = some (ea, next) →
      s.MayStore th.toNat [{ ea := ea, data := t.greg f.d, mask := 0xFF }] anyTarget →
      Completes (.st th) s (fun u => Buffers s u th.toNat [{ ea := ea, data := t.greg f.d, mask := 0xFF }] ∧
        MoveResult s u th.toNat f (if next.isSome then f.s else 0) (next.getD 0))) ∧
    (s.Executes th.toNat .stm f → s.MayStore th.toNat stm anyTarget → Completes (.stm th) s (fun u =>
      Buffers s u th.toNat stm ∧ MoveResult s u th.toNat f 0 0)) ∧
    (s.Executes th.toNat .push f → t.dsbase.toNat < sp.toNat → sp.toNat ≤ t.dslim.toNat →
      s.MayStore th.toNat push anyTarget → Completes (.push th) s (fun u =>
        Buffers s u th.toNat push ∧ MoveResult s u th.toNat f 31 (sp - 1))) ∧
    (s.Executes th.toNat .sts f → s.MayStore th.toNat sts Target.symbols → Completes (.sts th) s (fun u =>
      Buffers s u th.toNat sts ∧ MoveResult s u th.toNat f 0 0))

/-- R228: a step of BMOV from scratchpad stores word k of the source at word k of the destination, for k of PROG, and counts PROG on;
the step of the last word clears PROG and moves past the instruction. Model's choice: log entry 13. -/
def Obligations.BlockMoveStep : Prop :=
  ∀ (th : Thid) (s : State) (f : FInstr) (w : Word),
    let t := s.thread th.toNat
    let k := t.prog
    let count := (f.s2.extractLsb' 0 7).toNat
    let st : List StoreReq := [{ ea := t.greg f.d + BitVec.ofNat 72 k, data := w, mask := 0xFF }]
    s.Executes th.toNat .bmov f → t.noStep → k < count →
      s.LoadGives th.toNat (t.greg f.s + BitVec.ofNat 72 k) 0xFF Target.symbols w → s.MayStore th.toNat st Target.symbols →
      Completes (.bmov th) s (fun u => Buffers s u th.toNat st ∧
        (∀ r, r ≠ 0 → (u.thread th.toNat).greg r = if k + 1 = count then t.after r (t.greg r) else t.greg r) ∧
        (u.thread th.toNat).prog = (if k + 1 = count then 0 else (k + 1) % 64) ∧
        (u.thread th.toNat).pc = if k + 1 = count then s.pcPast th.toNat f else t.pc)

/-- R231 for MACX, MACX.I and MACX.C with both words in scratchpad banks that differ: the accumulator pair takes the sum, or the
carry-less sum, of the product, and the two pointers move on; a load that is pending lands with the last step.
Model's choice: log entry 13. -/
def Obligations.MultiplyAccumulate : Prop :=
  ∀ (th : Thid) (s : State) (f : FInstr) (a b na nb : Word) (x y : Nat) (p q : Bool),
    let t := s.thread th.toNat
    let acc := t.acch.toNat * 2 ^ 72 + t.accl.toNat
    let sum := fun cl : Bool => if cl then acc ^^^ clmul a b else acc + a.toNat % 2 ^ 32 * (b.toNat % 2 ^ 32)
    let count := (f.s2.extractLsb' 0 6).toNat
    let ends := fun (u : State) (cl last : Bool) =>
      (u.thread th.toNat).acch.toNat * 2 ^ 72 + (u.thread th.toNat).accl.toNat = sum cl % 2 ^ 144 ∧
      ∀ r, r ≠ 0 → (u.thread th.toNat).greg r =
        let v := if r = f.s then nb else if r = f.d then na else t.greg r
        if last then t.after r v else v
    s.checkAccess th.toNat (t.greg f.d) false = .ok (.spad x p) → s.checkAccess th.toNat (t.greg f.s) false = .ok (.spad y q) →
    x / 4096 ≠ y / 4096 → s.SpadReads th.toNat (t.greg f.d) a → s.SpadReads th.toNat (t.greg f.s) b → t.noStep →
      (s.Executes th.toNat .macx f → t.prog ≤ count →
        t.macNext (bit f.s2 13) 0 (t.greg f.d) = some na → t.macNext (bit f.s2 12) 1 (t.greg f.s) = some nb →
        Completes (.macx th) s (fun u => ends u (bit f.s2 14) (decide (t.prog = count)) ∧
          (u.thread th.toNat).prog = (if t.prog = count then 0 else t.prog + 1) ∧
          (u.thread th.toNat).pc = if t.prog = count then s.pcPast th.toNat f else t.pc)) ∧
      (na = t.greg f.d + 1 → nb = t.greg f.s + 1 → t.prog = 0 →
        (s.Executes th.toNat .macxI f → Completes (.macxI th) s (fun u => ends u false true ∧
          (u.thread th.toNat).pc = s.pcPast th.toNat f)) ∧
        (s.Executes th.toNat .macxC f → Completes (.macxC th) s (fun u => ends u true true ∧
          (u.thread th.toNat).pc = s.pcPast th.toNat f)))

/-- R233 and R234 for AADD and ASWP: with an empty store buffer and a word in an owned scratchpad bank, the word takes its sum with the
operand, or the operand, every other scratchpad word stays, and the old word lands in g[D]. -/
def Obligations.AtomicResults : Prop :=
  ∀ (th : Thid) (s : State) (f : FInstr) (phys : Nat) (p : Bool),
    let t := s.thread th.toNat
    let g := thG th.toNat
    let ea := t.greg f.s + (f.s2.extractLsb' 0 10).signExtend 72
    let old := mget 0 (s.grove g).scratch phys
    let ends := fun (u : State) (new : Word) =>
      (∀ a, mget 0 (u.grove g).scratch a = if a = phys then new else mget 0 (s.grove g).scratch a) ∧
      (∀ h, h ≠ g → (u.grove h).scratch = (s.grove h).scratch) ∧ Lands u th.toNat f.d old none ∧ MoveResult s u th.toNat f 0 0
    t.sb = [] → s.checkAccess th.toNat ea true = .ok (.spad phys p) → mget 0 (s.grove g).secc phys = 0 →
      (s.Executes th.toNat .aadd f → Completes (.aadd th) s (fun u => ends u (old + t.opnd f.b))) ∧
      (s.Executes th.toNat .aswp f → Completes (.aswp th) s (fun u => ends u (t.opnd f.b)))

/-! ## Control transfers, control registers, TRAP and DONE -/

/-- R217, R218, R219 and R236 for B, JR, CALL, CALLR and RET: where the PC goes, what CALL pushes, and what RET pops; no general
register and no flag changes. -/
def Obligations.TransferResults : Prop :=
  ∀ (th : Thid) (s : State) (f : FInstr),
    let t := s.thread th.toNat
    let disp := t.pc + f.s2.signExtend 24
    let goes := fun (u : State) (pc : BitVec 24) => StepWrites s u th.toNat 0 0 pc ∧ FlagsKept s u th.toNat
    let pushed := fun (u : State) (n : Nat) => (u.thread th.toNat).rsp = t.rsp + 1 ∧
      ∀ i, mget 0 (u.thread th.toNat).rstack i =
        if i = t.rsp then BitVec.ofNat 72 (t.status.toNat * 2 ^ 24 + (t.pc + BitVec.ofNat 24 n).toNat) else mget 0 t.rstack i
    let top := mget 0 t.rstack (t.rsp - 1)
    (s.Executes th.toNat .b f → Completes (.b th) s (fun u => goes u disp ∧ (u.thread th.toNat).rstack = t.rstack)) ∧
    (s.Executes th.toNat .jr f → Completes (.jr th) s (fun u => goes u ((t.greg f.s).setWidth 24))) ∧
    (s.Executes th.toNat .call f → t.rsp < 15 → Completes (.call th) s (fun u => goes u disp ∧ pushed u f.size)) ∧
    (s.Executes th.toNat .callr f → t.rsp < 15 → Completes (.callr th) s (fun u =>
      goes u ((t.greg f.s).setWidth 24) ∧ pushed u f.size)) ∧
    (s.Executes th.toNat .ret f → t.rsp ≠ 0 → mget 0 t.ecc (47 + t.rsp) = 0 → Completes (.ret th) s (fun u =>
      goes u (top.setWidth 24) ∧ (u.thread th.toNat).rsp = t.rsp - 1))

/-- R218 and R259 for RETX under TCEIL 1, or to U mode, or below another entry of KIND 1: the PC and STATUS of the top entry are
restored and NMIACT clears once RSP is back at NMIDEPTH. -/
def Obligations.ReturnFromException : Prop :=
  ∀ (th : Thid) (s : State) (f : FInstr),
    let t := s.thread th.toNat
    let top := mget 0 t.rstack (t.rsp - 1)
    s.Executes th.toNat .retx f → t.rsp ≠ 0 → mget 0 t.ecc (47 + t.rsp) = 0 →
      (top.getLsbD 55 = false ∨ t.tceilA = true ∨ t.inHandlerBelow = true) →
      Completes (.retx th) s (fun u =>
        (u.thread th.toNat).pc = top.setWidth 24 ∧ (u.thread th.toNat).rsp = t.rsp - 1 ∧
        (∀ i, i < 32 → i ≠ 4 → bit (u.thread th.toNat).status i = (decide (i < 5 ∨ 16 ≤ i) && top.getLsbD (24 + i))) ∧
        (u.thread th.toNat).nmiact = (t.nmiact && decide (t.nmidepth.toNat < t.rsp - 1)))

/-- R186 for MFC and MTC: each control register that an MFC reads gives its value to g[D], among them the Block Time of the grove's
copy in the cycle of the step; each that an MTC writes takes its bits. Model's choice: log entry 92. -/
def Obligations.ControlRegisters : Prop :=
  ∀ (th : Thid) (s : State) (f : FInstr),
    let t := s.thread th.toNat
    let n := (f.s2.extractLsb' 0 6).toNat
    let w := t.greg f.s
    (s.Executes th.toNat .mfc f → ∀ v : Word,
      (n, v) ∈ [(0, t.status.setWidth 72), (1, t.accl), (2, t.acch), (3, t.dsbase.setWidth 72), (4, t.dslim.setWidth 72),
        (5, BitVec.ofNat 72 t.rsp), (8, mget 0 t.modP 0), (9, mget 0 t.modP 1), (10, mget 0 t.modP 2), (11, mget 0 t.modP 3),
        (16, t.tvec.setWidth 72), (17, t.cause.setWidth 72), (18, t.badins.setWidth 72), (19, t.badaddr.setWidth 72),
        (20, t.lcrpc.setWidth 72), (21, t.lcrst.setWidth 72), (22, BitVec.ofNat 72 (b1 t.tceilP)), (32, th.setWidth 72),
        (33, (s.openCycle (thG th.toNat)).stamp (10 + thG th.toNat))] →
      Completes (.mfc th) s (fun u => MoveResult s u th.toNat f f.d v)) ∧
    (s.Executes th.toNat .mtc f → Completes (.mtc th) s (fun u =>
      let x := u.thread th.toNat
      StepWrites s u th.toNat 0 0 (s.pcPast th.toNat f) ∧
      x.accl = (if n = 1 then w else t.accl) ∧ x.acch = (if n = 2 then w else t.acch) ∧
      x.dsbase = (if n = 3 then w.setWidth 17 else t.dsbase) ∧ x.dslim = (if n = 4 then w.setWidth 17 else t.dslim) ∧
      x.tvec = (if n = 16 then w.setWidth 24 else t.tvec) ∧
      x.cause = (if n = 17 then w.setWidth 6 else t.cause) ∧
      x.lcrpc = (if n = 20 then w.setWidth 24 else t.lcrpc) ∧ x.lcrst = (if n = 21 then w.setWidth 32 else t.lcrst) ∧
      (∀ k, k < 4 → mget 0 x.modP k = if n = 8 + k then modValue w else mget 0 t.modP k) ∧
      x.tceilP = (if n = 22 ∧ bit w 0 = false then false else t.tceilP) ∧
      (n ≠ 0 → FlagsKept s u th.toNat) ∧
      (n = 0 → ∀ i, i < 4 → bit x.status i = bit w i) ∧
      (n = 0 → ∀ i, 5 ≤ i → i < 32 → bit x.status i =
        if t.isS then (decide (16 ≤ i) && bit w i) else bit t.status i)))

/-- R154, R169, R170 and R237: SYNC with an empty store buffer makes the thread's pending copies active, and those of its core
that were written since their last commit: the bank map at once, the slot table from the next revolution boundary unless R154
refuses it; TRAP takes the exception TRAP, with the following PC and the present status pushed with KIND 1.
Model's choice: log entry 16. -/
def Obligations.SyncAndTrap : Prop :=
  ∀ (th : Thid) (s : State) (f : FInstr),
    let t := s.thread th.toNat
    let g := thG th.toNat
    let c := thC th.toNat
    let k := s.core (coreKey g c)
    (s.Executes th.toNat .sync f → t.sb = [] → Completes (.sync th) s (fun u =>
      let x := u.thread th.toNat
      let l := u.core (coreKey g c)
      MoveResult s u th.toNat f 0 0 ∧ x.modA = t.modP ∧ x.tceilA = t.tceilP ∧ x.thcfgA = t.thcfgP ∧ x.syncp = false ∧
      l.slotAct = k.slotAct ∧ (k.slotDirty = false → l.slotNext = k.slotNext) ∧
      (k.slotDirty = true → slotTableOk (s.slotPending g c) = true → l.slotNext = some (s.slotPending g c) ∧ l.slotDirty = false) ∧
      (k.slotDirty = true → slotTableOk (s.slotPending g c) = false →
        l.slotNext = k.slotNext ∧ bit (u.reg (aCore g c + 4)) 3 = true) ∧
      l.bankAct = (if k.bankDirty then s.bankPending g c else k.bankAct) ∧ l.bankDirty = false)) ∧
    (s.Executes th.toNat .trap f → t.rsp < 16 → Completes (.trap th) s (fun u =>
      EntryMade s u th.toNat 0x0E (t.pc + 2) ∧ (u.thread th.toNat).badins = f.raw ∧
        (u.thread th.toNat).badaddr = t.badaddr))

/-- R55, R56, R239, R240 and R241 for DONE: with N 0 the completion of the thread's first descriptor enters the grove's queue with no
copies; the first step takes the operand and the first list word; the step of the last list word places the completion with the
copies of the list; an earlier step keeps its word and counts PROG on; a buffered store, or a queue without room, makes the step an
attempt that waits; N of 17 or more and an E0 word with a reserved field raise RSVD; a thread without a descriptor and without a share
in service parks. -/
def Obligations.DoneResults : Prop :=
  ∀ (th : Thid) (s : State) (f : FInstr),
    let t := s.thread th.toNat
    let g := thG th.toNat
    let op := t.greg f.s
    let placed := fun (u : State) (d : Desc) (l : List Emit) =>
      (u.grove g).cq = (s.grove g).cq ++ [{ comp := d.completion l, left := cqNeed l.length }] ∧
      (u.grove g).free = (s.grove g).free + 1 ∧ (u.link (136 + g)).inFlight = (s.link (136 + g)).inFlight ++ [.credit]
    let tries := fun (u : State) (w : Wait) => (u.thread th.toNat).wait = w ∧ (u.thread th.toNat).pc = t.pc ∧
      (u.thread th.toNat).prog = t.prog ∧ (u.thread th.toNat).emits = t.emits ∧ (u.thread th.toNat).descs = t.descs ∧
      (u.thread th.toNat).g = t.g ∧ (u.grove g).cq = (s.grove g).cq
    let first := (op.extractLsb' 20 5).toNat
    let list := BitVec.ofNat 72 (op.toNat % 2 ^ 17)
    let refuses := fun (u : State) (bad : Word) => EntryMade s u th.toNat 0x02 t.pc ∧
      (u.thread th.toNat).badaddr = bad.setWidth 40 ∧ (u.thread th.toNat).descs = t.descs ∧ (u.grove g).cq = (s.grove g).cq
    (∀ d rest, s.Executes th.toNat .done f → t.descs = d :: rest →
      (t.prog = 0 → t.sb ≠ [] → Completes (.done th) s (fun u => tries u .drain)) ∧
      (t.prog = 0 → t.sb = [] → first = 0 →
        ((s.grove g).cqOcc < 64 → Completes (.done th) s (fun u => placed u d [])) ∧
        (64 ≤ (s.grove g).cqOcc → Completes (.done th) s (fun u => tries u (.cqfull 1)))) ∧
      (∀ w, t.prog = 0 → t.sb = [] → first ≠ 0 → first ≤ 16 → s.SpadReads th.toNat list w →
        (e0Ok w = true → Completes (.done th) s (fun u =>
          (u.thread th.toNat).prog = 1 ∧ (u.thread th.toNat).emits = [w] ∧ (u.thread th.toNat).doneOp = op ∧
          (u.thread th.toNat).pc = t.pc ∧ (u.thread th.toNat).descs = t.descs ∧ (u.grove g).cq = (s.grove g).cq)) ∧
        (e0Ok w = false → t.rsp < 16 → Completes (.done th) s (fun u => refuses u list))) ∧
      (t.prog = 0 → t.sb = [] → 17 ≤ first → t.rsp < 16 → Completes (.done th) s (fun u => refuses u op)) ∧
      (∀ w n, t.prog ≠ 0 → t.emits.length = t.prog → n = (t.doneOp.extractLsb' 20 5).toNat → n ≤ 16 →
        t.prog + 1 ≤ 2 * n → s.SpadReads th.toNat (BitVec.ofNat 72 (t.doneOp.toNat % 2 ^ 17 + t.prog)) w →
        (t.prog + 1 = 2 * n →
          ((s.grove g).cqOcc + cqNeed n ≤ 64 → Completes (.done th) s (fun u => placed u d (emitsOf (t.emits ++ [w])))) ∧
          (64 < (s.grove g).cqOcc + cqNeed n → Completes (.done th) s (fun u => tries u (.cqfull (cqNeed n))))) ∧
        (t.prog + 1 < 2 * n → (t.prog % 2 = 0 → e0Ok w = true) → Completes (.done th) s (fun u =>
          (u.thread th.toNat).prog = t.prog + 1 ∧ (u.thread th.toNat).emits = t.emits ++ [w] ∧
          (u.thread th.toNat).pc = t.pc ∧ (u.grove g).cq = (s.grove g).cq)))) ∧
    (s.Executes th.toNat .done f → t.descs = [] → t.sb = [] → t.prog = 0 → t.noStep → t.parkReq = false →
      (s.hasShare th.toNat && s.thService th.toNat) = false →
      Completes (.donePark th) s (fun u => (u.thread th.toNat).wait = .parkedDone ∧ MoveResult s u th.toNat f 0 0))

/-! ## Units of a grove -/

/-- R242, R244 and R307 for LOCK, TRYL, UNLK, WAITE, SIGE and CLRE: the grant of a free lock, the release to the oldest waiter that an
entry has not taken out of its wait as the cycle began (R264), and the event flag. A WAITE passes, and every thread waiting on the flag
is released, when the flag reads 1 at the end of the grove's cycle, which the step of the last core ends; a flag that has risen by
then sets the line of its route. -/
def Obligations.LockAndEventResults : Prop :=
  ∀ (th : Thid) (s : State) (f : FInstr),
    let t := s.thread th.toNat
    let g := thG th.toNat
    let k := (t.greg f.s + BitVec.ofNat 72 (f.s2.toNat % 256)).toNat % 256
    let e := (t.greg f.s + BitVec.ofNat 72 (f.s2.toNat % 256)).toNat % 64
    let v := s.openCycle g
    let free := (v.lock g k).holder = none ∧ (v.lock g k).waiters = []
    let past := fun u : State => (u.thread th.toNat).pc = s.pcPast th.toNat f
    (s.Executes th.toNat .lock f → free → (∀ v ∈ s.heldLocks th.toNat, v < k) → Completes (.lock th) s (fun u =>
      (u.lock g k).holder = some th.toNat ∧ past u)) ∧
    (s.Executes th.toNat .tryl f → Completes (.tryl th) s (fun u =>
      (free → (u.lock g k).holder = some th.toNat ∧ Lands u th.toNat 0 0 (some true)) ∧
      (¬ free → (u.lock g k).holder = (s.lock g k).holder ∧ Lands u th.toNat 0 0 (some false)) ∧ past u)) ∧
    (s.Executes th.toNat .unlk f → t.sb = [] → (s.lock g k).holder = some th.toNat → th.toNat ∉ (v.lock g k).waiters →
      Completes (.unlk th) s (fun u => (u.lock g k).holder = (v.lock g k).waiters.head? ∧ past u)) ∧
    (s.Executes th.toNat .waite f → t.parkReq = false →
      (s.LastOfCycle th.toNat → bit (s.grove g).flags e = true → Completes (.waite th) s (fun u =>
        past u ∧ (u.thread th.toNat).wait = .ready)) ∧
      ((¬ s.LastOfCycle th.toNat ∨ bit (s.grove g).flags e = false) → Completes (.waite th) s (fun u =>
        (u.thread th.toNat).wait = .event e ∧ (u.thread th.toNat).pc = t.pc))) ∧
    (s.Executes th.toNat .sige f → t.sb = [] → Completes (.sige th) s (fun u =>
      (∀ i, i < 64 → bit (u.grove g).flags i = if i = e then true else bit (s.grove g).flags i) ∧ past u ∧
      (s.LastOfCycle th.toNat →
        (∀ x, x < 4096 → thG x = g → (s.thread x).wait = .event e → (s.thread x).parkReq = false → (u.thread x).wait = .ready) ∧
        let r := (s.reg (aLocks g + 0x500 + 4 * e)).toNat
        let was := if (s.beat g).inCycle then (s.beat g).flags else (s.grove g).flags
        (bit was e = false → r / 2 ^ 31 % 2 = 1 →
          bit (u.thread (thid g (r / 2 ^ 9 % 32) (r / 2 ^ 5 % 16))).lines (r % 8) = true)))) ∧
    (s.Executes th.toNat .clre f → Completes (.clre th) s (fun u =>
      (∀ i, i < 64 → bit (u.grove g).flags i = if i = e then false else bit (s.grove g).flags i) ∧ past u))

/-- R243 for SEND and RECV on a channel on which no thread waits: a SEND without LAST stages its word, one with LAST makes the message
visible, and a RECV lands the next word of the oldest unbound message with P 1 at its last word. -/
def Obligations.ChannelResults : Prop :=
  ∀ (th : Thid) (s : State) (f : FInstr) (words : List Word),
    let t := s.thread th.toNat
    let g := thG th.toNat
    let k := (t.greg f.s + BitVec.ofNat 72 (f.s2.toNat % 256)).toNat % 64
    let c := s.chan g k
    let past := fun u : State => (u.thread th.toNat).pc = s.pcPast th.toNat f
    c.readers = [] → c.writers = [] →
    (s.Executes th.toNat .send f → t.sb = [] → words.length ≤ 3 →
      (t.staging = some (k, words) ∨ t.staging = none ∧ words = []) →
      (f.s2.msb = false → Completes (.send th) s (fun u =>
        (u.thread th.toNat).staging = some (k, words ++ [t.greg f.d]) ∧ (u.chan g k).msgs = c.msgs ∧ past u)) ∧
      (f.s2.msb = true → c.msgs.length < 4 → Completes (.send th) s (fun u =>
        (u.thread th.toNat).staging = none ∧
        (u.chan g k).msgs = c.msgs ++ [{ words := words ++ [t.greg f.d], reader := none }] ∧ past u))) ∧
    (∀ w rest ms, s.Executes th.toNat .recv f → t.bound = none → c.msgs = { words := w :: rest, reader := none } :: ms →
      Completes (.recv th) s (fun u => Lands u th.toNat f.d w (some (decide (rest = []))) ∧
        (u.chan g k).msgs = (if rest = [] then ms else { words := rest, reader := some th.toNat } :: ms) ∧ past u))

/-- R245 to R250 and R503 for PARSE, CRCF, CSUM and TSCF: with a descriptor, no store to the packet window buffered and the range
within the packet, the request with its answer joins its helper's queue and the thread waits in LOAD. The answer of PARSE is the word of
R247 with what its header gives: the tags before ETYPE, the PRP trailer, the IP header with its options or extension headers, the place
and protocol of the transport header, and TRUNC. The answer of CRCF is the FCS
of the range, by CRC-32 with POLY 0 and CRC-16 with POLY 1, with P 1 when the range ends with the FCS of what precedes it; that of TSCF is
a packet word with the symbols of the new correction field in their places. When a word that the helper reads holds an uncorrectable
error, the answer is an error. Model's choices: log entries 25, 97 and 127. -/
def Obligations.HelperRequests : Prop :=
  ∀ (th : Thid) (s : State) (f : FInstr) (d : Desc) (ds : List Desc),
    let t := s.thread th.toNat
    let g := thG th.toNat
    let op := t.greg f.s
    let o := op.toNat % 2 ^ 14
    let n := if bit f.s2 11 then d.len - o else (op.toNat / 2 ^ 16) % 2 ^ 14
    let add := if bit f.s2 10 then (t.greg f.d).toNat % 65536 else 0
    let waits := fun u : State => (u.thread th.toNat).wait = .load ∧ (u.thread th.toNat).pc = s.pcPast th.toNat f ∧
      (u.thread th.toNat).outst.map (·.dest) = some (.result f.d)
    let req := fun (first count : Nat) (w : Word) (p : Option Bool) => HelperReq.mk th.toNat
      (if (symWords first count).any (fun k => s.pktMark d.cell d.len k = 2) then .eccu else .word w) p
    let l := s.syms d o n
    let poly := f.s2.toNat / 2 ^ 12 % 8
    let fcs := fun x : List Byte => if poly = 0 then crc32 x else crc16 x
    let size := if poly = 0 then 4 else 2
    let half := b1 f.s2.msb
    let at' := 8 * (o / 8 + half)
    let cf := beBytes 8 ((beNat (s.syms d o 8) + 2 ^ 64 - t16 d.its) % 2 ^ 64)
    t.descs = d :: ds → t.pwStore = false →
    (s.Executes th.toNat .parse f → o < d.len → d.len < 2 ^ 14 → Completes (.parse th) s (fun u => waits u ∧ ∃ w : Word,
      (u.grove g).parseQ = (s.grove g).parseQ ++ [req o (min 256 (d.len - o)) w none] ∧
      let field := fun lo k : Nat => w.toNat / 2 ^ lo % 2 ^ k
      let found := fun l : List Nat => w.toNat / 2 ^ 64 = 0 ∧ field 0 3 = 0 ∧ [field 50 14, field 36 14, field 28 8, field 12 16,
        field 10 2, field 9 1, field 8 1, field 6 2, field 5 1, field 4 1, field 3 1] = l
      let b := fun k : Nat => (lane (s.pktWord d.cell d.len (k / 8)) (k % 8)).toNat % 256
      (f.s2.toNat / 2 ^ 13 = 0 → ParsesEth b d.len o ((s.reg (aHelp g)).toNat % 65536) found) ∧
      (f.s2.toNat / 2 ^ 13 = 1 → ParsesIp b (min d.len (o + 256)) o (b o / 16) (fun l4off l3off l4p l3k frag opt trunc =>
        found [l4off, l3off, l4p, 0, 0, 0, 0, l3k, frag, opt, trunc])))) ∧
    (n ≠ 0 → o + n ≤ d.len →
      (s.Executes th.toNat .crcf f → Completes (.crcf th) s (fun u => waits u ∧ (u.grove g).crcQ = (s.grove g).crcQ ++
        [req o n (crcAnswer poly l).1 (some (crcAnswer poly l).2)] ∧ (crcAnswer poly l).1 = BitVec.ofNat 72 (fcs l) ∧
        ((crcAnswer poly l).2 = true ↔ size ≤ n ∧ leNat (l.drop (n - size)) = fcs (l.take (n - size))))) ∧
      (s.Executes th.toNat .csum f → Completes (.csum th) s (fun u => waits u ∧ ∃ sum, sum ≤ 0xFFFF ∧
        sum % 65535 = (sum16 l + add) % 65535 ∧ (sum = 0 ↔ sum16 l + add = 0) ∧
        (u.grove g).crcQ = (s.grove g).crcQ ++ [req o n (BitVec.ofNat 72 sum) (some (decide (sum = 0xFFFF)))]))) ∧
    (s.Executes th.toNat .tscf f → o + 8 ≤ d.len → Completes (.tscf th) s (fun u => waits u ∧
      (u.grove g).tscfQ = (s.grove g).tscfQ ++
        [req (min o at') (at' + 8 - min o at') (s.tscfAnswer d o half).1 (some (decide (o % 8 ≠ 0)))] ∧
      ∀ i, i < 8 → lane (s.tscfAnswer d o half).1 i =
        if o ≤ at' + i ∧ at' + i < o + 8 then (cf[at' + i - o]?.getD 0).setWidth 9
        else lane (s.pktWord d.cell d.len (o / 8 + half)) i))

/-- R251, R252, R332 and R472 for LKUP and the extension instructions: the request with its operands leaves, and the thread
waits in LOAD, or in XUNIT, for the answer that goes to g[D]; the unit is shown it in the next cycle unless an older request
waits. Model's choice: log entry 47. -/
def Obligations.UnitRequests : Prop :=
  ∀ (th : Thid) (s : State) (f : FInstr),
    let t := s.thread th.toNat
    let g := thG th.toNat
    let table := (f.s2.toNat / 2 ^ 7) % 256
    let waits := fun (u : State) (w : Wait) => (u.thread th.toNat).wait = w ∧ (u.thread th.toNat).pc = s.pcPast th.toNat f ∧
      (u.thread th.toNat).outst.map (·.dest) = some (.result f.d)
    let made := fun since : Option Nat => (XReq.mk th.toNat (BitVec.ofNat 4 ((f.raw.toNat / 2 ^ 25) % 128 - 0x70)) f.s2 (t.greg f.s)
      (t.greg f.d) false since)
    let request := fun u : State =>
      ((∀ r ∈ (s.grove g).xreqs, r.xfer = true) →
        (u.grove g).xreqs = (s.grove g).xreqs ++ [made (some ((s.grove g).cyc + 1))]) ∧
      ((∀ r ∈ (s.grove g).xreqs, r.xfer = false → r.since.isSome = true) → (∃ r ∈ (s.grove g).xreqs, r.xfer = false) →
        (u.grove g).xreqs = (s.grove g).xreqs ++ [made none])
    (s.Executes th.toNat .lkup f → table < 64 → bit (s.reg (aTable table)) 31 = true →
      bit (s.reg (aTable table)) 30 = bit f.s2 6 → Completes (.lkup th) s (fun u => waits u .load ∧
        (u.link (168 + g)).inFlight = (s.link (168 + g)).inFlight ++ [.lookup {
          th := th.toNat, since := (s.grove g).cyc, table := table, lpm := bit f.s2 6,
          key := BitVec.ofNat 144 ((t.greg ((f.s + 1) % 32)).toNat * 2 ^ 72 + (t.greg f.s).toNat) }])) ∧
    (bit (s.reg (aExt g)) 31 = true →
      (s.Executes th.toNat .xop f → Completes (.extensionOp th) s (fun u => waits u .xunit ∧ request u)) ∧
      (s.Executes th.toNat .xprobe f → Completes (.extensionProbe th) s (fun u => waits u .xunit ∧ request u)))

/-! ## Exceptions and the events of a core -/

/-- R201, R257, R258, R263, R266, R268, R273 and R279 for EXCEPTION_ENTRY: the entry that a release with HREL.ACT 1 makes anew, an aborted
staging, an NMI raised, the recovery thread's HOLD, STALL and WDOG, a maskable line, a breakpoint with ACT 1, and the fault of a fetch,
each with its cause, what it clears and what it reports. A line taken is cleared, unless a flag that rises in the same cycle sets it anew (R307).
Model's choice: log entry 16. -/
def Obligations.ExceptionEntries : Prop :=
  ∀ (th : Thid) (s : State),
    let n := th.toNat
    let t := s.thread n
    let nmi := fun (u : State) (who : Nat) => (u.thread n).nmiact = true ∧ (u.thread n).nmidepth = BitVec.ofNat 5 t.rsp ∧
      (u.thread n).xNmi = true ∧ (u.thread n).srcth = BitVec.ofNat 12 who
    s.Chosen n → t.rsp < 16 →
      (s.dueNow n = some .retry → Completes (.exceptionEntry th) s (fun u => EntryMade s u n t.ocause t.pc ∧
        (u.thread n).badaddr = t.retry.bad.getD t.badaddr ∧ (u.thread n).badins = t.retry.badins.getD t.badins ∧
        (u.thread n).xInt = (match t.retry.kind with | .line _ => true | _ => false) ∧
        (u.thread n).xNmi = (match t.retry.kind with | .nmi _ => true | _ => false) ∧ (u.thread n).retryDue = false)) ∧
      (s.dueNow n = some .chabrt → Completes (.exceptionEntry th) s (fun u => EntryMade s u n 0x0D t.pc ∧
        (u.thread n).chabp = false ∧ (u.thread n).badaddr = BitVec.ofNat 40 t.chabch)) ∧
      (s.dueNow n = some .nmiext → Completes (.exceptionEntry th) s (fun u => EntryMade s u n 0x13 t.pc ∧
        nmi u (s.recovery (thG n)) ∧ (u.thread n).nmip = false)) ∧
      (∀ h reason, s.dueNow n = some (.hold h reason) → Completes (.exceptionEntry th) s (fun u =>
        EntryMade s u n (if reason = 2 then 0x0B else 0x07) t.pc ∧ nmi u h ∧
        ∀ e ∈ (u.grove (thG n)).holdQ, e.th = h → e.reported = true)) ∧
      (s.dueNow n = some .stall → Completes (.exceptionEntry th) s (fun u => EntryMade s u n 0x12 t.pc ∧
        nmi u (s.recovery (thG n)) ∧ (u.grove (thG n)).nmiStall = false)) ∧
      (s.dueNow n = some .wdog → Completes (.exceptionEntry th) s (fun u => EntryMade s u n 0x14 t.pc ∧
        nmi u (s.recovery (thG n)) ∧ (u.grove (thG n)).nmiWdog = false)) ∧
      (∀ i, i < 8 → s.dueNow n = some (.line i) → Completes (.exceptionEntry th) s (fun u =>
        EntryMade s u n (if bit t.tsrc i then 0x10 else 0x11) t.pc ∧ (s.NoRise (thG n) → bit (u.thread n).lines i = false) ∧
        bit (u.thread n).tsrc i = false ∧ (u.thread n).xInt = true ∧ (u.thread n).xLine = BitVec.ofNat 3 i)) ∧
      (∀ k, s.dueNow n = some (.breakEntry k) → Completes (.exceptionEntry th) s (fun u => EntryMade s u n 0x0F t.pc ∧
        (u.thread n).badaddr = BitVec.ofNat 40 k)) ∧
      (∀ c bad ins, s.dueNow n = none → s.fetch n = .fault c bad ins → Completes (.exceptionEntry th) s (fun u =>
        EntryMade s u n (BitVec.ofNat 6 c) t.pc ∧ (u.thread n).badaddr = bad.getD t.badaddr ∧
        (u.thread n).badins = ins.getD t.badins))

/-- R270 for an entry that finds RSP at 16, whatever its cause: the fault of a fetch, an entry due at a boundary (an aborted staging, an
NMI, a line, a breakpoint), a fault of an execution (TRAP, a load, a store, an UNLK), and the failing answer of a load. The thread is
held with reason 1, CAUSE takes RSOVF and the cause of the entry is kept, its PC and status are in LCRPC and LCRST, and it joins
the hold queue; its return stack is unchanged, and what was due stays pending. -/
def Obligations.FullStackHolds : Prop :=
  ∀ (th : Thid) (s : State),
    let n := th.toNat
    let t := s.thread n
    let g := thG n
    let held := fun (u : State) (c : BitVec 6) (pc : BitVec 24) => (u.thread n).held = true ∧ (u.thread n).hreason = 1 ∧
      (u.thread n).cause = 0x07 ∧ (u.thread n).ocause = c ∧ (u.thread n).lcrpc = pc ∧ (u.thread n).lcrst = t.land.status ∧
      (u.thread n).rsp = t.rsp ∧ (u.thread n).rstack = t.rstack ∧
      (u.grove g).holdQ = (s.grove g).holdQ ++ [{ th := n, reported := false }]
    16 ≤ t.rsp →
      (∀ cause pc bad ins kind, held (s.enter n cause pc bad ins kind) (BitVec.ofNat 6 cause) pc) ∧
      (s.Chosen n →
        (∀ c bad ins, s.dueNow n = none → s.fetch n = .fault c bad ins → Completes (.exceptionEntry th) s (fun u =>
          held u (BitVec.ofNat 6 c) t.pc)) ∧
        (s.dueNow n = some .chabrt → Completes (.exceptionEntry th) s (fun u => held u 0x0D t.pc ∧
          (u.thread n).chabp = t.chabp)) ∧
        (s.dueNow n = some .nmiext → Completes (.exceptionEntry th) s (fun u => held u 0x13 t.pc ∧ (u.thread n).nmip = t.nmip)) ∧
        (∀ h reason, s.dueNow n = some (.hold h reason) → Completes (.exceptionEntry th) s (fun u =>
          held u (if reason = 2 then 0x0B else 0x07) t.pc)) ∧
        (s.dueNow n = some .stall → Completes (.exceptionEntry th) s (fun u => held u 0x12 t.pc ∧
          (u.grove g).nmiStall = (s.grove g).nmiStall)) ∧
        (s.dueNow n = some .wdog → Completes (.exceptionEntry th) s (fun u => held u 0x14 t.pc ∧
          (u.grove g).nmiWdog = (s.grove g).nmiWdog)) ∧
        (∀ i, s.dueNow n = some (.line i) → Completes (.exceptionEntry th) s (fun u =>
          held u (if bit t.tsrc i then 0x10 else 0x11) t.pc ∧ (bit t.lines i = true → bit (u.thread n).lines i = true))) ∧
        (∀ k, s.dueNow n = some (.breakEntry k) → Completes (.exceptionEntry th) s (fun u => held u 0x0F t.pc))) ∧
      (∀ f, (s.Executes n .trap f → Completes (.trap th) s (fun u => held u 0x0E (t.pc + 2))) ∧
        (s.Executes n .ldw f → s.checkAccess n (t.greg f.s) false = .dacc → Completes (.ldw th) s (fun u => held u 0x05 t.pc)) ∧
        (s.Executes n .stw f → s.checkAccess n (t.greg f.d) true = .dacc → t.sb = [] → Completes (.stw th) s (fun u =>
          held u 0x05 t.pc)) ∧
        (s.Executes n .unlk f → t.sb = [] → (∀ k, (s.lock g k).holder ≠ some n) → Completes (.unlk th) s (fun u =>
          held u 0x05 t.pc))) ∧
      (∀ o reg a, s.groveOn g = true → t.wait = .load → t.outst = some o → o.undo = none → o.dest = .land reg 0 8 →
        (o.unit = .packet ∨ o.unit = .external) → (o.ans = some a) → (a = .dacc ∨ a = .eccu) →
        Completes (.loadDataReturn th) s (fun u => held u (if a = .dacc then 0x05 else 0x0B) o.pc))

/-- R156, R168, R176, R177, R181, R274, R275 and R277: an idle slot counts in IDLE and moves the wheel, and the last core's ends the
cycle of the grove; a committed slot table becomes active at slot 0; the mode changes at slot 0; a halt at a boundary; and the
watchdog's expiry. Model's choices: log entries 31 and 33. -/
def Obligations.CoreEventResults : Prop :=
  ∀ (g : Fin 8) (c : Fin 32) (th : Thid) (s : State),
    let key := coreKey g.val c.val
    let k := s.core key
    let n := th.toNat
    (s.coreRuns g.val c.val = true → (s.choice g.val c.val).t = none → Completes (.idleSlot g c) s (fun u =>
      (u.core key).pos = (k.pos + 1) % 16 ∧ (u.core key).lastExec = none ∧
      u.ctr (aCore g.val c.val + 0x48) = s.ctr (aCore g.val c.val + 0x48) + 1 ∧
      (s.LastOfCycle (thid g.val c.val 0) → (u.beat g.val).inCycle = false) ∧
      (¬ s.LastOfCycle (thid g.val c.val 0) → (u.beat g.val).inCycle = true))) ∧
    (∀ tab, s.groveOn g.val = true → k.pos = 0 → k.slotNext = some tab → Completes (.slotTableActivate g c) s (fun u =>
      (u.core key).slotAct = tab ∧ (u.core key).slotNext = none)) ∧
    (s.groveOn g.val = true → k.pos = 0 → k.mreq = true → s.shareParked g.val c.val = true →
      Completes (.serviceModeEntry g c) s (fun u => (u.core key).service = true ∧ (u.core key).mreq = false ∧
        (u.grove g.val).service = true)) ∧
    (s.groveOn g.val = true → k.pos = 0 → k.maintReq = true → Completes (.maintenanceModeEntry g c) s (fun u =>
      (u.core key).service = false ∧ (u.core key).maintReq = false ∧
      ∀ i, i < 16 → s.hasShare (thid g.val c.val i) = true →
        (u.thread (thid g.val c.val i)).wait = .parked ∧ (u.thread (thid g.val c.val i)).descs = [])) ∧
    (s.groveOn (thG n) = true → s.due n = some .halt → Completes (.debugHaltTaken th) s (fun u =>
      (u.thread n).halted = true ∧ (u.thread n).hcause = 1 ∧ (u.thread n).pc = (s.thread n).pc)) ∧
    (s.groveOn g.val = true → (s.reg (aExc g.val + 0x18)).toNat % 65536 ≠ 0 →
      (s.reg (aExc g.val + 0x18)).toNat % 65536 ≤ (s.grove g.val).wdCount → Completes (.watchdogExpiry g) s (fun u =>
        (u.grove g.val).nmiWdog = true ∧ (u.grove g.val).wdCount = 0 ∧ bit (u.reg (aExc g.val + 4)) 30 = true ∧
        ((s.grove g.val).wdFired = true → (u.grove g.val).fatal = true)))

/-- R163, R165, R206, R208 and R254 for the answers of loads and units: a value that returns becomes the thread's pending load and ends
the wait; a load, or an extension request, without an answer in time raises its exception with the PC of the instruction.
Model's choices: log entries 19 and 20. -/
def Obligations.AnswersReachThreads : Prop :=
  ∀ (th : Thid) (s : State) (o : Outst),
    let n := th.toNat
    let g := thG n
    let t := s.thread n
    s.groveOn g = true → t.outst = some o → (t.wait = .load ∨ t.wait = .xunit) →
      (∀ reg w, o.dest = .land reg 0 8 → o.ans = some (.word w) → (o.unit = .packet ∨ o.unit = .external) →
        Completes (.loadDataReturn th) s (fun u => Lands u n reg w none ∧ (u.thread n).wait = .ready ∧ (u.thread n).outst = none)) ∧
      (∀ reg r rest w, o.dest = .result reg → (s.grove g).parseQ = r :: rest → r.th = n → r.ans = .word w →
        Completes (.helperResult th) s (fun u => Lands u n reg w r.p ∧ (u.thread n).wait = .ready ∧
          (u.grove g).parseQ = rest)) ∧
      (∀ (h : Fin 8) reg w, h.val = g → o.dest = .result reg → (∃ r ∈ (s.grove g).xreqs, r.th = n ∧ r.xfer = true) →
        Completes (.extensionAnswer h th false w) s (fun u => Lands u n reg w none ∧ (u.thread n).wait = .ready ∧
          ∀ r ∈ (u.grove g).xreqs, r.th ≠ n)) ∧
      (t.landing = none → t.rsp < 16 → o.undo = none → (∀ reg, o.dest = .result reg →
          (∃ r ∈ (s.grove g).xreqs, r.th = n ∧ ∃ c, r.since = some c ∧ c + s.xTmo g ≤ (s.grove g).cyc) →
          Completes (.extensionTimeout th) s (fun u => EntryMade s u n 0x0A o.pc ∧ bit (u.reg (aExt g + 4)) 23 = true)) ∧
        (∀ reg, o.dest = .land reg 0 8 → o.ans = none → (o.unit = .window ∨ o.unit = .packet) →
          o.since + 4096 ≤ (s.grove g).cyc → Completes (.loadTimeout th) s (fun u =>
            EntryMade s u n 0x05 o.pc ∧ (u.thread n).badaddr = o.addr)))

/-- R64, R165, R206, R208 and R472: the oldest store to scratchpad is written and leaves the buffer; a store that its target has
accepted leaves; one not accepted in time is discarded and counted; a packet window write lands in the packet; the oldest request
passes to the extension unit; and the completion of a given-up descriptor enters the queue.
Model's choices: log entries 19, 45, 74 and 94. -/
def Obligations.DrainResults : Prop :=
  ∀ (th : Thid) (g : Fin 8) (s : State) (e : SbEntry) (es : List SbEntry),
    let n := th.toNat
    let v := s.grove g.val
    (s.groveOn (thG n) = true → (s.thread n).sb = e :: es → (s.thread n).pendSt = none →
      (∀ phys b, e.phys = some (phys, b) → s.WritesAlone (thG n) phys b → s.nextToSend n = some e → Completes (.storeBufferDrain th none) s (fun u =>
        (u.thread n).sb = es ∧ ∀ a, mget 0 (u.grove (thG n)).scratch a =
          if a = phys then mergeLanes (mget 0 (s.grove (thG n)).scratch phys) e.data e.mask
          else mget 0 (s.grove (thG n)).scratch a)) ∧
      (e.acc = true → Completes (.storeAcceptance th) s (fun u => (u.thread n).sb = es)) ∧
      (e.sent = true → e.acc = false → e.phys = none → 0x100000 ≤ e.addr.toNat → e.addr.toNat < 0x100800 →
        e.since + 4096 ≤ (s.grove (thG n)).cyc → Completes (.storeTimeout th) s (fun u => (u.thread n).sb = es ∧
          u.ctr (aCore (thG n) (thC n) + 0x60) = s.ctr (aCore (thG n) (thC n) + 0x60) + 1))) ∧
    (∀ r rest, s.islandUp 3 = true → (s.link (144 + g.val)).buf = .window r :: rest → r.write = true →
      r.word < wordsOf r.len → (mfind s.trunk.pkts r.cell).isSome = true → Completes (.packetWindowRequest g) s (fun u =>
        (u.link (144 + g.val)).buf = rest ∧
        ∀ a, mget 0 u.trunk.buf a = if a = bufKey (s.cellsOf r.cell) r.word then mergeLanes (mget 0 s.trunk.buf a) r.data r.mask
          else mget 0 s.trunk.buf a)) ∧
    (∀ r rest, s.groveOn g.val = true → v.xreqs = r :: rest → r.xfer = false →
      Completes (.extensionRequestTransfer g) s (fun u => ∃ l, (u.grove g.val).xreqs = { r with xfer := true } :: l ∧
        l.map (fun q => (q.th, q.op, q.imm, q.a, q.b, q.xfer)) = rest.map (fun q => (q.th, q.op, q.imm, q.a, q.b, q.xfer)) ∧
        ∀ q qs, rest = q :: qs → q.xfer = false → q.since = none → l.head?.bind (·.since) = some (v.cyc + 1))) ∧
    (∀ x d ds, s.groveOn g.val = true → v.abandQ = (x, d) :: ds → v.cqOcc < 64 → Completes (.abandonCompletionEntry g) s (fun u =>
      (u.grove g.val).abandQ = ds ∧ (u.grove g.val).cq = v.cq ++ [{ comp := d.completion [], left := 1 }] ∧
      (u.grove g.val).free = v.free + 1))

/-! ## Register writes of threads, cores and groves -/

/-- R174 and R175 for THCMD and THPC, R204, R207 and R265 for IRAISE and IPEND, written by the host, the TAP or a thread: START makes a
parked thread ready at THPC, PARK parks it at a boundary, or is kept until one, and lines are set and cleared by bits. -/
def Obligations.ThreadCommands : Prop :=
  ∀ (src : Src) (th : Thid) (d : BitVec 32) (lines : BitVec 8) (s : State),
    let n := th.toNat
    let a := aThread n
    let t := s.thread n
    let parked := t.wait = .parked ∨ t.wait = .parkedDone
    (s.thcmdOk n = true → t.halted = false → t.held = false →
      (s.Writes src (a + 0x10) 1 → parked → t.outst = none → Completes (.thcmdStart src th) s (fun u =>
        (u.thread n).wait = .ready ∧ (u.thread n).pc = (s.reg (a + 8)).setWidth 24)) ∧
      (s.Writes src (a + 0x10) 2 → ¬ parked → Completes (.thcmdPark src th) s (fun u =>
        (s.atBoundary n = true → (u.thread n).wait = .parked ∧ (u.thread n).parkReq = false) ∧
        (s.atBoundary n = false → (u.thread n).parkReq = true ∧ (src ≠ .thread th → (u.thread n).wait = t.wait))))) ∧
    (s.Writes src (a + 8) d → t.held = false → parked → Completes (.thpcWrite src th d) s (fun u =>
      u.reg (a + 8) = d &&& 0xFFFFFF)) ∧
    (s.Writes src (a + 0x18) (lines.setWidth 32) → Completes (.iraiseLines src th lines) s (fun u =>
      (u.thread n).lines = t.lines ||| lines ∧ (u.thread n).nmip = t.nmip)) ∧
    (s.Writes src (a + 0x18) 0x10000 → Completes (.iraiseNmi src th) s (fun u =>
      (u.thread n).nmip = true ∧ (u.thread n).lines = t.lines)) ∧
    (s.Writes src (a + 0x14) (lines.setWidth 32) → Completes (.ipendClear src th lines) s (fun u =>
      (u.thread n).lines = t.lines &&& ~~~lines ∧ (u.thread n).tsrc = t.tsrc &&& ~~~lines))

/-- R168, R170, R176, R177, R193, R204 and R207 for a core's registers, written by the host, the TAP or a thread: pending copies,
CORESYNC and the requests of a mode; and for the instruction store, which the host and the TAP alone reach: the commit of a word and the
read of one without an uncorrectable error. Model's choices: log entries 59 and 116. -/
def Obligations.CoreRegisterWrites : Prop :=
  ∀ (src : Src) (g : Fin 8) (c : Fin 32) (d : BitVec 32) (s : State),
    let a := aCore g.val c.val
    let key := coreKey g.val c.val
    let k := s.core key
    (∀ i : Fin 4, s.Writes src (a + 0x10 + 4 * i.val) d → Completes (.syncRegisterWrite src g c (.slottab i) d) s (fun u =>
      u.reg (a + 0x10 + 4 * i.val) = d &&& 0x1F1F1F1F ∧ (u.core key).slotDirty = true ∧ (u.core key).slotAct = k.slotAct)) ∧
    (∀ i : Fin 8, s.Writes src (a + 0xC0 + 4 * i.val) d → Completes (.syncRegisterWrite src g c (.bankmap i) d) s (fun u =>
      u.reg (a + 0xC0 + 4 * i.val) = d &&& 0x1F1F1F1F ∧ (u.core key).bankDirty = true ∧ (u.core key).bankAct = k.bankAct)) ∧
    (∀ i : Fin 16, s.Writes src (a + 0x100 + 0x40 * i.val) d → Completes (.syncRegisterWrite src g c (.thcfg i) d) s (fun u =>
      (u.thread (thid g.val c.val i.val)).thcfgA = (s.thread (thid g.val c.val i.val)).thcfgA ∧
      ((s.thread (thid g.val c.val i.val)).tceilP = true → (u.thread (thid g.val c.val i.val)).thcfgP = d &&& 0xF03))) ∧
    (s.Writes src (a + 8) 0x10000 → Completes (.coresyncCore src g c) s (fun u =>
      (k.slotDirty = true → slotTableOk (s.slotPending g.val c.val) = true →
        (u.core key).slotNext = some (s.slotPending g.val c.val)) ∧
      (k.slotDirty = true → slotTableOk (s.slotPending g.val c.val) = false → bit (u.reg (a + 4)) 3 = true ∧
        (u.core key).slotNext = k.slotNext) ∧
      (k.bankDirty = true → (u.core key).bankAct = s.bankPending g.val c.val))) ∧
    (∀ threads : BitVec 16, s.Writes src (a + 8) (threads.setWidth 32) → Completes (.coresyncThreads src g c threads) s (fun u =>
      ∀ i, i < 16 →
        let x := u.thread (thid g.val c.val i)
        let y := s.thread (thid g.val c.val i)
        if bit threads i then x.modA = y.modP ∧ x.tceilA = y.tceilP ∧ x.thcfgA = y.thcfgP
        else x.modA = y.modA ∧ x.tceilA = y.tceilA ∧ x.thcfgA = y.thcfgA)) ∧
    (s.Writes src a 1 → k.service = false → k.mreq = false → Completes (.serviceModeRequest src g c) s (fun u =>
      (u.core key).mreq = true)) ∧
    (s.Writes src a 0 → k.service = true → k.mreq = false → k.maintReq = false →
      Completes (.maintenanceModeRequest src g c) s (fun u => (u.core key).maintReq = true ∧ (u.core key).service = true)) ∧
    (s.HostReaches src (aIstore g.val + 0xC) → s.allMaint g.val = true → Completes (.istoreCommit src g d) s (fun u =>
      let w := (s.reg (aIstore g.val)).toNat % 2 ^ 14
      mget 0 (u.grove g.val).istore w = s.staged72 (aIstore g.val + 4) d ∧
      mget 0 (u.grove g.val).imark w = d.extractLsb' 8 2 ∧
      ∀ x, x ≠ w → mget 0 (u.grove g.val).istore x = mget 0 (s.grove g.val).istore x)) ∧
    (let w := (s.reg (aIstore g.val)).toNat % 2 ^ 14
     s.HostReaches src (aIstore g.val + 4) → mget 0 (s.grove g.val).iecc w ≠ 2 → Completes (.istoreRead src g) s (fun u =>
      u.mgmt.rdata = (mget 0 (s.grove g.val).istore w).setWidth 32))

/-- R204, R207, R267, R268, R273, R274 and R453 for the grove's exception registers, written by the host, the TAP or a thread:
NMIRAISE, RECOV, the two releases of HREL, of which ACT 1 leaves the thread ready to make its entry again, or PARKED when its core has
left service mode meanwhile, WDKICK from a source that may make it, and INITRPT. Model's choice: log entry 17. -/
def Obligations.GroveExceptionRegisters : Prop :=
  ∀ (src : Src) (g : Fin 8) (th : Thid) (d : BitVec 32) (s : State),
    let n := th.toNat
    let t := s.thread n
    let a := aExc g.val
    (s.Writes src (a + 0x14) d → d.setWidth 12 = th → thG n = g.val → Completes (.nmiraise src g d) s (fun u =>
      (u.thread n).nmip = true)) ∧
    (s.Writes src a d → s.hasShare (g.val * 512 + d.toNat % 512) = false → Completes (.recovWrite src g d) s (fun u =>
      u.reg a = d &&& 0x1FF)) ∧
    (s.hrelOk src g.val n = true → thG n = g.val → t.held = true →
      (s.Writes src (a + 0x10) (th.setWidth 32) → s.hasShare n = false → t.haltReq = false → Completes (.hrelPark src g th) s (fun u =>
        (u.thread n).held = false ∧ (u.thread n).wait = .parked ∧ (u.thread n).rsp = 0 ∧
        u.reg (aThread n + 8) = t.lcrpc.setWidth 32 ∧ ∀ h ∈ (u.grove g.val).holdQ, h.th ≠ n)) ∧
      (s.Writes src (a + 0x10) (th.setWidth 32 + 0x10000) → Completes (.hrelRetry src g th) s (fun u =>
        (u.thread n).held = false ∧ (u.thread n).rsp = 0 ∧ (u.thread n).pc = t.lcrpc ∧
        (u.thread n).status = t.lcrst &&& 0xFFFF001F ∧ (u.thread n).ocause = t.ocause ∧ (u.thread n).retry = t.retry ∧
        (t.wait ≠ .parked → (u.thread n).wait = .ready ∧ (u.thread n).retryDue = true) ∧
        (t.wait = .parked → (u.thread n).wait = .parked ∧ (u.thread n).retryDue = t.retryDue ∧
          (t.haltReq = true → t.halted = false → (u.thread n).halted = true ∧ (u.thread n).hcause = 1)) ∧
        ∀ h ∈ (u.grove g.val).holdQ, h.th ≠ n))) ∧
    (s.Writes src (a + 0x1C) 1 → s.recSrc src g.val = true → Completes (.wdkick src g) s (fun u =>
      (u.grove g.val).wdCount = 0 ∧ (u.grove g.val).wdFired = false)) ∧
    (s.Writes src (a + 0x20) d → s.start.phase = .service → Completes (.initrptWrite src g d) s (fun u =>
      u.reg (a + 0x20) = d &&& 0x800000FF))

/-- R275, R276, R278 and R279 for the debug registers, which the host and the TAP alone write (R282, R283): a parked thread halts at
once and a running one at its boundary, RESUME and STEP end HALT, ABORTCH discards a staged message, DBGSEL captures a register
without an uncorrectable error and DBGDATA2 writes the selected register of a stopped thread. Model's choice: log entry 116. -/
def Obligations.DebugRegisters : Prop :=
  ∀ (src : Src) (g : Fin 8) (c : Fin 32) (i : Fin 16) (d : BitVec 32) (s : State),
    let n := thid g.val c.val i.val
    let th : Thid := BitVec.ofNat 12 n
    let t := s.thread n
    let key := coreKey g.val c.val
    let b := aCore g.val c.val
    let cmd := s.HostReaches src (aThread n + 0x24)
    let stopped := t.halted = true ∨ t.held = true ∨ t.wait = .parked
    let halts := fun u : State =>
      (t.wait = .parked → t.held = false → (u.thread n).halted = true ∧ (u.thread n).hcause = 1) ∧
      (t.wait = .ready → (u.thread n).haltReq = true ∧ (u.thread n).halted = false)
    let resumes := fun u : State => (u.thread n).halted = false ∧ (u.thread n).hcause = 0 ∧ (u.thread n).pc = t.pc
    ((cmd → t.halted = false → Completes (.debugHalt src (.dbgcmd th)) s halts) ∧
      (cmd → t.halted = true → Completes (.debugResume src (.dbgcmd th)) s resumes) ∧
      (∀ q, cmd → t.halted = true → Completes (.debugStep src th q) s (fun u =>
        resumes u ∧ (u.thread n).step = some q)) ∧
      (∀ ch l, cmd → t.halted = true → t.staging = some (ch, l) → Completes (.abortch src th) s (fun u =>
        (u.thread n).staging = none ∧ (u.thread n).chabp = true ∧ (u.thread n).chabch = ch))) ∧
    (∀ threads : BitVec 16, bit threads i.val = true →
      (s.HostReaches src (b + 0xB0) → t.halted = false →
        Completes (.debugHalt src (.dbghalt g c threads)) s halts) ∧
      (s.HostReaches src (b + 0xB0) → t.halted = true →
        Completes (.debugResume src (.dbghalt g c threads)) s resumes)) ∧
    (s.HostReaches src (b + 0xA0) → (d.toNat / 2 ^ 16) % 16 = i.val → stopped → d.toNat % 128 < 32 →
      (d.toNat % 128 ≠ 0 → mget 0 t.ecc (d.toNat % 128) ≠ 2) →
      Completes (.dbgselWrite src g c d) s (fun u => (u.core key).dbgdata = t.greg (d.toNat % 128))) ∧
    (∀ r, r ≠ 0 → r < 32 → s.HostReaches src (b + 0xAC) → s.reg (b + 0xA0) = BitVec.ofNat 32 (i.val * 2 ^ 16 + r) → stopped →
      (s.core key).service = false → Completes (.dbgdataCommit src g c d) s (fun u =>
        ((u.thread n).greg r).toNat = (s.core key).dbgdata.toNat % 2 ^ 64 + d.toNat % 256 * 2 ^ 64))

/-! ## The trunk -/

/-- R32 to R35, R38 to R40, R43, R44, R131, R132 and R135: a word of a frame takes its place in the buffer, the first one in a cell
that was free; a frame beyond MAXLEN, one that finds no cell and one that its end aborts are discarded with their count, and their
cells are free; an end indication, automatic, by FIN or by VL, closes the frame with its length, class and error flag; outside service,
and of a frame that its engine opened while its port was not UP, nothing is admitted; and the oldest closed frame gets the next number of its domain and a free slot.
Model's choices: log entries 3, 35 and 80. -/
def Obligations.IngressAndNumbering : Prop :=
  ∀ (p : Fin 128) (s : State),
    let n := p.val
    let q := s.port n
    let gone := fun (u : State) (f : Frame) (why : Nat) => (∀ c, c ∈ u.trunk.alloc ↔ c ∈ s.trunk.alloc ∧ c ∉ f.cells) ∧
      (u.port n).used = q.used - f.cells.length ∧ u.ctr (aIng n why) = s.ctr (aIng n why) + 1 ∧
      u.trunk.ended = s.trunk.ended ∧ u.trunk.slots = s.trunk.slots
    let passed := fun (u : State) (f : Frame) (len cls : Nat) (err : Bool) =>
      let first := (f.cells.take ((len + 63) / 64)).head?.getD 0
      (u.port n).frame = none ∧ u.trunk.ended = s.trunk.ended ++ [first] ∧ u.ctr (aIng n 0) = s.ctr (aIng n 0) + 1 ∧
        (mfind u.trunk.pkts first).map (fun k => (k.len, k.cls, k.err, k.port, k.its)) = some (len, cls, err, n, f.its)
    let ends := fun (u : State) (f : Frame) (len cls : Nat) (err : Bool) =>
      (len = 0 → (u.port n).frame = none ∧ u.trunk.ended = s.trunk.ended ∧ u.ctrs = s.ctrs) ∧
      (0 < len → len ≤ s.maxLen n → passed u f len cls err) ∧
      (s.maxLen n < len → gone u f 2 ∧ (u.port n).frame = none)
    let byLane := fun (u : State) (f : Frame) (cls : Nat) (err : Bool) =>
      ends u f (8 * (f.nwords - 1) + lowK f.last) cls (err || decide (lowK f.last < 8 ∧ lane f.last (lowK f.last) ≠ 0x1FD))
    (∀ f w its live rest, (s.link n).buf = .ingress (.word w its live) :: rest → q.frame = some f → f.dead = false →
      (f.nwords % 8 ≠ 0 → 8 * f.nwords ≤ s.maxLen n → Completes (.ingressWord p) s (fun u =>
        (u.link n).buf = rest ∧ (u.port n).frame = some { f with nwords := f.nwords + 1, last := w } ∧
        ∀ a, mget 0 u.trunk.buf a = if a = bufKey f.cells f.nwords then w else mget 0 s.trunk.buf a)) ∧
      (s.maxLen n < 8 * f.nwords → Completes (.ingressWord p) s (fun u => gone u f 2 ∧
        (u.port n).frame = some { f with cells := [], dead := true })) ∧
      (8 * f.nwords ≤ s.maxLen n → f.nwords % 8 = 0 → s.cellOk n = false → Completes (.ingressWord p) s (fun u => gone u f 1 ∧
        (u.port n).frame = some { f with cells := [], dead := true }))) ∧
    (∀ w its live rest, (s.link n).buf = .ingress (.word w its live) :: rest → q.frame = none →
      (s.inService = true → q.st = .up → live = true → s.cellOk n = true → Completes (.ingressWord p) s (fun u =>
        ∃ c, c < 524288 ∧ c ∉ s.trunk.alloc ∧ c ∈ u.trunk.alloc ∧
          (u.port n).frame = some { cells := [c], nwords := 1, its := its, last := w, dead := false } ∧
          (u.port n).used = q.used + 1 ∧ (u.port n).infl = q.infl + 1 ∧ mget 0 u.trunk.buf (8 * c) = w)) ∧
      ((s.inService = false ∨ q.st ≠ .up ∨ live = false) → Completes (.ingressWord p) s (fun u =>
        (u.port n).frame.map (·.dead) = some true ∧ u.trunk = s.trunk ∧ u.ctrs = s.ctrs ∧ (u.port n).used = q.used))) ∧
    (∀ f cls rest, (s.link n).buf = .ingress (.auto cls) :: rest → q.frame = some f → f.dead = false →
      Completes (.frameEnd p) s (fun u => byLane u f cls.toNat false)) ∧
    (∀ f bits extra bcnt rest, (s.link n).buf = .ingress (.fin bits extra bcnt) :: rest → q.frame = some f → f.dead = false →
      let vl := bits.toNat % 16
      let cls := bits.toNat / 32 % 8
      let k := min 8 (bcnt / 8)
      let abort := bit bits 9 = true ∨ (bit bits 4 = true ∧ vl ≠ 0) ∨ 8 < vl
      (abort → Completes (.frameEnd p) s (fun u => gone u f 3 ∧ (u.port n).frame = none)) ∧
      (¬ abort → bit bits 4 = false →
        (vl ≠ 0 → Completes (.frameEnd p) s (fun u => ends u f (8 * (f.nwords - 1) + vl) cls (bit bits 8))) ∧
        (vl = 0 → Completes (.frameEnd p) s (fun u => byLane u f cls (bit bits 8)))) ∧
      (¬ abort → bit bits 4 = true →
        (k = 0 ∨ f.nwords % 8 ≠ 0 → Completes (.frameEnd p) s (fun u =>
          ends u f (8 * f.nwords + k) cls (bit bits 8 || decide (bcnt % 8 ≠ 0)))) ∧
        (k ≠ 0 → f.nwords % 8 = 0 → s.cellOk n = false → Completes (.frameEnd p) s (fun u => gone u f 1 ∧ (u.port n).frame = none)) ∧
        (k ≠ 0 → f.nwords % 8 = 0 → s.cellOk n = true → s.maxLen n < 8 * f.nwords + k → Completes (.frameEnd p) s (fun u =>
          gone u f 2 ∧ (u.port n).frame = none)) ∧
        (k ≠ 0 → f.nwords % 8 = 0 → s.cellOk n = true → 8 * f.nwords + k ≤ s.maxLen n → Completes (.frameEnd p) s (fun u =>
          ∃ c, c ∉ s.trunk.alloc ∧ mget 0 u.trunk.buf (8 * c) = extra ∧ (u.port n).used = q.used + 1 ∧
            passed u { f with cells := f.cells ++ [c] } (8 * f.nwords + k) cls (bit bits 8 || decide (bcnt % 8 ≠ 0)))))) ∧
    (∀ cell rest k, s.dispOn = true → s.trunk.slots.length < 16384 → s.trunk.ended = cell :: rest → s.dupWaits cell = false →
      mfind s.trunk.pkts cell = some k → Completes .sequenceAssignment s (fun u => ∃ tag, tag < 16384 ∧
        mfind s.trunk.slots tag = none ∧
        mfind u.trunk.slots tag = some { dom := s.domain k.port k.cls, seq := (s.trunk.dom (s.domain k.port k.cls)).next,
                                         cell := cell, done := none } ∧
        (u.trunk.dom (s.domain k.port k.cls)).next = ((s.trunk.dom (s.domain k.port k.cls)).next + 1) % 65536 ∧
        u.trunk.ended = rest ∧ u.trunk.issueQ = s.trunk.issueQ ++ [tag]))

/-- R21, R46, R51, R52 and R410: the oldest numbered packet's descriptor leaves for the grove chosen, for one credit of the grove, on
its path when that has credits for it and else behind what waits; packets that timed out before their issue leave the buffer, and
their cells are free and no longer count as used by their ports; a credit that returns is counted; and an arriving descriptor goes to the static thread chosen, or waits in the pool queue.
Model's choices: log entries 3, 79 and 94. -/
def Obligations.DescriptorFlow : Prop :=
  ∀ (g : Fin 8) (s : State) (d : Desc),
    let v := s.grove g.val
    let l := s.link (128 + g.val)
    (∀ tag rest tie, s.dispOn = true → s.trunk.lost = [] → s.trunk.issueQ = tag :: rest → s.pickGrove [] = some (g.val, tie) →
      s.descOf tag = some d → Completes .descriptorIssue s (fun u =>
        (u.link (128 + g.val)).inFlight = l.inFlight ++ [.desc d] ∧
        (l.wait = [] → (Message.desc d).size ≤ l.credit → (u.link (128 + g.val)).wait = [] ∧
          (u.link (128 + g.val)).credit = l.credit - (Message.desc d).size) ∧
        (l.wait = [] → l.credit < (Message.desc d).size → (u.link (128 + g.val)).wait = [.desc d] ∧
          (u.link (128 + g.val)).credit = l.credit) ∧
        mget 0 u.trunk.credits g.val = mget 0 s.trunk.credits g.val - 1 ∧ ∃ j, j ≤ 3 ∧ u.trunk.issueQ = rest.drop j)) ∧
    (s.dispOn = true → Completes .descriptorIssue s (fun u => u.trunk.lost = [] ∧
      (∀ x ∈ s.trunk.lost, mfind u.trunk.pkts x = none) ∧
      (∀ c, c ∈ u.trunk.alloc ↔ c ∈ s.trunk.alloc ∧ ∀ x ∈ s.trunk.lost, ∀ k, mfind s.trunk.pkts x = some k → c ∉ k.cells) ∧
      ∀ x k, s.trunk.lost = [x] → mfind s.trunk.pkts x = some k → Released s u k x)) ∧
    (∀ rest, (s.link (136 + g.val)).buf = .credit :: rest → Completes (.groveCreditReturn g) s (fun u =>
      mget 0 u.trunk.credits g.val = mget 0 s.trunk.credits g.val + 1 ∧ (u.link (136 + g.val)).buf = rest)) ∧
    (∀ rest, s.groveOn g.val = true → (s.link (128 + g.val)).buf = .desc d :: rest → v.poolQ = [] →
      (∀ i, s.staticFor g.val = some i → Completes (.descriptorArrival g) s (fun u =>
        (u.thread (g.val * 512 + i)).descs = (s.thread (g.val * 512 + i)).descs ++ [d] ∧ (u.grove g.val).free = v.free - 1)) ∧
      (s.staticFor g.val = none → s.dynamicFor g.val = none → Completes (.descriptorArrival g) s (fun u =>
        (u.grove g.val).poolQ = [d] ∧ (u.grove g.val).free = v.free - 1)))

/-- R58 to R63: a completion that has reached its lane is recorded in its slot, or is stale when the slot is free or holds another
number, and then its packet leaves the buffer and its cells are free; the head of a domain retires when it is complete, as a drop
without copies, whose cells are free, or into the egress queue of its copy; in one trunk cycle 8 packets at most retire, the domains in
turn, of each those in sequence, with all their copies, as many as each queue holds; and a head without a completion retires at its
timeout with its cells kept. A trunk cycle must be left in the heartwood cycle. Model's choices: log entries 4, 79, 81 and 94. -/
def Obligations.CollectorResults : Prop :=
  ∀ (g : Fin 8) (s : State) (tag : Nat) (sl : Slot),
    let v := s.grove g.val
    let stale := fun (u : State) (c : Completion) => u.trunk.slots = s.trunk.slots ∧ u.ctr 0x85020 = s.ctr 0x85020 + 1 ∧
      (∀ k, mfind s.trunk.pkts c.cell = some k → Released s u k c.cell) ∧
      (mfind s.trunk.pkts c.cell = none → u.trunk.alloc = s.trunk.alloc ∧ u.trunk.pkts = s.trunk.pkts)
    (∀ c left rest, v.cq = { comp := c, left := left } :: rest → 1 ≤ v.lane →
      (2 ≤ left → Completes (.completionAccept g) s (fun u =>
        (u.grove g.val).cq = { comp := c, left := left - 1 } :: rest ∧ (u.grove g.val).lane = v.lane - 1 ∧ u.trunk = s.trunk)) ∧
      (left ≤ 1 →
        (c.tag = tag → mfind s.trunk.slots tag = some sl → sl.dom = c.dom → sl.seq = c.seq →
          Completes (.completionAccept g) s (fun u => (u.grove g.val).cq = rest ∧ (u.grove g.val).lane = v.lane - 1 ∧
            mfind u.trunk.slots tag = some { sl with done := some c.emits } ∧ u.trunk.alloc = s.trunk.alloc)) ∧
        (mfind s.trunk.slots c.tag = none → Completes (.completionAccept g) s (fun u => (u.grove g.val).cq = rest ∧ stale u c)) ∧
        (c.tag = tag → mfind s.trunk.slots tag = some sl → (sl.dom ≠ c.dom ∨ sl.seq ≠ c.seq) →
          Completes (.completionAccept g) s (fun u => (u.grove g.val).cq = rest ∧ stale u c)))) ∧
    (∀ k, s.beatReady 8 = true → s.trunk.slots = [(tag, sl)] → sl.dom < 64 → sl.seq = (s.trunk.dom sl.dom).head → mfind s.trunk.pkts sl.cell = some k →
      (sl.done = some [] → Completes .retirement s (fun u => u.trunk.slots = [] ∧ Released s u k sl.cell ∧
        (u.trunk.dom sl.dom).head = (sl.seq + 1) % 65536 ∧ u.ctr 0x85000 = s.ctr 0x85000 + 1 ∧
        u.ctr 0x85008 = s.ctr 0x85008 + 1)) ∧
      (∀ e, sl.done = some [e] → e.skip + e.trim < k.len → e.oven = false → (s.port e.port).st = .up →
        ((s.port e.port).queue e.cls).length < s.qlim e.port e.cls → Completes .retirement s (fun u => u.trunk.slots = [] ∧
          (u.trunk.dom sl.dom).head = (sl.seq + 1) % 65536 ∧ u.ctr 0x85010 = s.ctr 0x85010 + 1 ∧
          u.trunk.alloc = s.trunk.alloc ∧ (mfind u.trunk.pkts sl.cell).map (·.live) = some (k.live + 1) ∧
          ((u.port e.port).queue e.cls).map (fun x => (x.emit, x.cell, x.dom, x.seq)) =
            ((s.port e.port).queue e.cls).map (fun x => (x.emit, x.cell, x.dom, x.seq)) ++ [(e, sl.cell, sl.dom, sl.seq)]))) ∧
    (let row := s.trunk.retiring
     let copies := row.flatMap s.handed
     let served := fun d : Nat => (row.filter (fun x => x.2.1.dom = d)).length
     let put := fun (p c : Nat) => copies.filter (fun y => y.emit.port = p && y.emit.cls = c)
     let gone := fun x : Nat × Slot × List Emit => x.2.2 = [] ∨ ∃ k, mfind s.trunk.pkts x.2.1.cell = some k ∧ k.live = 0 ∧ s.handed x = []
     s.beatReady 8 = true → (∀ x ∈ s.trunk.slots, ∀ y ∈ s.trunk.slots, x.1 = y.1 → x = y) →
     (row.map (fun x => x.2.1.cell)).Nodup → (∀ x ∈ row, (mfind s.trunk.pkts x.2.1.cell).isSome = true) →
      Completes .retirement s (fun u =>
        (∀ y, y ∈ u.trunk.slots ↔ y ∈ s.trunk.slots ∧ ∀ x ∈ row, x.1 ≠ y.1) ∧
        (∀ d, d < 64 → (u.trunk.dom d).head = if served d = 0 then (s.trunk.dom d).head else ((s.trunk.dom d).head + served d) % 65536) ∧
        u.trunk.rot = (row.getLast?.map (fun x => x.2.1.dom)).getD s.trunk.rot ∧
        u.ctr 0x85000 = s.ctr 0x85000 + BitVec.ofNat 64 row.length ∧
        u.ctr 0x85008 = s.ctr 0x85008 + BitVec.ofNat 64 (row.filter (fun x => x.2.2 = [])).length ∧
        u.ctr 0x85010 = s.ctr 0x85010 + BitVec.ofNat 64 copies.length ∧
        (∀ p c, (u.port p).queue c = (s.port p).queue c ++ (put p c).take (s.qlim p c - ((s.port p).queue c).length)) ∧
        ((∀ p c, ((s.port p).queue c).length + (put p c).length ≤ s.qlim p c) →
          (∀ x ∈ row, gone x → mfind u.trunk.pkts x.2.1.cell = none) ∧
          (∀ x ∈ row, ¬ gone x → ∀ k, mfind s.trunk.pkts x.2.1.cell = some k →
            mfind u.trunk.pkts x.2.1.cell = some { k with live := k.live + (s.handed x).length }) ∧
          (∀ c, c ∈ u.trunk.alloc ↔ c ∈ s.trunk.alloc ∧ ∀ x ∈ row, gone x → c ∉ s.cellsOf x.2.1.cell)))) ∧
    (∀ d : Fin 64, s.beatReady 8 = true → s.trunk.headSlot d.val = some (tag, sl) → (∀ x ∈ s.trunk.slots, x.2.done = none) →
      (s.reg 0x8000C).toNat % 65536 ≠ 0 → (s.trunk.dom d.val).since + (s.reg 0x8000C).toNat % 65536 * 128 ≤ s.hw →
      Completes (.holtTimeout d) s (fun u =>
        u.trunk.slots = mdel s.trunk.slots tag ∧ mfind u.trunk.slots tag = none ∧ u.trunk.pkts = s.trunk.pkts ∧
        u.trunk.alloc = s.trunk.alloc ∧
        u.trunk.issueQ = s.trunk.issueQ.filter (fun x => x ≠ tag) ∧ (u.trunk.dom d.val).head = ((s.trunk.dom d.val).head + 1) % 65536 ∧
        (tag ∈ s.trunk.issueQ → u.trunk.lost = s.trunk.lost ++ [sl.cell]) ∧ (tag ∉ s.trunk.issueQ → u.trunk.lost = s.trunk.lost) ∧
        u.ctr 0x85018 = s.ctr 0x85018 + 1 ∧ u.ctr 0x85008 = s.ctr 0x85008 + 1 ∧ u.ctr 0x85000 = s.ctr 0x85000 + 1))

/-- R36, R49, R50, R64, R70 and R71 for the trunk's and the dispatch interface's registers: DABANDON, DOMMAP, BUFCFG and SHARE with the
writes they refuse, and the read of INFPEAK. Model's choice: log entry 45. -/
def Obligations.TrunkRegisters : Prop :=
  ∀ (src : Src) (d : BitVec 32) (s : State),
    (∀ g : Fin 8, s.HostReaches src (aDisp g.val + 0x1008) →
      let th := g.val * 512 + d.toNat % 512
      let ds := (s.thread th).descs
      let v := s.grove g.val
      (s.thread th).held = true → Completes (.dabandon src g d) s (fun u => (u.thread th).descs = [] ∧
        (v.abandQ = [] → v.cqOcc + ds.length ≤ 64 → (u.grove g.val).abandQ = [] ∧
          (u.grove g.val).cq = v.cq ++ ds.map (fun x => { comp := x.completion [], left := 1 }) ∧
          (u.grove g.val).free = v.free + ds.length) ∧
        (64 ≤ v.cqOcc → (u.grove g.val).cq = v.cq ∧ (u.grove g.val).free = v.free ∧
          (u.grove g.val).abandQ = v.abandQ ++ ds.map (fun x => (th, x))))) ∧
    (∀ (p : Fin 128) (h : Fin 2), let a := 0x81000 + 8 * p.val + 4 * h.val
      s.HostReaches src a → Completes (.dommapWrite src p h d) s (fun u => u.reg a = d &&& 0x3F3F3F3F)) ∧
    (∀ p : Fin 128, let a := 0x83000 + 16 * p.val
      let resv := d.toNat % 2 ^ 12
      let total := resv + ((upto 128).filter (fun q => q ≠ p.val)).foldl (fun a q => a + s.resv q) 0
      let ok := total ≤ 524288 ∧ resv ≤ d.toNat / 2 ^ 12 % 2 ^ 16
      s.HostReaches src a → Completes (.bufcfgWrite src p d) s (fun u =>
        (ok → u.reg a = d &&& 0x0FFFFFFF) ∧ (¬ ok → u.reg a = s.reg a ∧ bit (u.reg 0x80004) 18 = true))) ∧
    (∀ (g : Fin 8) (c : Fin 32) (t : Fin 16), let i := 16 * c.val + t.val
      let a := aDisp g.val + 4 * i
      let ok := s.allMaint g.val = true ∧ (s.setReg a (d &&& 0xF)).capacity g.val ≤ 2048 ∧ d.toNat / 4 % 4 ≠ 3 ∧
        (d.toNat / 4 % 4 = 0 ∨ g.val * 512 + i ≠ s.recovery g.val)
      s.HostReaches src a → Completes (.shareWrite src g (.share c t) d) s (fun u =>
        (ok → u.reg a = d &&& 0xF) ∧ (¬ ok → u.reg a = s.reg a ∧ bit (u.reg (aDisp g.val + 0x1004)) 24 = true))) ∧
    (∀ g : Fin 8, let a := aDisp g.val + 0x1000
      let ok := s.allMaint g.val = true ∧ (s.setReg a (d &&& 0xFFF)).capacity g.val ≤ 2048
      s.HostReaches src a → Completes (.shareWrite src g .gpool d) s (fun u =>
        (ok → u.reg a = d &&& 0xFFF) ∧ (¬ ok → u.reg a = s.reg a ∧ bit (u.reg (aDisp g.val + 0x1004)) 24 = true))) ∧
    (s.HostReaches src 0x80014 → Completes (.infpeakRead src) s (fun u => u.mgmt.rdata = BitVec.ofNat 32 s.trunk.peak ∧
      u.trunk.peak = s.trunk.slots.length ∧ u.trunk.slots = s.trunk.slots))

/-! ## Egress, ports and rings -/

/-- R76 to R81, R83, R84, R92, R104, R114 and R460: the scheduler offers the head copy of the highest strict class that may send, or of
the DRR class whose turn it is, with its deficit; a hold that lasts beyond its limit is ignored; the gate entry in force before and
after BASE, the arming of a bank with its instant, its swap, and the writes of a bank that is not locked; a read of ETSQ; and the
word of a transmit slot. Gates follow the port island's copy of Block Time.
Model's choices: log entries 4, 46, 84, 87, 92 and 111. -/
def Obligations.EgressResults : Prop :=
  ∀ (src : Src) (p : Fin 128) (s : State),
    let n := p.val
    let q := s.port n
    (∀ c k rest, c < 8 → s.inService = true → s.portOn n = true → q.st = .up → q.offer = none → q.lane = [] →
      q.queue c = k :: rest → bit (s.egcfg n) 2 = false → bit (s.gates n) c = true → bit q.hold c = false →
      (∀ x y ys, q.queue x = y :: ys → y.bad = 0) →
      let offers := fun u : State => (u.port n).offer = some { copy := k, pos := 0, there := 0, ets := none, cut := false } ∧
        (u.port n).queue c = rest ∧ ∀ x, x ≠ c → (u.port n).queue x = q.queue x
      let quantum := if fld (s.reg (aEgress n + 4 + 4 * (c / 2))) (16 * (c % 2)) 16 = 0 then 64
        else fld (s.reg (aEgress n + 4 + 4 * (c / 2))) (16 * (c % 2)) 16
      let size := k.len - k.emit.skip - k.emit.trim
      let deficit := mget 0 q.deficit c
      let left := fun (u : State) (d : Nat) => mget 0 (u.port n).deficit c = if rest = [] then 0 else d - size
      (s.strict n c = true → (∀ x, c < x → q.queue x = []) → Completes (.copySelect p) s offers) ∧
      (s.strict n c = false → (∀ x, s.strict n x = true → q.queue x = []) →
        (q.inTurn = true → q.turn = c → size ≤ deficit → Completes (.copySelect p) s (fun u => offers u ∧ left u deficit ∧
          (u.port n).turn = c)) ∧
        (∀ m, q.inTurn = false → m < 8 → c = (q.turn + 1 + m) % 8 → (∀ j, j < m → q.queue ((q.turn + 1 + j) % 8) = []) →
          size ≤ deficit + quantum → Completes (.copySelect p) s (fun u => offers u ∧ left u (deficit + quantum) ∧
            (u.port n).turn = c)))) ∧
    (∀ (c : Fin 8) t0, mfind q.holdAt c.val = some t0 → (s.reg (aEgress n + 0x24)).toNat % 65536 ≠ 0 → bit q.hold c.val = true →
      bit q.holdIgn c.val = false → t0 + (s.reg (aEgress n + 0x24)).toNat % 65536 * 128 < s.hw →
      Completes (.pauseLimitExpiry p c) s (fun u => bit (u.port n).holdIgn c.val = true ∧ (u.port n).hold = q.hold ∧
        u.ctr (aEgress n + 0x2020) = s.ctr (aEgress n + 0x2020) + 1)) ∧
    (s.portOn n = true → s.gateEn n = true → q.glen' q.gact ≠ 0 → q.gcyc q.gact ≠ 0 →
      let gates := fun i : Nat => (q.gent q.gact i).extractLsb' 32 8
      let until' := fun i : Nat => ((upto i).map (fun j => (q.gent q.gact j).toNat % 2 ^ 32)).sum
      let at' := (s.copyOf (6 + n / 32) - q.gbas q.gact) * 10 ^ 9 / 2 ^ 32 % q.gcyc q.gact
      (s.copyOf (6 + n / 32) < q.gbas q.gact → Completes (.gateEntryChange p) s (fun u => (u.port n).gate = gates (q.glen' q.gact - 1))) ∧
      (∀ i, q.gbas q.gact ≤ s.copyOf (6 + n / 32) → i < q.glen' q.gact → until' i ≤ at' → (at' < until' (i + 1) ∨ i + 1 = q.glen' q.gact) →
        Completes (.gateEntryChange p) s (fun u => (u.port n).gate = gates i))) ∧
    (∀ ns, q.garm = some ns → s.portOn n = true → q.gbas (1 - q.gact) ≤ s.copyOf (6 + n / 32) →
      ns ≤ nsOf (s.copyOf (6 + n / 32) - q.gbas (1 - q.gact)) → Completes (.gateBankSwap p) s (fun u =>
        (u.port n).gact = 1 - q.gact ∧ (u.port n).garm = none)) ∧
    (∀ d : BitVec 32, s.HostReaches src 0x8C020 → d.toNat / 2 ^ 16 % 128 = n →
      let b := d.toNat / 2 ^ 12 % 2
      q.glen' b ≠ 0 → q.gcyc b ≠ 0 → b ≠ q.gact → (∀ i, i < q.glen' b → 64 ≤ (q.gent b i).toNat % 2 ^ 32) →
      Completes (.glswap src d) s (fun u => (u.port n).gact = q.gact ∧ ∃ ns, (u.port n).garm = some ns ∧ ns % q.gcyc b = 0 ∧
        s.now * 10 ^ 9 + 1000 * 2 ^ 32 ≤ q.gbas b * 10 ^ 9 + ns * 2 ^ 32 ∧
        (ns = 0 ∨ q.gbas b * 10 ^ 9 + (ns - q.gcyc b) * 2 ^ 32 < s.now * 10 ^ 9 + 1000 * 2 ^ 32))) ∧
    (∀ d : BitVec 32, let sel := (s.reg 0x8C000).toNat
      let b := sel / 2 ^ 12 % 2
      let i := 1024 * b + sel % 1024
      sel / 2 ^ 16 % 128 = n →
      (q.bankLocked b = false →
        (s.HostReaches src 0x8C004 → Completes (.gateListWrite src .state d) s (fun u =>
          (mget 0 (u.port n).gents i).toNat = (mget 0 q.gents i).toNat % 2 ^ 32 + d.toNat % 256 * 2 ^ 32)) ∧
        (s.HostReaches src 0x8C008 → Completes (.gateListWrite src .ivl d) s (fun u =>
          (mget 0 (u.port n).gents i).toNat = d.toNat + (mget 0 q.gents i).toNat / 2 ^ 32 * 2 ^ 32)) ∧
        (s.HostReaches src 0x8C00C → Completes (.gateListWrite src .cycle d) s (fun u => (u.port n).gcyc b = d.toNat)) ∧
        (s.HostReaches src 0x8C010 → Completes (.gateListWrite src .len d) s (fun u =>
          mget 0 (u.port n).glen b = d.setWidth 11)) ∧
        (∀ k r, (k, r) ∈ [(0, GateReg.base0), (1, .base1), (2, .base2)] → s.HostReaches src (gateReg r) →
          Completes (.gateListWrite src r d) s (fun u => ∀ i, i < 72 →
            (mget 0 (u.port n).gbase b).getLsbD i =
              if 32 * k ≤ i ∧ i < 32 * k + 32 then bit d (i - 32 * k) else (mget 0 q.gbase b).getLsbD i))) ∧
      (q.bankLocked b = true → ∀ r, s.HostReaches src (gateReg r) → Completes (.gateListWrite src r d) s (fun u =>
        u.port n = q ∧ bit (u.reg (aEgress n + 0x28)) 0 = true))) ∧
    (∀ e es, s.HostReaches src (aIsland n + 0xE000 + 16 * (n % 32)) → q.etsq = e :: es → Completes (.etsqRead src p) s (fun u =>
      (u.port n).etsq = es ∧ u.mgmt.rdata = e.ets.setWidth 32)) ∧
    (s.portOn n = true → s.pinMode n = false →
      let takesTxl := fun u : State =>
        (u.port n).ptxd = q.txl.getD (ofLanes (List.replicate 8 0x107)) ∧ (u.port n).ptxv = true ∧ (u.port n).txl = none
      (q.lane = [] → Completes (.txTransferSlot p) s takesTxl) ∧
      (∀ x xs, q.lane = x :: xs → x.started = false → q.sending = true → Completes (.txTransferSlot p) s takesTxl) ∧
      (∀ x xs w ws, q.lane = x :: xs → (x.started = true ∨ q.sending = false) → x.words = w :: ws →
        Completes (.txTransferSlot p) s (fun u => (u.port n).ptxd = w ∧ (u.port n).ptxv = true ∧ (u.port n).txl = q.txl ∧
          (u.port n).lane.map (·.words) = (if ws = [] then xs.map (·.words) else ws :: xs.map (·.words)))))

/-- R86 to R88 for PORTCTL, PORT_UP, DRAIN_FLUSH and DRAIN_COMPLETE: the states of a port, and what a flush discards and counts. -/
def Obligations.PortStateChanges : Prop :=
  ∀ (src : Src) (p : Fin 128) (d : BitVec 32) (s : State),
    let n := p.val
    let q := s.port n
    (s.HostReaches src (aPort n) → Completes (.portEnableWrite src p d) s (fun u => u.reg (aPort n) = d &&& 0xFF01 ∧
      (u.port n).st = (match bit d 0, q.st with
        | true, .off => .starting
        | false, .starting => .off
        | false, .up => .draining
        | _, st => st) ∧
      (q.st = .draining → (u.port n).pend = bit d 0))) ∧
    (s.portOn n = true → q.st = .starting → q.link = true → Completes (.portUp p) s (fun u => (u.port n).st = .up)) ∧
    (q.st = .draining → q.drain + max 1 ((s.reg (aPort n)).toNat / 2 ^ 8 % 256) + 1 ≤ s.tickNow → q.queuesEmpty = false →
      Completes (.drainFlush p) s (fun u => (∀ c, (u.port n).queue c = []) ∧
        u.ctr (aEgress n + 0x2010) = s.ctr (aEgress n + 0x2010) +
          BitVec.ofNat 64 ((upto 8).flatMap (fun c => q.queue c)).length)) ∧
    (s.portOn n = true → q.st = .draining → q.infl = 0 → q.queuesEmpty = true → q.txIdle = true →
      Completes (.drainComplete p) s (fun u => (u.port n).st = (if q.pend then .starting else .off) ∧ (u.port n).pend = false))

/-- R89, R90, R91, R95 to R100 and R348 for RINGCFG, an express frame, duplicate discard and ring health: the lane opens with
EN, closes without it, a pair of ports that R89 refuses sets CFGERR; a frame for another station passes whole to the ring's
other port, and with a copy when it is for a group; one for the own address is copied, and leaves a fragment where its first word has gone
out already; a frame that fails a check of R91 is cut off and counted; at a line break it is dropped, and counted; a copy has cells, a
packet and its place in the order of its port, and waits for its duplicate check when that is on; a copy whose key the table holds is
discarded, and a check that ends passes its copy on, with LKDDERR when it ends with an error; and at a tick boundary each condition of a port is declared, kept
with its clean count, or cleared, with BREAKS and RING_ATTACH. Model's choices: log entries 43 and 58. -/
def Obligations.RingResults : Prop :=
  ∀ (src : Src) (r : Fin 16) (p : Fin 128) (d : BitVec 32) (words : List Word) (s : State),
    let n := r.val
    let v := d &&& 0xF87F7FFF
    (s.HostReaches src (aRing n) → s.start.phase = .service →
      (bit d 31 = true → s.ringOk n v = true → s.ringEn n = false → Completes (.ringcfgWrite src r d) s (fun u =>
        u.reg (aRing n) = v ∧ (u.ring n).lane = true ∧ (u.ring n).attach ≠ .z)) ∧
      (bit d 31 = true → s.ringOk n v = false → Completes (.ringcfgWrite src r d) s (fun u =>
        u.reg (aRing n) = s.reg (aRing n) ∧ bit (u.reg (aRing n + 0x14)) 26 = true ∧ u.ring n = s.ring n)) ∧
      (bit d 31 = false → s.ringEn n = true → Completes (.ringcfgWrite src r d) s (fun u =>
        u.reg (aRing n) = v ∧ (u.ring n).lane = false ∧ (u.ring n).attach ≠ .high))) ∧
    (∀ x, (upto 16).find? (fun i => s.laneActive i && (s.portA i = p.val || s.portB i = p.val)) = some n →
      readX words = some x → s.portOn p.val = true → s.start.phase ≠ .safe → s.portA n = p.val → s.portB n ≠ p.val →
      let out := s.port (s.portB n)
      let own := addrOf x.da = some (s.ringAddr n)
      let mine := addrOf x.sa = some (s.ringAddr n)
      let group := (x.da.head?.map (fun y => bit y 0 && !bit y 8)) = some true
      let w0 := words.head?.getD 0
      let w1 := (words.drop 1).head?.getD 0
      let term : Word := ofLanes (0x1FE :: List.replicate 7 0x107)
      let bad := !x.fcsOk || x.errEnd
      let len := x.syms.length
      let need := (len + 63) / 64
      let fits := s.dispOn = true ∧ 0 < len ∧ len ≤ s.maxLen p.val ∧ (s.port p.val).used + need ≤ s.resv p.val ∧
        s.trunk.alloc.length + need ≤ 524288
      let sends := fun (u : State) (l : List (List Word × Bool)) =>
        (u.port (s.portB n)).lane.map (fun f => (f.words, f.frag)) = out.lane.map (fun f => (f.words, f.frag)) ++ l ∧
        (u.port p.val).lane = (s.port p.val).lane
      let counts := fun (u : State) (k m : Nat) =>
        u.ctr (0x13000 + 0x40 * n + k) = s.ctr (0x13000 + 0x40 * n + k) + BitVec.ofNat 64 m
      let copied := fun u : State => ∃ c cs, (c :: cs).length = need ∧ (c :: cs).Nodup ∧
        (∀ y ∈ c :: cs, y < 524288 ∧ y ∉ s.trunk.alloc ∧ y ∈ u.trunk.alloc) ∧
        mfind u.trunk.pkts c = some { cells := c :: cs, len := len, its := s.stamp (6 + p.val / 32), err := bad, ring := n, src := 1,
                                      cls := (s.reg (aRing n)).toNat / 2 ^ 27 % 8, port := p.val, live := 0 } ∧
        u.trunk.ended = s.trunk.ended ++ [c] ∧
        (∀ j w, 8 * j < len → (words.drop 1)[j]? = some w → mget 0 u.trunk.buf (bufKey (c :: cs) j) = w) ∧
        (u.port p.val).infl = (s.port p.val).infl + 1 ∧ u.ctr (aIng p.val 0) = s.ctr (aIng p.val 0) + 1 ∧
        (bit (s.reg (aRing n + 0x10)) 15 = true → bad = false → counts u 0x18 0 ∧ ∀ a, addrOf x.sa = some a →
          (u.ring n).ddq = (s.ring n).ddq ++
            [{ port := p.val, key := BitVec.ofNat 144 (n * 2 ^ 64 + x.seq * 2 ^ 48 + a), cell := c }]) ∧
        (bit (s.reg (aRing n + 0x10)) 15 = false ∨ bad = true → counts u 0x18 1 ∧ (u.ring n).ddq = (s.ring n).ddq)
      let takes := fun (u : State) (copy : Prop) =>
        (copy → fits → copied u) ∧ (¬ copy ∨ s.dispOn = false → u.trunk = s.trunk ∧ (u.ring n).ddq = (s.ring n).ddq)
      ((s.ring n).breakB = false → ¬ own → x.typeOk = true → ¬ mine → Completes (.expressFrame p words) s (fun u =>
        sends u [(words, false)] ∧ takes u group)) ∧
      (own → Completes (.expressFrame p words) s (fun u => takes u True ∧
        (if (s.ring n).breakB = false ∧ s.rate10 p.val < 250 ∧ out.lane = [] ∧ out.sending = false then sends u [([w0, term], true)]
         else sends u []))) ∧
      ((s.ring n).breakB = false → ¬ own → 2 < words.length → x.typeOk = false ∨ mine → Completes (.expressFrame p words) s (fun u =>
        sends u [([w0, w1, term], true)] ∧ takes u False ∧ counts u 8 (if x.typeOk = false then 1 else 0) ∧
        counts u 0x10 (if x.typeOk = false then 0 else 1) ∧ counts u 0x38 1)) ∧
      ((s.ring n).breakB = true → ¬ own → Completes (.expressFrame p words) s (fun u => sends u [] ∧ counts u 0x28 1 ∧
        takes u group))) ∧
    (∀ x rest y e, let t := (s.reg (aRing n + 0x10)).toNat % 256
      (s.ring n).ddq = x :: rest → s.lookup.ready = true → (∀ c ∈ s.lookup.cmds, c.2.busy = false) → s.tblEn t = true →
      (s.tbl t).clr = none → s.tblLpm t = false → (s.stash t).find? (fun c => c.2.matchAt x.key 144) = some (y, e) →
      s.entry t y = some e → mget 0 s.lookup.ecc (eccKey t y) = 0 → s.hitDue t e = false →
      Completes (.duplicateDiscardRequest r) s (fun u => (u.ring n).ddq = rest ∧ mfind u.trunk.pkts x.cell = none ∧
        u.ctr (0x13000 + 0x40 * n + 0x20) = s.ctr (0x13000 + 0x40 * n + 0x20) + 1)) ∧
    (∀ x rest, (s.ring n).ddq = x :: rest → (s.cmd (129 + n)).complete = true → Completes (.duplicateDiscardRequest r) s (fun u =>
      (u.ring n).ddq = rest ∧ (u.cmd (129 + n)).busy = false ∧
      ((s.cmd (129 + n)).rcN = 2 → mfind u.trunk.pkts x.cell = none ∧ u.trunk.ended = s.trunk.ended.filter (fun c => c ≠ x.cell) ∧
        u.ctr (0x13000 + 0x40 * n + 0x20) = s.ctr (0x13000 + 0x40 * n + 0x20) + 1) ∧
      ((s.cmd (129 + n)).rcN ≠ 2 → u.trunk = s.trunk ∧
        u.ctr (0x13000 + 0x40 * n + 0x18) = s.ctr (0x13000 + 0x40 * n + 0x18) + 1 ∧
        u.ctr 0xA0018 = s.ctr 0xA0018 + if (s.cmd (129 + n)).rcN = 0 then 0 else 1))) ∧
    (s.time.acq = true → s.start.phase = .service → s.ringEn n = true → s.time.tick < s.time.closed →
      (∀ i, i < 18 → s.islTick i ≤ s.time.begunBy i ∧ s.time.closed ≤ s.time.begunBy i) →
      let up := max 1 ((s.treg (aRing n)).toNat % 256)
      let o := s.ring n
      let fault := fun x : Obs => x.down || x.err
      let broke := fun x : Obs => x.link || decide ((s.treg (aRing n + 4)).toNat % 65536 < x.bad)
      let judged := fun (bad was : Bool) (k : Nat) (is : Bool) (k' : Nat) =>
        (bad = true → is = true ∧ k' = 0) ∧ (bad = false → was = false → is = false) ∧
        (bad = false → was = true → up ≤ k + 1 → is = false) ∧
        (bad = false → was = true → k + 1 < up → is = true ∧ k' = k + 1)
      Completes .canopyTick s (fun u =>
        let w := u.ring n
        judged (fault (s.port (s.portA n)).last) o.faultA o.cleanFA w.faultA w.cleanFA ∧
        judged (fault (s.port (s.portB n)).last) o.faultB o.cleanFB w.faultB w.cleanFB ∧
        judged (broke (s.port (s.portA n)).last) o.breakA o.cleanBA w.breakA w.cleanBA ∧
        judged (broke (s.port (s.portB n)).last) o.breakB o.cleanBB w.breakB w.cleanBB ∧
        u.ctr (0x13000 + 0x40 * n + 0x30) = s.ctr (0x13000 + 0x40 * n + 0x30) + BitVec.ofNat 64 (b1 (w.faultA && !o.faultA) +
          b1 (w.faultB && !o.faultB) + b1 (w.breakA && !o.breakA) + b1 (w.breakB && !o.breakB)) ∧
        (o.attach ≠ .z → w.attach = if s.laneActive n && !w.faultA && !w.faultB then .high else .low)))

/-! ## Port engines -/

/-- R85, R108, R110, R113, R119, R121 to R125, R130 to R133 and R136 for MOV, SHIN, SHOUT, WAIT and JMP: every source of a MOV goes to
every destination, a K symbol decides the branch, bits enter and leave SHR, each wait passes or repeats, and each condition of JMP decides
its branch. TRKR gives the next word of the copy on offer, with its override, the update of R85 and what follows its last symbol, and the
last word ends the copy's use of its packet (R58). An engine sees what the engines share as its cycle began, and of two that write LINK or
EGH in one cycle the higher one's value lands. A MOV to a full TXL, a SHOUT to it, and a MOV from TRKR without a word of a copy repeat.
Model's choices: log entries 41, 42 and 92. -/
def Obligations.EngineFlowResults : Prop :=
  ∀ (p : Fin 128) (e : Fin 4) (w : BitVec 24) (s : State),
    let n := p.val
    let i := e.val
    let x := s.eng n i
    let q := s.port n
    let next := x.pc.toNat + 1
    let f := fun lo len : Nat => w.toNat / 2 ^ lo % 2 ^ len
    let goes := fun u : State => EngineGoes s u n i next
    let cycle := s.portCycle n i
    let c := cycle.seen
    let holds := fun u : State => (u.eng n i).st = .holding ∧ (u.eng n i).pc = x.pc ∧
      u.port n = { q with engines := (u.port n).engines, cyc := (u.port n).cyc }
    let hasK := fun v : Word => (upto 8).any (fun j => bit v (9 * j + 8))
    let consumed := fun (u : State) (v : Word) => (u.eng n i).new = false ∧ (u.eng n i).rxw = q.rxt ∧ (u.eng n i).kf = hasK v ∧
      (u.eng n i).kl = lowK v
    let dst := f 15 5
    let jm := if f 10 5 = 0x11 then 0 else f 8 2
    let its := if q.inOpen = false ∧ x.fresh = true then x.tsc else s.stamp (6 + n / 32)
    let live := s.inService && decide (q.st = .up)
    let sent := fun v : Word => show List Message from
      if dst = 8 then [.ingress (.word v its live)]
      else if dst = 9 then
        .ingress (.word v its live) :: if hasK v then [.ingress (.auto ((s.ectl n i).extractLsb' 27 3))] else []
      else if dst = 0xA ∧ q.inOpen = true then [.ingress (.fin (v.setWidth 10) x.shr x.bcnt)] else []
    let lower := fun by' : Option Nat => ∀ e', by' = some e' → e' ≤ i
    let moved := fun (u : State) (v : Word) =>
      EngineGoes s u n i (if jm = 1 ∨ (jm = 2 ∧ hasK v = true) ∨ (jm = 3 ∧ hasK v = false) then f 0 6 else next) ∧
      (u.eng n i).shr = (if dst = 1 then v else x.shr) ∧ (u.eng n i).x = (if dst = 2 then v else x.x) ∧
      (dst = 3 → (u.eng n i).cnta = v.setWidth 16 ∧ (u.eng n i).ticka = false) ∧
      (dst = 4 → (u.eng n i).cntb = v.setWidth 16 ∧ (u.eng n i).tickb = false) ∧
      (u.eng n i).bcnt = (if dst = 5 then min 72 (v.toNat % 128) else x.bcnt) ∧
      (u.port n).txl = (if dst = 7 then some v else q.txl) ∧
      (u.link n).inFlight = (s.link n).inFlight ++ sent v ∧
      (u.port n).inOpen = (if dst = 8 then true else if dst = 9 then !hasK v else if dst = 0xA then false else q.inOpen) ∧
      (∀ k, k < 4 → bit (u.port n).pinOut k = if dst = 0xC ∧ s.pinOwner n k = i then bit v k else bit q.pinOut k) ∧
      (∀ k, k < 4 → bit (u.port n).pinOe k =
        if dst = 0xD ∧ s.pinMode n = true ∧ s.pinOwner n k = i then bit v k else bit q.pinOe k) ∧
      (dst ≠ 0xE ∨ ¬ lower cycle.holdBy → (u.port n).hold = q.hold) ∧
      (dst = 0xE → lower cycle.holdBy → (u.port n).hold = v.setWidth 8) ∧
      (dst ≠ 0xF ∨ ¬ lower cycle.linkBy → (u.port n).link = q.link) ∧
      (dst = 0xF → lower cycle.linkBy → (u.port n).link = bit v 0 ∧
        (u.port n).obs.link = ((if cycle.linkBy = none then q.obs.link else c.linkObs) || !bit v 0)) ∧
      ∀ j, j ∉ i :: cycle.ran → (u.portCycle n j).seen = c
    (q.cyc = none → c = q.shared) ∧
    (s.EngineRuns n i .mov w → ∀ v : Word,
      (f 10 5, v) ∈ [(0, 0), (1, x.shr), (2, x.x), (3, x.cnta.setWidth 72), (4, x.cntb.setWidth 72), (5, wordOf x.bcnt), (6, q.rxl),
        (0xC, (s.pinsSeen n).setWidth 72), (0xD, c.pinOe.setWidth 72), (0xE, c.hold.setWidth 72), (0xF, wordOf (b1 c.link)),
        (0x10, x.tsc), (0x11, wordOf (f 0 10))] →
      (dst = 7 → q.txl.isSome = true → Completes (.engineMov p e) s holds) ∧
      ((dst = 7 → q.txl = none) → Completes (.engineMov p e) s (fun u => moved u v ∧ (f 10 5 = 6 → consumed u v)))) ∧
    (s.EngineRuns n i .mov w → f 10 5 = 0xB →
      ((∀ o, q.offer = some o → o.cut = false ∧ o.there ≤ o.pos) ∨ (dst = 7 ∧ q.txl.isSome = true) →
        Completes (.engineMov p e) s holds) ∧
      (∀ o, q.offer = some o → (dst = 7 → q.txl = none) →
        let k := o.copy
        let bad := fun j : Nat => s.copyBad k ((k.emit.skip + j) / 8)
        let words := if s.pinMode n then (k.length + 7) / 8 else k.length / 8 + 1
        let flags := fun (u : State) (v : Word) => moved u v ∧ (u.eng n i).kf = hasK v ∧ (u.eng n i).kl = lowK v
        let ended := fun u : State => (u.port n).offer = none ∧ (u.port n).eoc = true ∧ (u.port n).tail = !s.pinMode n
        (o.cut = true → Completes (.engineMov p e) s (fun u => flags u (ofLanes (List.replicate 8 0x1FE)) ∧ ended u ∧
          u.trunk.pkts = s.trunk.pkts)) ∧
        (o.cut = false → o.pos < o.there → Completes (.engineMov p e) s (fun u => ∃ v ets, flags u v ∧
          (s.pinMode n = true → o.pos = 0 → ets = s.stamp (6 + n / 32)) ∧
          (s.pinMode n = false ∨ o.pos ≠ 0 → ∀ t, o.ets = some t → ets = t) ∧
          ((∀ j, j < k.length → bad j = false) → ∀ j, j < 8 → lane v j =
            if 8 * o.pos + j < k.length then s.copySent n k ets (8 * o.pos + j)
            else if 8 * o.pos + j = k.length ∧ s.pinMode n = false then 0x1FD else 0x107) ∧
          (∀ j, 8 * o.pos ≤ j → j < 8 * o.pos + 8 → j < k.length → bad j = true → v = ofLanes (List.replicate 8 0x1FE)) ∧
          (o.pos + 1 < words → u.trunk.pkts = s.trunk.pkts ∧ (u.port n).eoc = false ∧
            (u.port n).offer.map (fun y => (y.copy, y.pos, y.there, y.cut)) = some (k, o.pos + 1, o.there, false)) ∧
          (words ≤ o.pos + 1 → ended u ∧ u.ctr (aEgress n + 0x2000) = s.ctr (aEgress n + 0x2000) + 1 ∧
            ∀ y, mfind s.trunk.pkts k.cell = some y → (y.live ≤ 1 → Released s u y k.cell) ∧
              (1 < y.live → mfind u.trunk.pkts k.cell = some { y with live := y.live - 1 })))))) ∧
    (s.EngineRuns n i .shin w →
      let m := if f 18 2 = 1 then 9 * f 10 4 else f 10 4
      let news := fun j => if f 18 2 = 0 then bit (s.pinsSeen n) (f 16 2) else if f 18 2 = 1 then bit q.rxl j else bit x.x j
      let step := fun (y : Word × Nat) (b : Bool) =>
        let pos := y.2 % 64
        (setBit (setBit y.1 (9 * (pos / 8) + pos % 8) b) (9 * (pos / 8) + 8) false, pos + 1)
      Completes (.shin p e) s (fun u => goes u ∧ (u.eng n i).b = news (m - 1) ∧ (f 18 2 = 1 → consumed u q.rxl) ∧
        (f 14 2 = 0 → (u.eng n i).bcnt = min 72 (x.bcnt + m) ∧ ∀ j, j < 72 →
          bit (u.eng n i).shr j = if j + m < 72 then bit x.shr (j + m) else news (j + m - 72)) ∧
        (f 14 2 = 1 → (u.eng n i).bcnt = min 72 (x.bcnt + m) ∧ ∀ j, j < 72 →
          bit (u.eng n i).shr j = if m ≤ j then bit x.shr (j - m) else news (m - 1 - j)) ∧
        (f 14 2 = 2 → ((u.eng n i).shr, (u.eng n i).bcnt) = ((upto m).map news).foldl step (x.shr, x.bcnt)))) ∧
    (s.EngineRuns n i .shout w →
      let m := if f 18 2 = 1 then 9 * f 10 4 else f 10 4
      let outs := fun j => if f 14 2 = 0 then bit x.shr j else bit x.shr (71 - j)
      (f 18 2 = 1 → q.txl.isSome = true → Completes (.shout p e) s holds) ∧
      ((f 18 2 = 1 → q.txl = none) → Completes (.shout p e) s (fun u => goes u ∧ (u.eng n i).bcnt = x.bcnt - m ∧
        (u.eng n i).shr = (if f 14 2 = 0 then x.shr >>> m else x.shr <<< m) ∧
        (∀ k, k < 4 → bit (u.port n).pinOut k =
          if f 18 2 = 0 ∧ k = f 16 2 ∧ s.pinOwner n k = i then outs 0 else bit q.pinOut k) ∧
        (u.port n).txl = (if f 18 2 = 1 then
          some (ofLanes ((upto 8).map (fun j => if j < f 10 4 then lane x.shr j else 0x107))) else q.txl) ∧
        ∀ j, j < 72 → bit (u.eng n i).x j =
          if f 18 2 = 2 then (if m ≤ j then bit x.x (j - m) else outs (m - 1 - j)) else bit x.x j))) ∧
    (s.EngineRuns n i .wait w → ∀ ok : Bool,
      let sel := f 14 2
      let counter := if sel = 0 then x.cnta.toNat else if sel = 1 then x.cntb.toNat else x.bcnt
      let hit := x.new && decide (lane q.rxl (f 9 3) = w.extractLsb' 0 9)
      (f 17 3, ok) ∈ [(0, bit (s.pinsSeen n) sel != bit w 16), (1, bit x.rise sel), (2, bit x.fall sel), (3, x.new), (4, hit),
        (5, decide (counter = 0) != bit w 16), (6, c.cav), (7, x.pullf != bit w 16)] →
      Completes (.wait p e) s (fun u => (ok = true → goes u) ∧ (ok = false → holds u) ∧
        (∀ k, k < 4 → bit (u.eng n i).rise k = (bit x.rise k && !decide (f 17 3 = 1 ∧ k = sel)) ∧
          bit (u.eng n i).fall k = (bit x.fall k && !decide (f 17 3 = 2 ∧ k = sel))) ∧
        (u.eng n i).new = (x.new && !decide (f 17 3 = 4)) ∧
        (f 17 3 = 4 → ok = true → (u.eng n i).tsc = q.rxt ∧ (u.eng n i).fresh = true ∧ (u.eng n i).rxw = q.rxt))) ∧
    (s.EngineRuns n i .jmp w → ∀ ok : Bool,
      let sel := f 14 2
      let counter := if sel = 0 then x.cnta.toNat else if sel = 1 then x.cntb.toNat else x.bcnt
      (f 16 4, ok) ∈ [(0, true), (1, bit (s.pinsSeen n) sel), (2, !bit (s.pinsSeen n) sel), (3, decide (counter = 0)),
        (4, decide (counter ≠ 0)), (5, x.b), (6, !x.b), (7, x.kf), (8, !x.kf), (9, x.new), (0xA, c.cav), (0xB, c.eoc),
        (0xC, x.pullf), (0xD, !x.pushf), (0xE, decide (x.bcnt = 64)), (0xF, decide (c.st = .up))] →
      Completes (.jmp p e) s (fun u => EngineGoes s u n i (if ok then f 0 6 else next)))

/-- R126 to R130 and R140 for SETP, PUSH, PULL, CNT and MARK: owned pins and enables, the two queues with their blocking forms, the
signal of a PUSH, the counters, and the time stamp with each source. Model's choice: log entry 92. -/
def Obligations.EngineUnitResults : Prop :=
  ∀ (p : Fin 128) (e : Fin 4) (w : BitVec 24) (s : State),
    let n := p.val
    let i := e.val
    let x := s.eng n i
    let next := x.pc.toNat + 1
    let goes := fun u : State => EngineGoes s u n i next
    let holds := fun u : State => (u.eng n i).st = .holding ∧ (u.eng n i).pc = x.pc
    let imm := w.toNat % 65536
    let a := w.toNat / 2 ^ 18 % 4
    let b := w.toNat / 2 ^ 16 % 4
    (s.EngineRuns n i .setp w → Completes (.setp p e) s (fun u => goes u ∧ ∀ j, j < 4 →
      bit (u.port n).pinOut j =
        (if bit w (16 + j) = true ∧ s.pinOwner n j = i then bit w (12 + j) else bit (s.port n).pinOut j) ∧
      bit (u.port n).pinOe j = (if s.pinMode n = true ∧ bit w (8 + j) = true ∧ s.pinOwner n j = i then bit w (4 + j)
        else bit (s.port n).pinOe j))) ∧
    (s.EngineRuns n i .push w →
      (x.pushf = true → bit w 17 = true → Completes (.enginePush p e) s (fun u => holds u ∧ (u.eng n i).pushq = x.pushq ∧
        (u.eng n i).pushf = true)) ∧
      (∀ v : Word, (x.pushf = true → bit w 17 = false) →
        (a, v) ∈ [(0, x.shr), (1, x.x), (2, BitVec.ofNat 72 (x.cntb.toNat * 2 ^ 16 + x.cnta.toNat)), (3, x.tsc)] →
        Completes (.enginePush p e) s (fun u =>
          let sig := s.reg (aEngine n i + 0x58)
          let g := sig.toNat / 2 ^ 15 % 8
          goes u ∧ (u.eng n i).pushq = v ∧ (u.eng n i).pushf = true ∧
          bit (u.reg (aEngine n i + 8)) 23 = (bit (s.reg (aEngine n i + 8)) 23 || x.pushf) ∧
          (u.eng n i).shr = (if bit w 15 then 0 else x.shr) ∧ (u.eng n i).bcnt = (if bit w 15 then 0 else x.bcnt) ∧
          (u.link (152 + g)).inFlight = (s.link (152 + g)).inFlight ++ if bit w 16 && bit sig 31 then
            [.signal (sig.extractLsb' 6 12) (sig.extractLsb' 0 3)] else []))) ∧
    (s.EngineRuns n i .pull w →
      (x.pullf = false → bit w 17 = true → Completes (.pull p e) s holds) ∧
      ((x.pullf = false → bit w 17 = false) → Completes (.pull p e) s (fun u => goes u ∧ (u.eng n i).pullf = false ∧
        (u.eng n i).shr = (if x.pullf = true ∧ a = 0 then x.pullq else x.shr) ∧
        (u.eng n i).x = (if x.pullf = true ∧ a = 1 then x.pullq else x.x) ∧
        (x.pullf = true → a = 2 → (u.eng n i).cnta = x.pullq.setWidth 16 ∧ (u.eng n i).ticka = false) ∧
        (x.pullf = true → a = 3 → (u.eng n i).cntb = x.pullq.setWidth 16 ∧ (u.eng n i).tickb = false)))) ∧
    (s.EngineRuns n i .cnt w →
      let becomes := fun old top : Nat => if b = 1 then old - imm else if b = 2 then min (old + imm) top else min imm top
      Completes (.cnt p e) s (fun u => goes u ∧
        (a = 0 → (u.eng n i).cnta.toNat = becomes x.cnta.toNat 0xFFFF ∧ (u.eng n i).ticka = decide (b = 3)) ∧
        (a = 1 → (u.eng n i).cntb.toNat = becomes x.cntb.toNat 0xFFFF ∧ (u.eng n i).tickb = decide (b = 3)) ∧
        (a = 2 → (u.eng n i).bcnt = min 72 (becomes x.bcnt 72)) ∧
        (a ≠ 0 → (u.eng n i).cnta = if x.ticka = true ∧ x.cnta ≠ 0 then x.cnta - 1 else x.cnta))) ∧
    (s.EngineRuns n i .mark w → Completes (.mark p e) s (fun u => goes u ∧ (u.eng n i).fresh = true ∧
      (u.eng n i).tsc = if a = 0 then s.stamp (6 + n / 32) else if a = 1 then x.rxw else mget 0 (s.port n).pinT b))

/-- R109, R113, R115, R118 and R140 for what reaches an engine from outside: the reserved pattern, a received word, a pin edge and a
signal. Model's choice: log entry 92. -/
def Obligations.EngineEvents : Prop :=
  ∀ (p : Fin 128) (s : State),
    let n := p.val
    let q := s.port n
    s.portOn n = true →
      (∀ e : Fin 4, (s.eng n e.val).st ≠ .halted → engDecode (s.engFetch n e.val) = none →
        Completes (.engineReservedFetch p e) s (fun u => (u.eng n e.val).st = .halted ∧ (u.eng n e.val).errc = 1 ∧
          (u.eng n e.val).pc = (s.eng n e.val).pc ∧ bit (u.reg (aEngine n e.val + 8)) 29 = true)) ∧
      (∀ w, s.pinMode n = false → Completes (.rxWord p w) s (fun u => (u.port n).rxl = w ∧ (u.port n).rxt = s.stamp (6 + n / 32) ∧
        (∀ i, i < 4 → (u.eng n i).new = true) ∧
        ((s.eng n (s.ine n)).new = true → (s.eng n (s.ine n)).st ≠ .halted →
          bit (u.reg (aEngine n (s.ine n) + 8)) 24 = true))) ∧
      (∀ (k : Fin 4) level, bit q.pinIn k.val ≠ level → s.pinMode n = true → Completes (.pinEdge p k level) s (fun u =>
        bit (u.port n).pinIn k.val = level ∧ mget 0 (u.port n).pinT k.val = s.stamp (6 + n / 32) ∧
        ∀ i, i < 4 → if level then bit (u.eng n i).rise k.val = true else bit (u.eng n i).fall k.val = true)) ∧
      (∀ (g : Fin 8) (th : Thid) (line : BitVec 3) rest,
        (s.link (152 + g.val)).buf = .signal th line :: rest → Completes (.engineSignal g) s (fun u =>
          (u.link (152 + g.val)).buf = rest ∧ ∀ j, j < 8 → bit (u.thread th.toNat).lines j =
            (bit (s.thread th.toNat).lines j || (s.groveOpen g.val && decide (j = line.toNat)))))

/-- R7, R89, R112, R116, R138, R139, R141 to R143, R147 and R148 for the registers of a port and its engines; a PECFG write that would
break the pair of an enabled ring is ignored, with CFGERR of the ring. Model's choice: log entry 90. -/
def Obligations.EngineRegisters : Prop :=
  ∀ (src : Src) (p : Fin 128) (e : Fin 4) (d : BitVec 32) (w : Word) (s : State),
    let n := p.val
    let i := e.val
    let a := aEngine n i
    let x := s.eng n i
    let lo := d.toNat / 2 ^ 12 % 64
    let hi := d.toNat / 2 ^ 6 % 64
    let wide := fun o : Nat => s.HostReaches src (a + o) ∧ s.HostReaches src (a + o + 4) ∧ s.HostReaches src (a + o + 8)
    (s.HostReaches src (a + 4) →
      (bit d 0 = true → Completes (.engineHalt src p e d) s (fun u => (u.eng n i).st = .halted ∧ (u.eng n i).pc = x.pc)) ∧
      (bit d 0 = false → bit d 1 = true → x.st = .halted → Completes (.engineFlush src p e d) s (fun u =>
        (u.eng n i).shr = 0 ∧ (u.eng n i).bcnt = 0 ∧ (u.eng n i).new = false ∧ (u.eng n i).rise = 0 ∧ (u.eng n i).fall = 0 ∧
        (u.eng n i).st = .halted))) ∧
    (s.HostReaches src a →
      (bit d 31 = true → x.st = .halted → bit (s.reg (a + 8)) 29 = false → lo ≤ x.pc.toNat → x.pc.toNat ≤ hi → x.pc.toNat < 48 →
        Completes (.engineResume src p e d) s (fun u => (u.eng n i).st = .running ∧ (u.eng n i).pc = x.pc)) ∧
      (x.st = .halted → Completes (.ectlWrite src p e d) s (fun u => u.reg a = d &&& 0x78FFFFC0))) ∧
    (s.HostReaches src (a + 8) → x.st = .halted → Completes (.estatWrite src p e d) s (fun u =>
      (u.eng n i).pc = d.extractLsb' 0 6 ∧ (u.eng n i).bcnt = min 72 (d.toNat / 2 ^ 6 % 128) ∧
      u.reg (a + 8) = s.reg (a + 8) &&& ~~~(d &&& 0x27E00000))) ∧
    (x.st = .halted →
      (wide 0x10 → Completes (.engineStateWrite src p e .shr w) s (fun u => (u.eng n i).shr = w)) ∧
      (wide 0x1C → Completes (.engineStateWrite src p e .x w) s (fun u => (u.eng n i).x = w)) ∧
      (s.HostReaches src (a + 0xC) → Completes (.engineStateWrite src p e .cnt w) s (fun u =>
        (u.eng n i).cnta = w.extractLsb' 0 16 ∧ (u.eng n i).cntb = w.extractLsb' 16 16))) ∧
    (wide 0x34 → Completes (.pullqWrite src p e w) s (fun u => (u.eng n i).pullf = true ∧
      (x.pullf = false → (u.eng n i).pullq = w) ∧
      (x.pullf = true → (u.eng n i).pullq = x.pullq ∧ bit (u.reg (a + 8)) 22 = true))) ∧
    (s.HostReaches src (a + 0x28) → Completes (.pushqRead src p e) s (fun u => (u.eng n i).pushf = false ∧
      u.mgmt.rdata = x.pushq.setWidth 32)) ∧
    (∀ k : Fin 48, s.HostReaches src (aIsland n + 0x400 * (n % 32) + 4 * k.val) →
      (∀ j, j < 4 → (s.eng n j).st = .halted) → Completes (.engineStoreWrite src p k d) s (fun u =>
        ∀ j, mget 0 (u.port n).store j = if j = k.val then d.setWidth 24 else mget 0 (s.port n).store j)) ∧
    (s.HostReaches src (aIsland n + 0x400 * (n % 32) + 0xC0) → Completes (.pecfgWrite src p d) s (fun u =>
      let off := (s.port n).st = .off
      let mode := if off then bit d 31 else s.pinMode n
      let rate := if off ∧ d.toNat / 2 ^ 28 % 8 ≤ 4 then d.toNat / 2 ^ 28 % 8 else (s.pecfg n).toNat / 2 ^ 28 % 8
      let pads := bit d 31 = true → bit s.ties.pinpads n = true
      let breaks := fun r : Nat => r < 16 ∧ s.ringEn r = true ∧ (s.portA r = n ∨ s.portB r = n) ∧
        (mode = true ∨ rate ≠ (s.pecfg (if s.portA r = n then s.portB r else s.portA r)).toNat / 2 ^ 28 % 8)
      let changes := ¬ (mode = s.pinMode n ∧ rate = (s.pecfg n).toNat / 2 ^ 28 % 8)
      (¬ pads → u.pecfg n = s.pecfg n) ∧
      (pads → changes → (∃ r, breaks r) → u.pecfg n = s.pecfg n ∧ ∃ r, breaks r ∧ bit (u.reg (aRing r + 0x14)) 26 = true) ∧
      (pads → (changes → ∀ r, ¬ breaks r) → (∀ j, 14 ≤ j → j < 28 → bit (u.pecfg n) j = bit d j) ∧
        u.pinMode n = mode ∧ (u.pecfg n).toNat / 2 ^ 28 % 8 = rate)))

/-! ## Grove memory, DMA and the lock unit -/

/-- R204, R207, R290, R291, R292, R295, R296, R297, R298 and R317 for BOWN, the end of a handover and of a clear, the
write-back, the scrubber and the bank window, with the host, the TAP or a thread as the source. The BOWN clause covers the ports
of banks 0 to 29. Model's choice: log entry 44. -/
def Obligations.GroveMemoryResults : Prop :=
  ∀ (src : Src) (g : Fin 8) (bp : Fin 34) (bank : Fin 32) (d : BitVec 32) (word : BitVec 17) (s : State),
    let v := s.grove g.val
    let a := aBanks g.val
    let old := s.reg (a + 4 * bp.val)
    let refused := s.bownSource g.val bp.val src = false ∨ v.bpend.contains bp.val = true ∨ (bit d 31 = false ∧
      d.toNat / 2 ^ 29 % 4 ≠ 0) ∨
      (bit d 31 = false ∧ bit old 31 = true ∧ old.toNat / 2 ^ 29 % 4 ≠ 0)
    let sel := s.reg (a + 0x210)
    let w := sel.toNat % 2 ^ 17
    let on := fun u : State => u.reg (a + 0x210) = if bit sel 31 then setFld sel 0 17 (w + 1) else sel
    (bp.val < 30 → s.Writes src (a + 4 * bp.val) d → Completes (.bownWrite src g bp d) s (fun u =>
      (refused → u.reg (a + 4 * bp.val) = old ∧ bit (u.reg (a + 0x100 + 4 * bp.val)) 1 = true) ∧
      (¬ refused → u.reg (a + 4 * bp.val) = d &&& 0xFF800000 ∧
        (bit d 31 = true → bit old 31 = false → mfind (u.grove g.val).bclr bp.val = some v.cyc) ∧
        (bit d 31 = false → bit old 31 = true → mfind (u.grove g.val).bclr bp.val = none ∧
          (∀ x, mget 0 (u.grove g.val).scratch x = if x / 4096 = bp.val then 0 else mget 0 v.scratch x) ∧
          ∀ x, x < 4096 → thG x = g.val → (s.thread x).wait = .bank bp.val → (u.thread x).wait = .ready)))) ∧
    (s.groveOn g.val = true → v.bpend.contains bp.val = true → s.portBusy g.val bp.val = false →
      Completes (.handoverComplete g bp) s (fun u => (∀ q, q ∈ (u.grove g.val).bpend ↔ q ∈ v.bpend ∧ q ≠ bp.val) ∧
        ∀ x, x < 4096 → thG x = g.val → (s.thread x).wait = .bank bp.val → (u.thread x).wait = .ready)) ∧
    (∀ t0, s.groveOn g.val = true → mfind v.bclr bank.val = some t0 → t0 + 4096 ≤ v.cyc →
      Completes (.bankClearComplete g bank) s (fun u => mfind (u.grove g.val).bclr bank.val = none ∧
        ∀ x, mget 0 (u.grove g.val).scratch x = if x / 4096 = bank.val then 0 else mget 0 v.scratch x)) ∧
    (s.groveOn g.val = true → v.wback.contains word.toNat = true → Completes (.eccWriteback g word) s (fun u =>
      (∀ x, mget 0 (u.grove g.val).secc x = if x = word.toNat then 0 else mget 0 v.secc x) ∧
        word.toNat ∉ (u.grove g.val).wback ∧ (u.grove g.val).scratch = v.scratch)) ∧
    (s.groveOn g.val = true → bit (s.reg (a + 0x200)) 31 = true → bit (s.reg (a + 4 * bank.val)) 31 = true →
      mfind v.bclr bank.val = none → mget 0 v.scrubT bank.val ≤ v.cyc →
      let x := bank.val * 4096 + mget 0 v.scrubAt bank.val
      mget 0 v.secc x < 2 → Completes (.scrubRead g bank) s (fun u =>
        mget 0 (u.grove g.val).scrubAt bank.val = (mget 0 v.scrubAt bank.val + 1) % 4096 ∧
        mget 0 (u.grove g.val).scrubT bank.val = v.cyc + max 1 ((s.reg (a + 0x200)).toNat % 65536) * 64 ∧
        (mget 0 v.secc x = 1 → x ∈ (u.grove g.val).wback ∧ u.ctr (a + 0x220) = s.ctr (a + 0x220) + 1) ∧
        (u.grove g.val).scratch = v.scratch)) ∧
    (s.HostReaches src (a + 0x214) → (bit sel 17 = true → 30 ≤ w / 4096) → bit (s.reg (a + 4 * (w / 4096))) 31 = true →
      mget 0 v.secc w = 0 → Completes (.bankWindowRead src g) s (fun u =>
        u.mgmt.rdata = (mget 0 v.scratch w).setWidth 32 ∧ on u ∧ (u.grove g.val).scratch = v.scratch)) ∧
    (∀ x r, s.ThreadReads x (a + 0x214) r → (bit sel 17 = true → 30 ≤ w / 4096) → bit (s.reg (a + 4 * (w / 4096))) 31 = true →
      mget 0 v.secc w = 0 → Completes (.bankWindowRead (.thread x) g) s (fun u => on u ∧ (u.grove g.val).scratch = v.scratch ∧
        Lands u x.toNat r (((mget 0 v.scratch w).setWidth 32).setWidth 72) none)) ∧
    (s.Writes src (a + 0x21C) d → (bit sel 17 = true → 30 ≤ w / 4096) →
      let port := if bit sel 17 then w / 4096 + 2 else w / 4096
      ((s.reg (a + 4 * port)).toNat / 2 ^ 29 % 4 = 3 → bit (s.reg (a + 4 * (w / 4096))) 31 = true →
        s.WritesAlone g.val w (bit sel 17) → Completes (.bankWindowCommit src g d) s (fun u => on u ∧
        ∀ x, mget 0 (u.grove g.val).scratch x = if x = w then s.staged72 (a + 0x214) d else mget 0 v.scratch x)) ∧
      (((s.reg (a + 4 * port)).toNat / 2 ^ 29 % 4 ≠ 3 ∨ bit (s.reg (a + 4 * (w / 4096))) 31 = false) → v.bwHeld ≠ some port →
        Completes (.bankWindowCommit src g d) s (fun u =>
        (u.grove g.val).scratch = v.scratch ∧ bit (u.reg (a + 0x100 + 4 * (w / 4096))) 1 = true ∧ u.reg (a + 0x210) = sel)))

/-- R204, R207, R293 and R299 to R301 for the DMA engine: GO, from the host, the TAP or a thread, starts a copy in scratchpad or is
refused with ECODE 4, STOP ends it, each word of a copy from scratchpad to scratchpad moves to its place in the channel's turn and
counts LEFT down, and a word that lost its port on the way stops the channel with ECODE 1. Model's choice: log entry 73. -/
def Obligations.DmaResults : Prop :=
  ∀ (src : Src) (g k : Fin 8) (d : BitVec 32) (s : State),
    let q := s.dma g.val k.val
    let a := aDma g.val + 0x40 * k.val
    (s.Writes src (a + 0x14) d → bit d 31 = true → bit d 30 = false → q.busy = false →
      (q.cnt ≠ 0 → q.src.toNat + q.cnt.toNat ≤ 2 ^ 17 → q.dst.toNat + q.cnt.toNat ≤ 2 ^ 17 →
        Completes (.dmaGo src g k d) s (fun u => (u.dma g.val k.val).busy = true ∧ (u.dma g.val k.val).left = q.cnt.toNat ∧
          (u.dma g.val k.val).src = q.src ∧ (u.dma g.val k.val).dst = q.dst)) ∧
      (q.cnt = 0 → Completes (.dmaGo src g k d) s (fun u => (u.dma g.val k.val).busy = false ∧
        (u.dma g.val k.val).code = 4 ∧ bit (u.reg (a + 0x18)) 29 = true))) ∧
    (s.Writes src (a + 0x14) d → bit d 30 = true → bit d 31 = false → q.busy = true → Completes (.dmaStop src g k d) s (fun u =>
      (q.data = none → q.ext = false → (u.dma g.val k.val).busy = false ∧ (u.dma g.val k.val).code = 5 ∧
        (u.dma g.val k.val).left = q.left ∧ bit (u.reg (a + 0x18)) 29 = true) ∧
      ((q.data.isSome = true ∨ q.ext = true) → (u.dma g.val k.val).busy = true ∧ (u.dma g.val k.val).stop = true))) ∧
    (let x := q.src.toNat + (q.cnt.toNat - q.left)
     let y := q.dst.toNat + (q.cnt.toNat - q.left)
     let free := fun b : Nat => ∃ bp, s.dmaPort g.val b = some bp ∧ (s.grove g.val).bpend.contains bp = false ∧
       mfind (s.grove g.val).bclr b = none
     let turn := (s.grove g.val).dmaTurn
     ∀ m, m < 8 → k.val = (turn + 1 + m) % 8 → (∀ j, j < m → (s.dma g.val ((turn + 1 + j) % 8)).busy = false) →
     s.groveOn g.val = true → q.busy = true → q.ext = false → q.data = none → q.pres = none → q.lost = false → x < 2 ^ 17 →
       y < 2 ^ 17 → free (x / 4096) →
      free (y / 4096) → (∀ bp, s.dmaPort g.val (y / 4096) = some bp → s.WritesAlone g.val y (isPortB bp)) →
      mget 0 (s.grove g.val).secc x = 0 → Completes (.dmaWord g k) s (fun u =>
        (∀ z, mget 0 (u.grove g.val).scratch z =
          if z = y then mget 0 (s.grove g.val).scratch x else mget 0 (s.grove g.val).scratch z) ∧
        (u.dma g.val k.val).left = q.left - 1 ∧ (u.grove g.val).dmaTurn = k.val ∧
        (q.left = 1 → (u.dma g.val k.val).busy = false ∧ bit (u.reg (a + 0x18)) 30 = true) ∧
        (1 < q.left → q.stop = false → (u.dma g.val k.val).busy = true))) ∧
    (∀ w, s.groveOn g.val = true → s.dmaNow g.val = some k.val → q.data = some w → q.lost = true →
      q.dst.toNat + (q.cnt.toNat - q.left) < 2 ^ 39 → Completes (.dmaWord g k) s (fun u => (u.dma g.val k.val).busy = false ∧
        (u.dma g.val k.val).code = 1 ∧ bit (u.reg (a + 0x18)) 29 = true ∧ (u.grove g.val).scratch = (s.grove g.val).scratch))

/-- R204, R207, R305 to R307, R311 and R313 for LKREL, EVSET, EVCLR and CHFLUSH, from a source that may write them, and the
stall census: a forced release passes the lock to its oldest waiter, flags are set and cleared by bits, between two grove cycles
with their waits and routes, which otherwise follow at the cycle's end, unbound messages go, and a stalled grove raises STALL. -/
def Obligations.LockRegisters : Prop :=
  ∀ (src : Src) (g : Fin 8) (lk : BitVec 12) (th : Thid) (h : Fin 2) (mask : BitVec 32) (ch : Fin 64) (s : State),
    let v := s.grove g.val
    let a := aLocks g.val
    (s.recSrc src g.val = true →
      (s.Writes src (a + 0x4A0) (lk.setWidth 32) → lk.toNat < 256 → (s.lock g.val lk.toNat).holder.isSome = true →
        Completes (.lkrelLock src g lk) s (fun u =>
        (u.lock g.val lk.toNat).holder = (s.lock g.val lk.toNat).waiters.head? ∧
        (u.lock g.val lk.toNat).waiters = (s.lock g.val lk.toNat).waiters.tail)) ∧
      (s.Writes src (a + 0x4A0) (lk.setWidth 32) → 256 ≤ lk.toNat →
        Completes (.lkrelLock src g lk) s (fun u => (u.grove g.val).locks = v.locks)) ∧
      (s.Writes src (a + 0x4A0) (th.setWidth 32 + 0x10000) → thG th.toNat = g.val →
        Completes (.lkrelThread src g th) s (fun u => ∀ x, th.toNat ∉ (s.lock g.val x).waiters →
        (u.lock g.val x).holder = if (s.lock g.val x).holder = some th.toNat then (s.lock g.val x).waiters.head?
          else (s.lock g.val x).holder))) ∧
    (s.Writes src (a + 0x488 + 4 * h.val) mask → Completes (.evset src g h mask) s (fun u => ∀ i, i < 32 →
      let f := 32 * h.val + i
      bit (u.grove g.val).flags f = (bit v.flags f || bit mask i) ∧
      bit (u.grove g.val).flags (32 * (1 - h.val) + i) = bit v.flags (32 * (1 - h.val) + i) ∧
      (bit mask i = true → (s.beat g.val).inCycle = false → (∀ x, x < 4096 → thG x = g.val → (s.thread x).wait = .event f → (u.thread x).wait = .ready) ∧
        (bit v.flags f = false → bit (s.reg (a + 0x500 + 4 * f)) 31 = true →
          let r := (s.reg (a + 0x500 + 4 * f)).toNat
          bit (u.thread (thid g.val (r / 2 ^ 9 % 32) (r / 2 ^ 5 % 16))).lines (r % 8) = true)) ∧
      ((s.beat g.val).inCycle = true → ∀ x, (u.thread x).wait = (s.thread x).wait ∧ (u.thread x).lines = (s.thread x).lines))) ∧
    (s.Writes src (a + 0x490 + 4 * h.val) mask → Completes (.evclr src g h mask) s (fun u => ∀ i, i < 32 →
      bit (u.grove g.val).flags (32 * h.val + i) = (bit v.flags (32 * h.val + i) && !bit mask i) ∧
      bit (u.grove g.val).flags (32 * (1 - h.val) + i) = bit v.flags (32 * (1 - h.val) + i))) ∧
    (s.recSrc src g.val = true → s.Writes src (a + 0x4A4) (BitVec.ofNat 32 ch.val) → (s.chan g.val ch.val).readers = [] →
      (s.chan g.val ch.val).writers = [] →
      Completes (.chflush src g ch) s (fun u =>
        (u.chan g.val ch.val).msgs = (s.chan g.val ch.val).msgs.filter (fun m => m.reader.isSome))) ∧
    (∀ t0, s.groveOn g.val = true → s.stall g.val = { since := some t0, raised := false } → s.isStalled g.val = true →
      t0 + max 1 ((s.reg (a + 0x4A8)).toNat % 65536) * 256 ≤ v.cyc → Completes (.stallCensus g) s (fun u =>
        (u.grove g.val).nmiStall = true ∧ (u.stall g.val).raised = true ∧ u.ctr (a + 0x4B8) = s.ctr (a + 0x4B8) + 1))

/-! ## The lookup engine -/

/-- R335, R337, R338, R341, R342, R345 and R350 for the lookup commands: INSERT, REPLACE, DELETE, READ, TESTINS, SCAN, FLUSH, FREBUILD
and an undefined OP, with their result codes; a command that needs a slot reads it first; an INSERT into an occupied pair moves an
entry to its other slot, or goes to the stash, or fails when that is full; and a failing write ends its command with MEMERR. Where
several free slots may take an entry, which one does is a free value (log entry 22).
Model's choices: log entries 22, 50, 52, 98 and 118. -/
def Obligations.LookupCommands : Prop :=
  ∀ (slot : LkSlot) (s : State),
    let k := lkKey slot
    let c := s.cmd k
    let t := c.table.toNat
    let runs := fun op : Nat => s.cmdReady k = true ∧ c.op.toNat = op ∧ c.wleft = 0
    let fit := fun op : Nat => runs op ∧ t < 64 ∧ c.live = true ∧ (op ≤ 5 → s.badKey t c = false)
    let ends := fun (u : State) (rc : BitVec 4) => (u.cmd k).ran = true ∧ (u.cmd k).rcN = rc
    let same := fun u : State => ∀ x, u.entry t x = s.entry t x
    let sets := fun (u : State) (p : Nat) (e : Option Entry) => ∀ x, u.entry t x = if x = p then e else s.entry t x
    let calm := s.tblMode t = 2 ∧ ∀ x, mget 0 s.lookup.ecc (eccKey t x) = 0
    let alone := ∀ x, s.unaccepted t (some k) x = false
    let quiet := s.lookup.hits = [] ∧ ∀ y ∈ s.lookup.cmds, y.1 ≠ k → y.2.plan = []
    let goesOn := s.cmdClear k { c with missed := true } = true
    let rows := [(Instr.insert slot, 1), (.replace slot, 2), (.delete slot, 3), (.read slot, 4), (.testins slot, 5), (.scan slot, 6),
      (.flush slot, 7), (.frebuild slot, 8)]
    (∀ i op, (i, op) ∈ rows → runs op → (op = 5 → quiet) → (64 ≤ t ∨ c.live = false) → Completes i s (fun u => ends u 4 ∧ same u)) ∧
    (∀ i op, (i, op) ∈ rows → op ≤ 5 → runs op → t < 64 → c.live = true → (op = 5 → s.tblLpm t = false ∧ quiet) →
      s.badKey t c = true → Completes i s (fun u => ends u 5 ∧ same u)) ∧
    (runs c.op.toNat → (c.op.toNat = 0 ∨ 9 ≤ c.op.toNat) → Completes (.badop slot) s (fun u => ends u 8 ∧ same u)) ∧
    (∀ i op p, (i, op) ∈ rows → op ≤ 4 → fit op → (s.locate k t c.plen c.key).1 = .need p → Completes i s (fun u =>
      (u.cmd k).ran = false ∧ (u.cmd k).rpos = p ∧ (u.cmd k).rleft = 4 ∧ same u)) ∧
    (∀ p e, (s.locate k t c.plen c.key).1 = .here p e →
      (fit 1 → Completes (.insert slot) s (fun u => ends u 2 ∧ same u)) ∧
      (fit 2 → alone → s.slotFree t p = true → Completes (.replace slot) s (fun u => ends u 0 ∧
        sets u p (some { s.newEntry c with lasthit := e.lasthit }))) ∧
      (fit 3 → alone → s.slotFree t p = true → Completes (.delete slot) s (fun u => ends u 0 ∧ sets u p none)) ∧
      (fit 4 → Completes (.read slot) s (fun u => ends u 0 ∧ same u ∧ (u.cmd k).res = e.result ∧ (u.cmd k).ent = e.e3)) ∧
      (fit 5 → s.tblLpm t = false → calm → c.missed = false → quiet → alone → s.slotFree t p = true →
        (∀ y ∈ (s.tbl t).slots, y.2.key = e.key → y.2.plen = e.plen → y = (p, e)) → Completes (.testins slot) s (fun u => ends u 2 ∧
        (u.cmd k).res = e.result ∧
        sets u p (some (if bit (s.tblCfg t) 27 then { e with lasthit := s.tick32 } else e))))) ∧
    ((s.locate k t c.plen c.key).1 = .absent →
      (fit 2 → Completes (.replace slot) s (fun u => ends u 1 ∧ same u)) ∧
      (fit 3 → Completes (.delete slot) s (fun u => ends u 1 ∧ same u)) ∧
      (fit 4 → Completes (.read slot) s (fun u => ends u 1 ∧ same u)) ∧
      ∀ p q, s.slotPair t c.plen c.key = (p, q) →
        ((s.entry t p = none ∨ s.entry t q = none) → alone → s.slotFree t p = true → s.slotFree t q = true →
          let placed := fun u : State => ends u 0 ∧ ∃ x, (x = p ∨ x = q) ∧ s.entry t x = none ∧ sets u x (some (s.newEntry c))
          (fit 1 → Completes (.insert slot) s placed) ∧
          (fit 5 → s.tblLpm t = false → calm → c.missed = false → quiet → goesOn → Completes (.testins slot) s placed)) ∧
        (∀ d e, s.entry t p = some d → s.entry t q = some e → fit 1 → calm → alone →
          let y := s.otherSlot t p d
          let z := s.otherSlot t q e
          (s.entry t y = none → s.entry t z = none → s.moveOk t = true → s.slotFree t y = true → s.slotFree t z = true →
            Completes (.insert slot) s (fun u => ends u 0 ∧ (u.tbl t).moves = (s.tbl t).moves + 1 ∧
              ((sets u y (some d) ∧ (u.cmd k).plan.map (fun w => (w.pos, w.entry)) = [(p, some (s.newEntry c))]) ∨
                (sets u z (some e) ∧ (u.cmd k).plan.map (fun w => (w.pos, w.entry)) = [(q, some (s.newEntry c))])))) ∧
          ((s.chain k t 8 p []).1 = .dead → (s.chain k t 8 q []).1 = .dead →
            ((∀ j, j < 1024 → s.entry t (2 ^ s.tblSz t + j) ≠ none) → Completes (.insert slot) s (fun u => ends u 3 ∧ same u ∧
              u.ctr (0xA2000 + 0x80 * t + 0x28) = s.ctr (0xA2000 + 0x80 * t + 0x28) + 1)) ∧
            ((∃ j, j < 1024 ∧ s.entry t (2 ^ s.tblSz t + j) = none) →
              (∀ j, j < 1024 → s.slotFree t (2 ^ s.tblSz t + j) = true) → Completes (.insert slot) s (fun u => ends u 0 ∧
                ∃ j, j < 1024 ∧ s.entry t (2 ^ s.tblSz t + j) = none ∧ sets u (2 ^ s.tblSz t + j) (some (s.newEntry c))))))) ∧
    (fit 6 →
      (∀ e, c.pos.toNat < s.tblPositions t → (s.cmdHas k t c.pos.toNat).1 = .hit → s.entry t c.pos.toNat = some e →
        Completes (.scan slot) s (fun u => ends u 0 ∧ same u ∧ (u.cmd k).keyl = e.keyl ∧ (u.cmd k).keyh = e.keyh ∧
          (u.cmd k).res = e.result ∧ (u.cmd k).ent = e.e3 ∧ (u.cmd k).pos = c.pos + 1)) ∧
      (s.tblPositions t ≤ c.pos.toNat → Completes (.scan slot) s (fun u => ends u 1 ∧ same u))) ∧
    (fit 7 → Completes (.flush slot) s (fun u => (u.cmd k).ran = true ∧ (u.cmd k).rcN = 0 ∧ ∀ x, u.entry t x = none)) ∧
    (fit 8 → s.tblLpm t = true → calm →
      (s.tblPositions t ≤ c.cur + 4096 → Completes (.frebuild slot) s (fun u => ends u 0 ∧ same u ∧
        bit (u.reg (aTable t + 0x10)) 30 = false)) ∧
      (c.cur + 4096 < s.tblPositions t → Completes (.frebuild slot) s (fun u => (u.cmd k).ran = false ∧
        (u.cmd k).cur = c.cur + 4096 ∧ same u ∧ u.reg (aTable t + 0x10) = s.reg (aTable t + 0x10)))) ∧
    (∀ (p : Fin 12) (tag : Fin 512) q x, s.islandUp 5 = true → p.val < s.ties.memports →
      mfind (s.mem p.val).tags tag.val = some q → q.write = true → q.src = .cmd k → c.rcN ≠ 6 → c.op ≠ 7 → c.undo = [x] → x.sure = true →
      quiet → Completes (.memoryWriteAck p tag true) s (fun u => ends u 6 ∧ (u.cmd k).plan = [] ∧ sets u x.pos x.old ∧
        u.ctr (0xA2000 + 0x80 * t + 0x40) = s.ctr (0xA2000 + 0x80 * t + 0x40) + 1))

/-- R322, R329 to R334, R339, R342, R346, R347, R350 and R354 for the lookups and the ends of commands: a request takes the stash entry
or the slot that matches, the longest one of a longest-prefix table, and nothing while the table is cleared; with MODE 0 a slot that is not in the cache is read, with MODE 1 it counts
in CMISS and does not match; a probe's return, the answer to the thread with P, the completion of a command, the load of LKCMD, and
the sweeper's visit. Model's choices: log entries 47, 49, 52 and 118. -/
def Obligations.LookupFlow : Prop :=
  ∀ (g : Fin 8) (th : Thid) (slot : LkSlot) (i : Fin 16) (s : State),
    let n := th.toNat
    let id := s.lookup.flNext
    let gives := fun (u : State) (j : Nat) (r : Option Word) => (mfind u.lookup.flight j).map (·.result) = some (some r)
    (∀ r rest, (s.link (168 + g.val)).buf = .lookup r :: rest → s.lookup.ready = true →
      let t := r.table
      let best := s.stashBest t r.lpm r.key 145
      let counter := fun k : Nat => 0xA2000 + 0x80 * t + 8 * k
      ((s.tblEn t = false ∨ s.tblLpm t ≠ r.lpm) → Completes (.lookupRequest g) s (fun u =>
        (u.link (168 + g.val)).buf = rest ∧
        (mfind u.lookup.flight id).map (·.bad) = some (some (BitVec.ofNat 40 t, false)))) ∧
      (s.tblEn t = true → s.tblLpm t = r.lpm → (s.tbl t).clr.isSome = true → Completes (.lookupRequest g) s (fun u =>
        gives u id none ∧ u.ctr (counter 0) = s.ctr (counter 0) + 1)) ∧
      (s.tblEn t = true → (s.tbl t).clr = none → (∀ x, mget 0 s.lookup.ecc x = 0) →
        (∀ p q, s.tblLpm t = false → r.lpm = false → s.slotPair t 144 r.key = (p, q) →
          (∀ x, best = some x → s.entry t x.1 = some x.2 → Completes (.lookupRequest g) s (fun u => (u.link (168 + g.val)).buf = rest ∧
            gives u id (some x.2.result) ∧ u.ctr (counter 0) = s.ctr (counter 0) + 1 ∧ u.ctr (counter 1) = s.ctr (counter 1) + 1)) ∧
          (best = none → s.tblMode t = 2 →
            (∀ e, s.entry t p = some e → e.matchAt r.key 144 = true → Completes (.lookupRequest g) s (fun u =>
              gives u id (some e.result))) ∧
            (s.entry t p = none → s.entry t q = none → Completes (.lookupRequest g) s (fun u => gives u id none))) ∧
          (best = none → s.isPinned t p = false → s.isPinned t q = false → (t, p) ∉ s.lookup.cache →
            (s.tblMode t ≠ 1 → Completes (.lookupRequest g) s (fun u =>
              (mfind u.lookup.flight id).map (fun v => (v.mem, v.left, v.todo)) = some (some (144, p), 4, [(144, q)]))) ∧
            (s.tblMode t = 1 → (t, q) ∉ s.lookup.cache → Completes (.lookupRequest g) s (fun u => gives u id none ∧
              u.ctr (counter 7) = s.ctr (counter 7) + 2 ∧ (mfind u.lookup.fills (eccKey t p)).isSome = true ∧
              (mfind u.lookup.fills (eccKey t q)).isSome = true)))) ∧
        (s.tblLpm t = true → r.lpm = true → s.tblMode t = 2 → (∀ y ∈ (s.tbl t).slots, s.entry t y.1 = some y.2) →
          let matched := fun e : Entry => e.key.toNat / 2 ^ (144 - e.plen) = r.key.toNat / 2 ^ (144 - e.plen)
          (∀ y ∈ (s.tbl t).slots, matched y.2 → (∀ z ∈ (s.tbl t).slots, matched z.2 → z.2.plen < y.2.plen ∨ z = y) →
            Completes (.lookupRequest g) s (fun u => gives u id (some y.2.result))) ∧
          ((∀ y ∈ (s.tbl t).slots, ¬ matched y.2) → Completes (.lookupRequest g) s (fun u => gives u id none))))) ∧
    (∀ j v l p e, s.lookup.flight.find? (fun x => x.2.th = n && x.2.mem.isSome && x.2.left = 0) = some (j, v) →
      v.mem = some (l, p) → v.fail = none → s.entry v.table p = some e → e.matchAt v.key l = true →
      (v.lpm = false ∨ ∀ y ∈ (s.tbl v.table).slots, y.2.matchAt v.key y.2.plen = true → y.2.plen ≤ l) →
      Completes (.lookupProbeReturn th) s (fun u => gives u j (some e.result))) ∧
    (∀ j v o r reg, s.lookup.flight.find? (fun x => x.2.th = n && (x.2.result.isSome || x.2.bad.isSome)) = some (j, v) →
      (s.thread n).outst = some o → o.unit = .lookup → o.since = v.since → o.dest = .result reg → v.bad = none → v.result = some r →
      (s.thread n).wait = .load → Completes (.lookupResult th) s (fun u => Lands u n reg (r.getD 0) (some r.isSome) ∧
        (u.thread n).wait = .ready ∧ mfind u.lookup.flight j = none)) ∧
    ((s.cmd (lkKey slot)).complete = true → Completes (.lookupCommandComplete slot) s (fun u =>
      (u.cmd (lkKey slot)).busy = false ∧ (u.cmd (lkKey slot)).rc = (s.cmd (lkKey slot)).rcN ∧
      (slot = .host → bit (u.reg 0xA013C) 29 = true) ∧
      ∀ j, slot = .grove g j → (s.cmd (lkKey slot)).fen = true →
        bit (u.grove g.val).flags (s.cmd (lkKey slot)).flag.toNat = true)) ∧
    (∀ o reg, let k := 1 + 16 * thG n + i.val
      (s.thread n).outst = some o → o.unit = .window → o.addr.toNat = 0x500004 + 8 * i.val → o.dest = .land reg 0 8 →
      (s.thread n).wait = .load → Completes (.lkcmdStatusRead th i) s (fun u =>
        Lands u n reg (BitVec.ofNat 72 (s.cmd k).status) none ∧ (u.cmd k).ovr = false)) ∧
    (∀ t p, let c := s.cmd sweepKey
      s.lookup.ready = true → bit (s.treg 0xA0000) 31 = true → s.lookup.swept < max 1 ((s.treg 0xA0000).toNat % 65536) * 256 →
      c.rleft = 0 → c.wleft = 0 → c.ran = false → s.sweepNext = some (t, p) → (s.isPinned t p = true ∨ (t, p) ∈ s.lookup.cache) →
      mget 0 s.lookup.ecc (eccKey t p) = 0 →
      (s.entry t p = none → Completes .sweepVisit s (fun u => u.lookup.sweepT = t ∧ u.lookup.sweepP = p + 1 ∧
        u.lookup.swept = s.lookup.swept + 1)) ∧
      (∀ e, s.entry t p = some e → e.static = false → (s.treg (aTable t + 0xC)).toNat ≠ 0 →
        (s.treg (aTable t + 0xC)).toNat < (s.tick32 - e.lasthit).toNat → s.sweepClear t p e = true → Completes .sweepVisit s (fun u => u.entry t p = none ∧
          u.ctr (0xA2000 + 0x80 * t + 0x20) = s.ctr (0xA2000 + 0x80 * t + 0x20) + 1)) ∧
      (∀ e, s.entry t p = some e → (e.static = true ∨ (s.treg (aTable t + 0xC)).toNat = 0 ∨ (s.tick32 - e.lasthit).toNat ≤ (s.treg (aTable t + 0xC)).toNat) →
        Completes .sweepVisit s (fun u => u.entry t p = some e ∧ u.lookup.sweepP = p + 1)))

/-- R321, R350 and R352 for TBLCFG: a table is enabled empty when the rules hold, and its clear goes from position to position with each
accepted write, while FLBUSY is 1, or it is refused with CFGERR; a table that is enabled keeps its form; and it is disabled by EN 0. A
write of the clear that fails counts in MEMERR and the clear goes on. Model's choices: log entries 50, 51, 100 and 128. -/
def Obligations.TableRegisters : Prop :=
  ∀ (src : Src) (t : Fin 64) (d : BitVec 32) (s : State),
    let a := aTable t.val
    let cur := s.reg a
    let v := d &&& 0xFFF000FF
    let ok := d.toNat / 2 ^ 28 % 4 ≠ 3 ∧ s.flBusy t.val = false ∧ (s.setReg a v).tblOk t.val = true
    (∀ (p : Fin 12) (tag : Fin 512) err q pos, s.islandUp 5 = true → p.val < s.ties.memports →
      mfind (s.mem p.val).tags tag.val = some q → q.write = true → q.src = .clear t.val → (s.tbl t.val).clr = some pos →
      Completes (.memoryWriteAck p tag err) s (fun u =>
        (u.tbl t.val).clr = (if pos + 1 < s.tblPositions t.val then some (pos + 1) else none) ∧
        u.ctr (0xA2000 + 0x80 * t.val + 0x40) = s.ctr (0xA2000 + 0x80 * t.val + 0x40) + if err then 1 else 0)) ∧
    (s.HostReaches src a →
      (bit d 31 = true → bit cur 31 = false → Completes (.tableEnable src t d) s (fun u =>
        (ok → u.reg a = v ∧ (∀ x, u.entry t.val x = none) ∧ (u.tbl t.val).clr = some 0 ∧ bit (u.tblStat t.val) 31 = true) ∧ (¬ ok → u.reg a = cur ∧ bit (u.reg 0xA0004) 30 = true))) ∧
      (bit d 31 = false → bit cur 31 = true → (v ^^^ cur) &&& 0x73F000FF = 0 → Completes (.tableDisable src t d) s (fun u =>
        u.reg a = v)) ∧
      (bit cur 31 = true → (v ^^^ cur) &&& 0x73F000FF ≠ 0 → Completes (.tblcfgWrite src t d) s (fun u =>
        u.reg a = cur ∧ bit (u.reg 0xA0004) 30 = true)) ∧
      (bit cur 31 = true → (v ^^^ cur) &&& 0x73F000FF = 0 → Completes (.tblcfgWrite src t d) s (fun u => u.reg a = v)))

/-! ## Time, recorder and timers -/

/-- R27 to R29, R357 and R360 to R365 for ticks and Block Time: what a boundary sets aside of the ports, its snapshot and its settings,
any two of the 18 copies within 2^-31 s of each other at any instant, which is less than 0.5 ns, the growth of a copy from each cycle of
the trunk or of a grove to the next, BTNS of a grove's copy by 1 at most, the rate, steps with TICKSKIP and slews, the staged seconds, the mirror of the SERVO thread, the PPS
stamp and the lock. Model's choices: log entries 4, 6, 55 and 92. -/
def Obligations.TimeResults : Prop :=
  ∀ (src : Src) (d : BitVec 32) (th : Thid) (r : MirrorReg) (rising : Bool) (s : State),
    let v := s.time
    let off := (BitVec.ofNat 64 ((mget 0 s.stag 0x10020).toNat + d.toNat * 2 ^ 32)).toInt
    let f := s.now % 2 ^ 32
    let inWin := min f (2 ^ 32 - f) * 1000000 ≤ s.timectl.toNat / 2 ^ 16 % 2 ^ 12 * 2 ^ 32
    let edge := bit s.timectl 30 = true ∧ bit s.timectl 28 ≠ rising
    (v.tick = v.closed → (∀ i, i < 18 → s.islTick i = s.tickNow ∧ v.begunBy i < s.tickNow) → Completes .canopyTick s (fun u =>
      u.time.bt = v.bt ∧ u.time.tick = s.tickNow ∧ (∀ i, i < 18 → u.time.begunBy i = s.tickNow) ∧
      (∀ p, p < 128 → (u.port p).obs = s.shows p ∧ (u.port p).last = (s.port p).obs.also (s.shows p)) ∧
      (v.acq = true → (∀ a, a ≠ 0x2000C → u.treg a = s.reg a) ∧
        (∀ i a, i < 18 → islandOf a = some i → a ≠ 0x58 → s.ctr a ≠ 0 ∨ mget 0 v.ahead a = 0 →
          mget 0 u.snap a = s.ctr a - mget 0 v.ahead a) ∧
        ∀ i, i < 18 → i ≠ 2 → s.islandUp i = true →
          Message.marker s.tickNow ∈ (u.link (176 + i)).inFlight ∨ (i, s.tickNow) ∈ u.time.marks))) ∧
    (v.tick < v.closed → (∀ i, i < 18 → s.islTick i ≤ v.begunBy i ∧ v.closed ≤ v.begunBy i) → Completes .canopyTick s (fun u =>
      u.time.tick = v.closed ∧ (v.acq = true → u.lookup.swept = 0 ∧ ∀ g, g < 8 → s.groveOpen g = true →
        (s.reg (aExc g + 0x18)).toNat % 65536 ≠ 0 → (u.grove g).wdCount = (s.grove g).wdCount + 1))) ∧
    (∀ i j, i < 18 → j < 18 → s.copyOf i ≤ s.copyOf j + 2) ∧
    (∀ i k n t, 6 ≤ n → n ≤ 11 → k + 1 < n → 2 ≤ t → s.copyWhen i (t + unitsUp k n) < s.copyWhen i (t + unitsUp (k + 1) n) ∧
      nsOf (s.copyWhen i (t + unitsUp (k + 1) n)) ≤ nsOf (s.copyWhen i (t + unitsUp k n)) + 1) ∧
    (∀ g, let n := s.groveRate g
      g < 8 → s.groveOn g = true → n ≤ 11 → (s.beat g).begun < n → v.rem < btDen → v.adjfrac < btDen → 2 ≤ v.bt →
      v.bt + 22 < 2 ^ 72 → s.pending = [] → ∃ u, step s = .next u ∧
        s.copyWhen (10 + g) (v.bt + unitsUp (n - 1) n) < u.copyOf (10 + g) ∧
        nsOf (u.copyOf (10 + g)) ≤ nsOf (s.copyWhen (10 + g) (v.bt + unitsUp (n - 1) n)) + 1) ∧
    (s.HostReaches src 0x1001C → Completes (.trateWrite src d) s (fun u => u.reg 0x1001C = d)) ∧
    (s.HostReaches src 0x10024 →
      (bit s.timectl 31 = true → Completes (.timeStep src d) s (fun u =>
        (0 < off → u.time.bt = (v.bt + off.toNat) % 2 ^ 72 ∧ u.time.tskip = v.tskip + (tickOf (u.time.bt + s.phase) - s.tickNow - 1)) ∧
        (off ≤ 0 → u.time = v ∧ bit (u.reg 0x10030) 26 = true))) ∧
      (bit s.timectl 31 = false → Completes (.timeSlew src d) s (fun u => u.time.bt = v.bt ∧
        u.time.adjrem = (BitVec.ofInt 64 (v.adjrem + off)).toInt))) ∧
    (v.adjrem = 0 → Completes .slewComplete s (fun u => u.time = { v with adjfrac := 0 })) ∧
    (s.HostReaches src 0x10018 → Completes (.tsetCommit src d) s (fun u => u.time.tsetV = true ∧
      u.time.tset.toNat = (mget 0 s.stag 0x10014).toNat + d.toNat % 256 * 2 ^ 32)) ∧
    (∀ e es, s.groveOn (thG th.toNat) = true → (s.thread th.toNat).sb = e :: es → e.sent = true → e.acc = false → e.mask = 0xFF →
      e.data.setWidth 32 = d → e.phys = none → 0x407000 ≤ e.addr.toNat →
      e.addr.toNat = 0x407000 + (0x900 + 4 * (match r with | .tmrate => 0 | .tmadj0 => 1 | .tmadj1 => 2 | .tmctl => 3)) / 4 →
      (s.thread th.toNat).pendSt = none → Completes (.timeMirrorWrite th r d) s (fun u => (u.thread th.toNat).sb = es ∧
        (s.timectl.toNat % 2 ^ 12 ≠ th.toNat → u.time = v ∧ u.reg 0x1001C = s.reg 0x1001C ∧ u.reg 0x10028 = s.reg 0x10028) ∧
        (s.timectl.toNat % 2 ^ 12 = th.toNat → (r = .tmrate → u.reg 0x1001C = d) ∧ (r = .tmadj0 → mget 0 u.stag 0x10020 = d) ∧
          (r = .tmctl → bit (u.reg 0x10028) 31 = bit d 31)))) ∧
    (edge → Completes (.ppsEdge rising) s (fun u => u.time.ppsts = s.btime ∧ u.time.ppsAt = some s.hw ∧
      (v.acq = true →
        (v.locked = true → ¬ inWin → u.time.locked = false ∧ bit (u.reg 0x10030) 25 = true) ∧
        (∀ h, v.ppsAt = some h → h + 199800000 ≤ s.hw → s.hw ≤ h + 200200000 → inWin →
          max 1 ((s.reg 0x1002C).toNat / 2 ^ 16 % 16) ≤ v.ppsGood + 1 → u.time.locked = true)))) ∧
    (∀ h, v.ppsAt = some h → h + 300000000 ≤ s.hw → v.locked = true → Completes .ppsTimeout s (fun u =>
      u.time.locked = false ∧ bit (u.reg 0x10030) 25 = true))

/-- R21, R370 to R375 and R410 for Llynon and the recorder: a message leaves when its sender has credits for it, crosses its link and,
taken out of the receive buffer, gives its credits back; a record is staged or lost, written at RECPTR or lost; with a loss open the
RECLOSS event comes first; markers and the commit of a boundary, and the region's registers.
Model's choices: log entries 5, 53, 93 and 94. -/
def Obligations.RecorderResults : Prop :=
  ∀ (src : Src) (path : LinkPath) (i : Fin 18) (r : RegionReg) (d : BitVec 32) (s : State),
    let v := s.recd
    let lk := s.link (176 + i.val)
    let li := s.link (pathKey path)
    (∀ m rest, (∀ g, path ≠ .completion g) → (∀ p, path ≠ .copy p) → li.out = m :: rest → Completes (.llynonWordDelivery path) s (fun u =>
      u.link (pathKey path) = { li with out := rest, buf := li.buf ++ [m] } ∧ ∀ k, k ≠ pathKey path → u.link k = s.link k)) ∧
    (∀ g, path = .completion g → s.groveOn g.val = true → (s.grove g.val).lane < min 8 (s.grove g.val).cqOcc →
      Completes (.llynonWordDelivery path) s (fun u => u.grove g.val = { s.grove g.val with lane := (s.grove g.val).lane + 1 })) ∧
    (∀ p o, path = .copy p → (s.port p.val).offer = some o → o.cut = false → o.there < s.copyWords p.val o.copy →
      o.there < o.pos + 8 → s.islandUp 3 = true → s.portOn p.val = true → Completes (.llynonWordDelivery path) s (fun u =>
        (u.port p.val).offer = some { o with there := o.there + 1 })) ∧
    (∀ k m, (s.link k).wait = [] →
      (m.size ≤ (s.link k).credit → (s.push k m).link k =
        { s.link k with out := (s.link k).out ++ [m], credit := (s.link k).credit - m.size }) ∧
      ((s.link k).credit < m.size → (s.push k m).link k = { s.link k with wait := [m] })) ∧
    (∀ k m rest, (s.link k).wait = [] → (s.link k).buf = m :: rest →
      (s.popLink k).link k = { s.link k with buf := rest, credit := min 8 ((s.link k).credit + m.size) }) ∧
    (∀ x rest, lk.buf = .record x :: rest → s.islandUp 5 = true → Completes (.recordStage i) s (fun u =>
      let room := if x.ctrl then 65536 else 61440
      (u.link (176 + i.val)).buf = rest ∧
      (v.occ + x.size ≤ room → u.recd.staged = v.staged ++ [x]) ∧
      (room < v.occ + x.size → u.recd.staged = v.staged ∧
        u.ctr (if x.ctrl then 0xE0068 else 0xE0060) = s.ctr (if x.ctrl then 0xE0068 else 0xE0060) + 1))) ∧
    (∀ x rest, s.islandUp 5 = true → 9 ≤ s.start.step → v.staged = x :: rest → v.lossDue = false → v.lostP = 0 → v.lostC = 0 →
      let fits := s.nrec ≠ 0 ∧ (bit (s.reg 0xE0000) 29 = true ∨ v.ptr + x.words.length ≤ v.rd + s.nrec)
      Completes .recordWrite s (fun u =>
        (fits → s.recRoom x.words = true → u.recd.staged = rest ∧ u.recd.ptr = v.ptr + x.words.length) ∧
        (¬ fits → u.recd.staged = rest ∧ u.recd.ptr = v.ptr ∧
          u.ctr (if x.ctrl then 0xE0068 else 0xE0060) = s.ctr (if x.ctrl then 0xE0068 else 0xE0060) + 1))) ∧
    (s.islandUp 5 = true → 9 ≤ s.start.step → v.lossDue = true ∨ v.lostP ≠ 0 ∨ v.lostC ≠ 0 → v.modeA ≠ 0 → s.nrec ≠ 0 →
      (bit (s.reg 0xE0000) 29 = true ∨ v.ptr + 2 ≤ v.rd + s.nrec → v.occ + 4 ≤ 65536 → s.recRoom s.lossPairs = true →
        Completes .recordWrite s (fun u => u.recd.staged = v.staged ∧ u.recd.ptr = v.ptr + 2 ∧ u.recd.lostP = 0 ∧
          u.recd.lostC = 0 ∧ u.recd.lossDue = false ∧ bit (u.reg 0x2000C) 2 = true)) ∧
      (∀ x rest, bit (s.reg 0xE0000) 29 = false → v.rd + s.nrec < v.ptr + 2 → v.staged = x :: rest → Completes .recordWrite s (fun u =>
        u.recd.staged = rest ∧ u.recd.ptr = v.ptr ∧
          u.ctr (if x.ctrl then 0xE0068 else 0xE0060) = s.ctr (if x.ctrl then 0xE0068 else 0xE0060) + 1))) ∧
    (∀ n rest, lk.buf = .marker n :: rest → Completes (.boundaryMarker i) s (fun u => (u.link (176 + i.val)).buf = rest ∧
      u.recd.bounds.map (fun b => (b.tick, b.awaited)) = v.bounds.map (fun b =>
        (b.tick, if b.tick = n then b.awaited.filter (fun j => j ≠ i.val) else b.awaited)))) ∧
    (∀ b bs p, v.bounds = b :: bs → b.pos = some p → (∀ x ∈ v.outst, 3 * b.cover ≤ x.1) → Completes .recorderCommit s (fun u =>
      u.recd.bounds = bs ∧ u.recd.commit = p ∧ u.recd.ctick = BitVec.ofNat 32 (b.tick - 1))) ∧
    (s.HostReaches src (regionReg r) → Completes (.recorderRegionWrite src r d) s (fun u =>
      (v.modeA = 0 → v.idle = true → u.reg (regionReg r) = d &&& (match r with
        | .recbase0 => 0xFFFFFFFF | .recbase1 => 0x7F | .recsize => 0xFFFFF | .recid => 0x7FF)) ∧
      ((v.modeA ≠ 0 ∨ v.idle = false) → u.reg (regionReg r) = s.reg (regionReg r) ∧ bit (u.reg 0xE0014) 28 = true))) ∧
    (s.HostReaches src 0xE004C → Completes (.recrdWrite src d) s (fun u =>
      u.recd.rd = (mget 0 s.stag 0xE0048).toNat + d.toNat * 2 ^ 32))

/-- R207, R378 to R386 and R389 for the timers, commanded by the host, the TAP or a thread: arming with a compare that is met,
ahead or late, disarming, the commits, the match with its interrupt line, the action at a pin, the capture with its overrun, the
read of TCAP and GOUT. A pin's edge is captured with its sampling time or the count, an edge of a grove output with the count of the
cycle of the grove that begins after it. Model's choices: log entries 92 and 129. -/
def Obligations.TimerResults : Prop :=
  ∀ (src : Src) (g : Fin 8) (k : Fin 32) (isl : Fin 4) (d : BitVec 32) (s : State),
    let x := s.timer g.val k.val
    let a := aTimer g.val k.val
    let ctl := (s.reg a).toNat
    let gap := (x.cmp - s.timCount g.val k.val).toNat
    let matched := fun u : State => (u.timer g.val k.val).armed = false ∧ bit (u.reg (a + 0xC)) 30 = true ∧
      (bit (s.reg a) 7 = true → bit (u.thread (thid g.val (ctl / 2 ^ 24 % 32) (ctl % 16))).lines (ctl / 2 ^ 4 % 8) = true)
    ((s.Writes src (a + 8) 1 → s.timFrozen g.val k.val = false → Completes (.timerArm src g k) s (fun u => (gap = 0 → matched u) ∧
        (0 < gap → gap < 2 ^ 63 → (u.timer g.val k.val).armed = true ∧ u.reg (a + 0xC) = s.reg (a + 0xC)) ∧
        (2 ^ 63 ≤ gap → (u.timer g.val k.val).armed = false ∧ bit (u.reg (a + 0xC)) 29 = true))) ∧
      (s.Writes src (a + 8) 2 → Completes (.timerDisarm src g k) s (fun u => (u.timer g.val k.val).armed = false ∧
        (u.timer g.val k.val).cnt = x.cnt))) ∧
    (s.Writes src (a + 0x1C) d → Completes (.timerCompareCommit src g k d) s (fun u =>
      (u.timer g.val k.val).cmp.toNat = (mget 0 s.stag (a + 0x10)).toNat + d.toNat * 2 ^ 32 ∧
      (x.armed = false → (u.timer g.val k.val).armed = false))) ∧
    (s.Writes src (a + 0x14) d → Completes (.timerCountCommit src g k d) s (fun u =>
      (x.armed = true → u.timer g.val k.val = x ∧ bit (u.reg (a + 0xC)) 25 = true) ∧
      (x.armed = false → ctl / 2 ^ 30 % 4 ≠ 3 →
        (u.timer g.val k.val).cnt.toNat = (mget 0 s.stag (a + 0x10)).toNat + d.toNat * 2 ^ 32))) ∧
    (s.groveOn g.val = true → s.timDue g.val k.val = true → Completes (.timerMatch g k) s matched) ∧
    (∀ p (pin : Fin 4) act h c rest, (s.link (160 + isl.val)).buf = .pin p pin.val act h c :: rest →
      Completes (.timerPinAction isl) s (fun u => (u.link (160 + isl.val)).buf = rest ∧
        (s.portOn p = true → s.pinMode p = true → bit (u.port p).pinOut pin.val =
          (if act = 1 then true else if act = 2 then false else !bit (s.port p).pinOut pin.val)) ∧
        ((s.portOn p = false ∨ s.pinMode p = false) → bit (u.reg (aTimer h c + 0xC)) 25 = true))) ∧
    (∀ y rest, s.groveOn g.val = true → x.edges = y :: rest →
      let takes := fun (u : State) (w : BitVec 64) => (u.timer g.val k.val).capf = true ∧ (u.timer g.val k.val).edges = rest ∧
        (u.timer g.val k.val).cap = w ∧ (x.capf = true → bit (u.reg (a + 0xC)) 27 = true)
      (∀ ns, y = .pin ns → s.timFrozen g.val k.val = false → Completes (.timerCapture g k) s (fun u =>
        takes u (if ctl / 2 ^ 30 % 4 = 3 then BitVec.ofNat 64 ns else x.cnt))) ∧
      (∀ w, y = .counted w → Completes (.timerCapture g k) s (fun u => takes u w)) ∧
      (y = .next → Completes (.timerCapture g k) s (fun u => u = s))) ∧
    (∀ ns was, x.edges = [.next] → s.timFrozen g.val k.val = false → ctl / 2 ^ 30 % 4 = 1 → x.armed = true → x.due = false →
      x.cnt ≠ x.cmp → ((s.grove g.val).timers.map (·.1)).Nodup →
      ((s.timCycle g.val was ns).timer g.val k.val).edges = [.counted (x.cnt + 1)]) ∧
    (s.HostReaches src (a + 0x20) → Completes (.tcapRead src g k) s (fun u => u.mgmt.rdata = x.cap.setWidth 32 ∧
      (u.timer g.val k.val).capf = false ∧ (u.timer g.val k.val).cap = x.cap)) ∧
    (∀ y r, s.ThreadReads y (a + 0x20) r → Completes (.tcapRead (.thread y) g k) s (fun u =>
      Lands u y.toNat r (x.cap.setWidth 72) none ∧ (u.timer g.val k.val).capf = false ∧ (u.timer g.val k.val).cap = x.cap)) ∧
    (s.Writes src (aTimers g.val + 0x800) d → Completes (.goutWrite src g d) s (fun u =>
      (u.grove g.val).gout = d.setWidth 16))

/-! ## Memory ports -/

/-- R391, R393, R394, R399, R401 to R403, R462 and R464 for the memory ports: the item that a channel presents is transferred under
its tag, a request that may go is presented under a free tag, the answers to a load and to a store, the answer with an unused tag,
what an error or a timeout does to each kind of source, the quarantine of a timed-out tag, an item that is never taken, and
MEM_READY with MEM_RETAINED. Which free tag is taken is a free value. Model's choices: log entries 3, 4, 23 and 24. -/
def Obligations.MemoryPortResults : Prop :=
  ∀ (p : Fin 12) (tag : Fin 512) (write err level retained : Bool) (data : Word) (s : State),
    let n := p.val
    let m := s.mem n
    let a := aMem n
    let now := s.time.bt * 10 ^ 9 / 2 ^ 32
    let late := fun t : Nat => t + max 16 ((s.reg 0xC0000).toNat % 256) * 256 ≤ now
    let counts := fun (u : State) (k : Nat) => u.ctr (a + k) = s.ctr (a + k) + 1
    s.islandUp 5 = true → n < s.ties.memports →
      (m.ready = true → s.clkGone 1 = false →
        (∀ x, m.shown write = some x → Completes (.memoryRequestTransfer p write) s (fun u =>
          mfind (u.mem n).tags x.tag = some { x.req with since := now } ∧ counts u (if write then 0x48 else 0x40))) ∧
        (∀ q, m.shown write = none → m.wait = [] → m.queue = [q] → q.write = write → q.cls ≤ 9 → m.held [] q = false →
          (∃ x, x < 512 ∧ m.busyTag x = false ∧ ∀ y, m.shown (!write) = some y → y.tag ≠ x) →
          Completes (.memoryRequestTransfer p write) s (fun u =>
            (u.mem n).queue = [] ∧ (∃ x, x < 512 ∧ m.busyTag x = false ∧ mfind (u.mem n).tags x = some { q with since := now }) ∧
            counts u (if write then 0x48 else 0x40)))) ∧
      (∀ q th since o, mfind m.tags tag.val = some q → q.write = false → q.src = .core th since → (s.thread th).outst = some o →
        o.unit = .external → o.since = since → o.addr.toNat = 2 ^ 39 + q.ea → o.ans = none →
        Completes (.memoryReadResponse p tag err data) s (fun u => mfind (u.mem n).tags tag.val = none ∧
          (u.thread th).outst = some { o with ans := some (if err then .eccu else .word data) } ∧
          (err = true → bit (u.reg a) 29 = true ∧ counts u 0x58))) ∧
      (mfind m.tags tag.val = none → ∀ i, i ∈ [Instr.memoryReadResponse p tag err data, .memoryWriteAck p tag err] →
        Completes i s (fun u => mfind (u.mem n).quar tag.val = none ∧ bit (u.reg a) 28 = true ∧ counts u 0x60 ∧
          u.threads = s.threads)) ∧
      (∀ q th e es, mfind m.tags tag.val = some q → q.write = true → q.src = .store th → (s.thread th).sb = e :: es → e.sent = true →
        Completes (.memoryWriteAck p tag false) s (fun u => mfind (u.mem n).tags tag.val = none ∧
          (u.thread th).sb = { e with acc := true } :: es)) ∧
      (∀ x q, m.tags.find? (fun e => decide (late e.2.since)) = some (x, q) → Completes (.memoryTimeout p) s (fun u =>
        mfind (u.mem n).tags x = none ∧ mfind (u.mem n).quar x = some q ∧ bit (u.reg a) 30 = true ∧ counts u 0x50)) ∧
      (∀ i q, mfind m.tags tag.val = some q → q.write = true → (i = .memoryWriteAck p tag true ∨
          (i = .memoryTimeout p ∧ m.tags.find? (fun e => decide (late e.2.since)) = some (tag.val, q))) →
        (∀ th e es, q.src = .store th → (s.thread th).sb = e :: es → e.sent = true → e.acc = false → (s.thread th).pendSt = none →
          Completes i s (fun u => (u.thread th).sb = es ∧
            u.ctr (aCore (thG th) (thC th) + 0x60) = s.ctr (aCore (thG th) (thC th) + 0x60) + 1)) ∧
        (∀ g k, q.src = .dma g k → (s.dma g k).busy = true → (s.dma g k).ext = true → (s.dma g k).data.isSome = true →
          Completes i s (fun u => (u.dma g k).busy = false ∧ (u.dma g k).code = 3 ∧ (u.dma g k).left = (s.dma g k).left)) ∧
        (∀ t, q.src = .hit t → Completes i s (fun u =>
          u.ctr (0xA2000 + 0x80 * t + 0x40) = s.ctr (0xA2000 + 0x80 * t + 0x40) + 1)) ∧
        (∀ r ctrl, q.src = .recorder r ctrl → r ∉ s.recd.failed → Completes i s (fun u =>
          u.ctr (if ctrl then 0xE0068 else 0xE0060) = s.ctr (if ctrl then 0xE0068 else 0xE0060) + 1))) ∧
      (∀ i q t, mfind m.tags tag.val = some q → q.write = false → ((t = false ∧ i = .memoryReadResponse p tag true data) ∨
          (t = true ∧ i = .memoryTimeout p ∧ m.tags.find? (fun e => decide (late e.2.since)) = some (tag.val, q))) →
        (∀ th since o, q.src = .core th since → (s.thread th).outst = some o → o.unit = .external → o.since = since →
          o.addr.toNat = 2 ^ 39 + q.ea → o.ans = none → Completes i s (fun u =>
            (u.thread th).outst.map (·.ans) = some (some (if t then .dacc else .eccu)))) ∧
        (∀ g k, q.src = .dma g k → (s.dma g k).busy = true → (s.dma g k).ext = true → (s.dma g k).data = none →
          Completes i s (fun u => (u.dma g k).busy = false ∧ (u.dma g k).code = if t then 3 else 2)) ∧
        (∀ id v, q.src = .probe id → mfind s.lookup.flight id = some v → v.fail = none → Completes i s (fun u =>
          (mfind u.lookup.flight id).map (·.fail) = some (some t)))) ∧
      (∀ x, m.tags.find? (fun e => decide (late e.2.since)) = none → m.shown write = some x → late x.since →
        (write = true → ∀ y, m.shown false = some y → ¬ late y.since) → Completes (.memoryTimeout p) s (fun u =>
          bit (u.reg a) 30 = true ∧ counts u 0x50 ∧ (u.mem n).tags = m.tags ∧ (u.mem n).quar = m.quar ∧
          ∀ y, (u.mem n).shown write = some y → y.since = now)) ∧
      (Completes (.memReadyChange p ⟨level, retained⟩) s (fun u => (u.mem n).ready = level ∧ u.memRet = retained ∧
        (u.mem n).tags = m.tags ∧ (m.ready ≠ level → level = true → s.clkGone 1 = false → (u.mem n).quar = []) ∧
        (level = false → (u.mem n).quar = m.quar)))

/-! ## Clocks and power -/

/-- R408 and R409 for the input clocks and REFCLK: LOST sticks, and the present loss follows the clock. -/
def Obligations.ClockResults : Prop :=
  ∀ (i : Fin 6) (s : State),
    (s.clkGone i.val = false → Completes (.clockLoss i) s (fun u => u.clkGone i.val = true ∧
      u.reg 0x11004 = s.reg 0x11004 ||| BitVec.ofNat 32 (2 ^ i.val) ∧ ∀ j, j < 6 → j ≠ i.val → u.clkGone j = s.clkGone j)) ∧
    (s.clkGone i.val = true → Completes (.clockReturn i) s (fun u => u.clkGone i.val = false ∧
      u.reg 0x11004 = s.reg 0x11004)) ∧
    Completes .refclkLoss s (fun u => u.time.refOk = false ∧ u.reg 0x11004 = s.reg 0x11004 ||| 0x80000000) ∧
    Completes .refclkReturn s (fun u => u.time.refOk = true ∧ u.regs = s.regs)

/-- R413, R414 and R416 to R420 for the power states and clock points: what a GATE and a PT start or are refused, each field on its
own, the writes that are held while a change runs and apply at its end, the return from CLKOFF, the wake that clears a grove's
memories and registers, and the completions. Model's choices: log entries 57 and 85. -/
def Obligations.PowerResults : Prop :=
  ∀ (src : Src) (g : Fin 8) (k : Fin 4) (i : Fin 18) (d : BitVec 32) (s : State),
    let v := s.isl (10 + g.val)
    let w := s.isl (6 + k.val)
    let ga := aGclk g.val
    let ka := aPictl k.val
    let gate := fun r : BitVec 32 => r.toNat / 2 ^ 5 % 4
    let pt := fun r : BitVec 32 => r.toNat % 8
    (s.HostReaches src ga → v.st = .on → v.goal = none → (s.point g.val).chg = false →
      (gate (s.reg ga) = 0 → pt (s.reg ga) < 6 → pt d = pt (s.reg ga) → gate d = 2 →
        Completes (.groveGateWrite src g d) s (fun u =>
          (s.groveQuiet g.val = true → (u.isl (10 + g.val)).goal = some .off ∧ gate (u.reg ga) = 2) ∧
          (s.groveQuiet g.val = false → u.isl (10 + g.val) = v ∧ bit (u.reg ga) 13 = true ∧ gate (u.reg ga) = 0))) ∧
      (gate (s.reg ga) = 0 → pt (s.reg ga) < 6 → pt d = pt (s.reg ga) → gate d = 1 →
        Completes (.groveGateWrite src g d) s (fun u =>
          (s.groveQuiet g.val = true → u.isl (10 + g.val) = { v with goal := some .clkoff } ∧ gate (u.reg ga) = 1) ∧
          (s.groveQuiet g.val = false → u.isl (10 + g.val) = v ∧ bit (u.reg ga) 13 = true ∧ gate (u.reg ga) = 0))) ∧
      (gate d = gate (s.reg ga) → pt d < 6 → pt d ≠ pt (s.reg ga) → Completes (.clockPointWrite src g d) s (fun u =>
        pt (u.reg ga) = pt d ∧ (u.point g.val).chg = true ∧ (u.point g.val).pta = (s.point g.val).pta))) ∧
    (s.HostReaches src ga → v.st = .clkoff → v.goal = none → (s.point g.val).chg = false → gate (s.reg ga) ≠ 0 → pt (s.reg ga) < 6 →
      pt d = pt (s.reg ga) → gate d = 0 → Completes (.groveGateWrite src g d) s (fun u =>
        u.isl (10 + g.val) = { v with goal := some .on } ∧ gate (u.reg ga) = 0 ∧
        ∀ x, x < 4096 → thG x = g.val → u.thread x = s.thread x)) ∧
    (s.HostReaches src ga → v.goal = none → (s.point g.val).chg = false →
      (gate (s.reg ga) ≠ 3 → gate d = 3 → Completes (.groveGateWrite src g d) s (fun u =>
        gate (u.reg ga) = gate (s.reg ga) ∧ bit (u.reg ga) 13 = true ∧ u.isl (10 + g.val) = v ∧
        (pt d < 6 → pt (u.reg ga) = pt d))) ∧
      (6 ≤ pt d → gate d = gate (s.reg ga) → Completes (.clockPointWrite src g d) s (fun u =>
        pt (u.reg ga) = pt (s.reg ga) ∧ gate (u.reg ga) = gate d ∧ bit (u.reg ga) 13 = true ∧
        u.isl (10 + g.val) = v ∧ u.point g.val = s.point g.val))) ∧
    (s.HostReaches src ga → v.goal ≠ none ∨ (s.point g.val).chg = true → Completes (.clockPointWrite src g d) s (fun u =>
      u.isl (10 + g.val) = { v with held := some d } ∧ u.point g.val = s.point g.val ∧
      pt (u.reg ga) = pt (s.reg ga) ∧ gate (u.reg ga) = gate (s.reg ga))) ∧
    (s.HostReaches src ka → w.goal ≠ none → Completes (.portIslandGateWrite src k d) s (fun u =>
      u.isl (6 + k.val) = { w with held := some d } ∧ gate (u.reg ka) = gate (s.reg ka))) ∧
    (∀ j : Fin 18, j.val = 10 + g.val → v.held = some d →
      (v.st = .off → v.goal = some .on → Completes (.islandWakeComplete j) s (fun u => (u.isl (10 + g.val)).held = none ∧
        (pt d < 6 → pt (u.reg ga) = pt d))) ∧
      ((s.point g.val).chg = true → v.goal = none → s.groveOn g.val = true → s.atRevolution g.val = true →
        Completes (.clockPointChange g) s (fun u => (u.isl (10 + g.val)).held = none ∧ (pt d < 6 → pt (u.reg ga) = pt d)))) ∧
    (v.st = .on → v.goal = some .clkoff → v.held = none → s.atRevolution g.val = true → Completes (.groveClkoffEntry g) s (fun u =>
      u.isl (10 + g.val) = { v with st := .clkoff, goal := none })) ∧
    (s.HostReaches src ga → v.st = .off → v.goal = none → (s.point g.val).chg = false → gate (s.reg ga) ≠ 0 →
      ∀ j : Fin 18, j.val = 10 + g.val → Completes (.islandWake src j) s (fun u => (u.isl (10 + g.val)).goal = some .on ∧
        u.grove g.val = {} ∧ (u.point g.val).pta = 0 ∧ (∀ b, aGrove g.val ≤ b → b < aGrove (g.val + 1) → u.reg b = 0) ∧
        (∀ c, c < 32 → u.core (coreKey g.val c) = {}) ∧ ∀ x, x < 4096 → thG x = g.val → u.thread x = {})) ∧
    (s.HostReaches src ka → w.st = .off → w.goal = none → gate (s.reg ka) ≠ 0 → ∀ j : Fin 18, j.val = 6 + k.val →
      Completes (.islandWake src j) s (fun u => (u.isl (6 + k.val)).goal = some .on)) ∧
    ((s.isl i.val).st = .off → (s.isl i.val).goal = some .on → (s.isl i.val).held = none →
      Completes (.islandWakeComplete i) s (fun u => u.isl i.val = { s.isl i.val with st := .on, goal := none })) ∧
    (s.HostReaches src ka → w.goal = none → gate (s.reg ka) = 0 → gate d = 2 → Completes (.portIslandGateWrite src k d) s (fun u =>
      (s.portsQuiet k.val = true → (u.isl (6 + k.val)).goal = some .off ∧ gate (u.reg ka) = 2) ∧
      (s.portsQuiet k.val = false → u.isl (6 + k.val) = w ∧ bit (u.reg ka) 11 = true ∧ gate (u.reg ka) = 0))) ∧
    (s.HostReaches src ka → w.goal = none → gate d = 1 ∨ gate d = 3 → Completes (.portIslandGateWrite src k d) s (fun u =>
      u.isl (6 + k.val) = w ∧ bit (u.reg ka) 11 = true ∧ gate (u.reg ka) = gate (s.reg ka))) ∧
    ((s.point g.val).chg = true → s.groveOn g.val = true → s.atRevolution g.val = true → v.held = none →
      Completes (.clockPointChange g) s (fun u => (u.point g.val).pta = pt (s.reg ga) ∧ (u.point g.val).chg = false)) ∧
    ((s.isl i.val).held = none → (s.isl i.val).st ≠ .off → (s.isl i.val).goal = some .off →
      Completes (.islandChangeComplete i) s (fun u => u.isl i.val = { s.isl i.val with st := .off, goal := none })) ∧
    ((s.isl i.val).held = none → (s.isl i.val).st = .clkoff → (s.isl i.val).goal = some .on →
      Completes (.islandChangeComplete i) s (fun u => u.isl i.val = { s.isl i.val with st := .on, goal := none }))

/-! ## Start and reset -/

/-- R363, R412, R422, R427 to R430, R440, R442 to R444, R446, R447, R452, R457, R458 and R468 for the start: power, the reset
input, the request of a start, the attempt up to step 7 with the NVM reads that it begins with and its failure at the lowest
lost clock, the memory, time and initialisation steps with their timeouts, the lowest port or grove of several that keep one
from passing being the one named, and the retry. Model's choices: log entries 4, 9, 11, 65, 102 and 105. -/
def Obligations.StartResults : Prop :=
  ∀ (src : Src) (d : BitVec 32) (env : StartEnv) (nvm : List Byte) (retained : Bool) (s : State),
    let v := s.start
    let cfg := (s.reg 0x14010).toNat
    let failed := fun (u : State) (step code unit : Nat) => u.start.step = step ∧ u.start.fcode.toNat = code ∧
      u.start.unit.toNat = unit ∧ u.start.phase = (if v.attempt < 3 then .backoff else .safe)
    (v.phase = .off → Completes .powerOn s (fun u => u.start.phase = (if v.srstLow then .srst else .due) ∧
      u.start.attempt = 0 ∧ u.start.warm = false ∧ u.regs = [] ∧ u.threads = [] ∧ u.time.bt = 0 ∧ u.ties = s.ties)) ∧
    Completes .pwrgoodFall s (fun u => u.start.phase = .off ∧ u.start.srstLow = v.srstLow ∧ u.regs = [] ∧ u.threads = [] ∧
      u.groves = []) ∧
    (v.phase = .off → Completes .srstAssert s (fun u => u = { s with start := { v with srstLow := true } })) ∧
    (v.phase ≠ .off → v.phase ≠ .srst → Completes .srstAssert s (fun u => u.start.phase = .srst ∧ u.threads = [] ∧
      u.groves = [] ∧ u.time.bt = s.time.bt)) ∧
    (v.phase = .srst → Completes .srstRelease s (fun u => u.start.phase = .due ∧ u.start.attempt = 0 ∧
      u.start.warm = v.completed)) ∧
    (s.HostReaches src 0x14000 → d.toNat / 2 ^ 24 = 0xA5 → bit d 0 = true → (v.phase = .service ∨ v.phase = .safe) →
      Completes (.startcmdGo src d) s (fun u => u.start.phase = .due ∧ u.start.attempt = 0 ∧ u.start.warm = v.completed)) ∧
    (v.phase = .due →
      (∀ i, i < 6 → s.clkGone i = true → (∀ j, j < i → s.clkGone j = false) → Completes (.startReset env) s (fun u =>
        failed u 2 2 i)) ∧
      ((∀ i, i < 6 → s.clkGone i = false) → env.linkFail = none → env.sramFail = none → Completes (.startReset env) s (fun u =>
        let b := if v.slot then env.slot1 else env.slot0
        (u.start.phase = .waitMem ∨ u.start.phase = .backoff ∨ u.start.phase = .safe) ∧
        let mode := s.ties.bootmode.toNat
        u.isl 2 = { st := .off } ∧ (∃ l, u.nvm.ops = [.power true, .rstN false 10000, .rstN true 50000,
          .read { mode := mode, div := 4, dummy := if mode = 2 then 20 else 8, addr := if v.slot then 0x02000000 else 0,
                  len := 256 }] ++ l) ∧
        (u.start.phase = .waitMem → u.start.step = 8 ∧ u.start.memseed.toNat = numAt b 0x20 8 % 2 ^ 64 ∧
          u.lookup.seed.toNat = numAt b 0x18 8 % 2 ^ 64)))) ∧
    (v.phase = .waitMem →
      ((∀ p, p < s.ties.memports → (s.mem p).ready = true) → s.clkGone 1 = false → (∀ t, t < 64 → s.tblEn t = false) →
        v.tables = [] → Completes (.memoryStep nvm retained none) s (fun u => u.lookup.ready = true ∧ u.memRet = retained ∧
          u.start.phase = (if s.time.acq then .init0 else .waitTime) ∧ u.start.step = if s.time.acq then 11 else 10)) ∧
      (∀ p, p < s.ties.memports → p < 256 → (s.mem p).ready = false → (∀ q, q < p → (s.mem q).ready = true) → s.clkGone 1 = false →
        v.since + max 1 (cfg / 2 ^ 16) * 200000 ≤ s.hw → Completes .memoryStepTimeout s (fun u => failed u 8 0x40 p))) ∧
    (v.phase = .waitTime →
      (bit s.timectl 30 = false → Completes .timeAcquisition s (fun u => u.time.acq = true ∧ u.time.src = 2 ∧
        u.start.phase = .init0 ∧ u.start.step = 11)) ∧
      (∀ h, bit s.timectl 30 = true → s.time.ppsAt = some h → v.since ≤ h → Completes .timeAcquisition s (fun u =>
        u.time.acq = true ∧ u.time.src = 1 ∧ u.start.phase = .init0)) ∧
      (bit s.timectl 30 = true → s.edgeSeen = false → v.since + (s.reg 0x1002C).toNat % 65536 * 200000 ≤ s.hw →
        Completes .acquisitionTimeout s (fun u => u.time.acq = true ∧ u.time.src = 2 ∧ u.start.phase = .init0))) ∧
    ((∀ g, g < 8 → (s.grove g).fatal = false) →
      (v.phase = .init0 → Completes .initialisation s (fun u => u.start.phase = .init1 ∧
        ∀ g c, g < 8 → c < 32 → s.groveOn g = true → (s.core (coreKey g c)).service = false →
          (u.core (coreKey g c)).mreq = true)) ∧
      (v.phase = .init1 → (∀ g c, g < 8 → c < 32 → s.groveOn g = true → (s.core (coreKey g c)).service = true) →
        Completes .initialisation s (fun u => u.start.phase = .service ∧ u.start.completed = true ∧
          bit (u.reg 0x80000) 0 = true ∧ bit (u.reg 0x2000C) 0 = true))) ∧
    (∀ g, (v.phase = .init0 ∨ v.phase = .init1) → s.initOpen = some g → v.since + max 1 (cfg % 2 ^ 16) * 200000 ≤ s.hw →
      Completes .initialisationTimeout s (fun u => failed u 11 0x70 g)) ∧
    (v.phase = .backoff → v.since + (match v.attempt with | 0 => 10 | 1 => 40 | _ => 160) * 200000 ≤ s.hw →
      Completes .retryBackoffExpiry s (fun u => u.start.phase = .due ∧ u.start.attempt = v.attempt + 1))

/-! ## The management port and the TAP -/

/-- R4, R8, R9, R415, R476 to R480, R483, R484, R487 and R490 for the management port: a write and a read of every register that only
holds what was written, reserved bits apart (R16, R474); reads and ignored writes of the read-only VERSION, CONFIG and PINPADS; a
misaligned access, an access to an island that is not open, reads with the shared latch, an access that waits for its target or behind others, a timed-out access,
and IRQTEST. Model's choices: log entries 63 and 104. -/
def Obligations.ManagementResults : Prop :=
  ∀ (src : Src) (a : BitVec 24) (d : BitVec 32) (wr : Bool) (s : State),
    let seen : Nat := if src = .tap then 4 else 3
    let free := (src = .mgmt ∨ src = .tap) ∧ s.mgmt.waiting = [] ∧ s.pathUp src = true ∧ s.inReset = false
    let x : Access := { src := src, addr := a, wr := if wr then some d else none }
    let row : Instr := if wr then .registerWrite src a d else .managementRead src a
    (∀ m, s.HostReaches src a.toNat → PlainReg s a.toNat m →
      Completes (.registerWrite src a d) s (fun u => u.reg a.toNat = d &&& m ∧ u.ctr 0x30 = s.ctr 0x30 + 1 ∧ u.mgmt.rdata = 0 ∧
        bit (u.reg 0x20) seen = true ∧ ∀ b, b ≠ a.toNat → b ≠ 0x20 → u.reg b = s.reg b) ∧
      Completes (.managementRead src a) s (fun u => u.mgmt.rdata = s.reg a.toNat ∧ u.ctrs = s.ctrs ∧ bit (u.reg 0x20) seen = true ∧
        ∀ b, b ≠ 0x20 → u.reg b = s.reg b)) ∧
    (∀ v, s.HostReaches src a.toNat →
      ((a = 0 ∧ v = 0x00020100) ∨
        (a = 4 ∧ v = BitVec.ofNat 32 (s.ties.xupres.toNat * 0x10000 + s.ties.memports * 0x100 + 0x34)) ∨
        ∃ k, k < 4 ∧ a.toNat = 0x10 + 4 * k ∧ v = s.ties.pinpads.extractLsb' (32 * k) 32) →
      Completes (.managementRead src a) s (fun u => u.mgmt.rdata = v ∧ u.ctrs = s.ctrs ∧ ∀ b, b ≠ 0x20 → u.reg b = s.reg b) ∧
      Completes (.registerWrite src a d) s (fun u => u.ctr 0x30 = s.ctr 0x30 + 1 ∧ u.ties = s.ties ∧
        ∀ b, b ≠ 0x20 → u.reg b = s.reg b)) ∧
    (free → a.toNat % 4 ≠ 0 → Completes (.registerWrite src a d) s (fun u => bit (u.reg 0x20) 6 = true ∧
      ∀ b, b ≠ 0x20 → u.reg b = s.reg b)) ∧
    (∀ i, free → a.toNat % 4 = 0 → islandOf a.toNat = some i → s.islandOpen i = false →
      Completes (.registerWrite src a d) s (fun u => bit (u.reg 0x1100C) i = true ∧
        ∀ b, b ≠ 0x20 → b ≠ 0x1100C → u.reg b = s.reg b) ∧
      Completes (.managementRead src a) s (fun u => u.mgmt.rdata = 0 ∧ bit (u.reg 0x1100C) i = true)) ∧
    (s.HostReaches src a.toNat →
      (a = 0x30 → Completes (.latchRead src a) s (fun u => u.mgmt.rdata = (s.ctr 0x30).setWidth 32 ∧ u.mgmt.latchV = true ∧
        u.mgmt.latchA = a ∧ u.mgmt.latchW = [(s.ctr 0x30).extractLsb' 32 32])) ∧
      (∀ w, a = 0x34 → s.mgmt.latchV = true → s.mgmt.latchA = 0x30 → s.mgmt.latchW = [w] →
        Completes (.managementRead src a) s (fun u => u.mgmt.rdata = w)) ∧
      (a = 0x34 → s.mgmt.latchV = false → Completes (.managementRead src a) s (fun u =>
        u.mgmt.rdata = (s.ctr 0x30).extractLsb' 32 32 ∧ bit (u.reg 0x20) 5 = true))) ∧
    (∀ i, free → a.toNat % 4 = 0 → islandOf a.toNat = some i → s.islandOpen i = true →
      (s.mgmt.owed.any (fun o => o.island = i) = true ∨ ∃ p, p < 4 ∧ i = p + 6 ∧ s.clkGone (p + 2) = true) →
      Completes row s (fun u => u = { s with mgmt := { s.mgmt with waiting := [x] } })) ∧
    (∀ y ys, s.mgmt.waiting = y :: ys → s.pathUp y.src = true → s.accReady y = false → s.pathUp src = true →
      (src = .mgmt ∨ src = .tap) →
      Completes row s (fun u => u = { s with mgmt := { s.mgmt with waiting := s.mgmt.waiting ++ [x] } })) ∧
    (∀ y, s.mgmt.waiting = [y] → s.pathUp y.src = true → s.accReady y = true →
      s.accServe = { s with mgmt := { s.mgmt with waiting := [] } }.accRun y) ∧
    (∀ i, (free ∨ ∃ dr ys, s.mgmt.waiting = { x with dr := dr } :: ys ∧ s.pathUp src = true ∧ s.inReset = false) →
      (src = .mgmt ∨ src = .tap) → islandOf a.toNat = some i → i ≠ 1 → a.toNat % 4 = 0 → s.islandOpen i = true →
      (s.reg 0x38).toNat % 65536 ≠ 0 → Completes (.accessTimeout src a wr d) s (fun u => u.mgmt.rdata = 0 ∧
        u.mgmt.waiting = s.mgmt.waiting.tail ∧ bit (u.reg 0x20) 7 = true ∧ (src = .tap → u.tap.ready = true ∧ u.tap.data = 0) ∧
        u.mgmt.owed = s.mgmt.owed ++ [{ island := i, wr := if wr then some (a, d) else none }])) ∧
    (s.HostReaches src 0x20014 → bit d 0 = true → Completes (.irqtest src d) s (fun u => bit (u.reg 0x2000C) 3 = true ∧
      ∀ b, b ≠ 0x2000C → b ≠ 0x20 → u.reg b = s.reg b))

/-- R280 and R470 for the TAP: the state follows TMS, DBGACC shifts, TDO and IR change at falling edges, Test-Logic-Reset, and
Update-DR makes one access. Model's choice: log entry 61. -/
def Obligations.TapResults : Prop :=
  ∀ (tms tdi : Bool) (s : State),
    let t := s.tap
    s.start.phase ≠ .off →
      Completes (.tckEdge true tms tdi) s (fun u => u.tap.st = t.st.next tms ∧ (t.st.next tms = .reset → u.tap.ir = 1) ∧
        (t.st = .shDr → t.ir = 8 → ∀ i, i < 57 → u.tap.dr.getLsbD i = if i = 56 then tdi else t.dr.getLsbD (i + 1)) ∧
        (t.st = .capDr → t.ir = 1 → u.tap.dr.toNat = s.ties.idcode.toNat * 2 + 1) ∧
        (t.st = .capDr → t.ir = 8 →
          u.tap.dr.toNat = b1 t.ready * 2 ^ 56 + t.addr.toNat * 2 ^ 32 + t.data.toNat)) ∧
      (t.upd = false → Completes (.tckEdge false tms tdi) s (fun u => u.tap.st = t.st ∧
        u.tap.ir = (if t.st = .updIr then t.irSh else t.ir) ∧ (t.st = .shDr → u.tap.tdo = some (t.dr.getLsbD 0)))) ∧
      Completes .tapReset s (fun u => u.tap.st = .reset ∧ u.tap.ir = 1) ∧
      (t.upd = true → t.ir = 8 → t.ready = true → s.HostReaches .tap 0x28 → t.dr.extractLsb' 32 24 = 0x28 →
        (t.dr.getLsbD 56 = true → Completes .tapUpdateDr s (fun u => u.reg 0x28 = t.dr.extractLsb' 0 32 ∧ u.tap.ready = true)) ∧
        (t.dr.getLsbD 56 = false → Completes .tapUpdateDr s (fun u => u.tap.data = s.reg 0x28 ∧ u.tap.addr = 0x28 ∧
          u.tap.ready = true)))

/-! ## The whole machine -/

/-- R198 and the frames: the integer, move and jump instructions change their own thread's general registers, PC and status, and of
everything else what a core cycle changes at most; so do loads from scratchpad and, but for the store buffer, stores; and an
instruction whose condition does not hold moves past itself and changes nothing. Any instruction, whatever comes of it (a result, a
wait, an exception), leaves the packet buffer, the instruction stores and every other thread's general registers as they are, and
all but AADD and ASWP leave every scratchpad word; of its own thread's registers it leaves what `OwnFrame` says. -/
def Obligations.InstructionFrames : Prop :=
  ∀ (th : Thid) (s : State) (f : FInstr) (w : Word),
    let n := th.toNat
    let t := s.thread n
    let quiet := fun u : State => Framed s u n ∧ (u.thread n).specials = t.specials
    let still := fun u : State => quiet u ∧ (u.thread n).sb = t.sb
    (∀ i mn, (i, mn) ∈ plainRows th → s.Executes n mn f → Completes i s still) ∧
    (s.Executes n .ldw f → s.SpadReads n (t.greg f.s) w → Completes (.ldw th) s still) ∧
    (∀ ea next, s.Executes n .ld f → t.addrM f = some (ea, next) → s.SpadReads n ea w → Completes (.ld th) s still) ∧
    (s.Executes n .stw f → s.MayStore n [{ ea := t.greg f.d, data := t.greg f.s, mask := 0xFF }] anyTarget →
      Completes (.stw th) s quiet) ∧
    (∀ ea next, s.Executes n .st f → t.addrM f = some (ea, next) →
      s.MayStore n [{ ea := ea, data := t.greg f.d, mask := 0xFF }] anyTarget → Completes (.st th) s quiet) ∧
    (∀ i mn sel, (i, mn) ∈ plainRows th ++ otherRows th → s.issue n mn = some (f, sel) → (f.mn.stepped = true → t.prog = 0) →
      t.latchV = false → condHolds t.status f.cond = false → Completes i s (fun u => still u ∧ StepWrites s u n 0 0 (s.pcPast n f) ∧ FlagsKept s u n)) ∧
    (∀ i mn sel u, (i, mn) ∈ plainRows th ++ otherRows th → s.issue n mn = some (f, sel) → exec i s = .next u →
      OwnFrame s u n mn f) ∧
    (∀ i, i ∈ (plainRows th ++ otherRows th).map Prod.fst ++ [.done th, .donePark th] → ∀ u, exec i s = .next u →
      u.trunk.buf = s.trunk.buf ∧ (∀ g, (u.grove g).istore = (s.grove g).istore) ∧
      (i ≠ .aadd th → i ≠ .aswp th → ∀ g, (u.grove g).scratch = (s.grove g).scratch) ∧
      ∀ x, x ≠ n → (u.thread x).g = (s.thread x).g)

/-- A step takes the command at the front of the queue and runs it with the queue's rest; on an empty queue one heartwood cycle passes
(log entries 1 and 4). -/
def Obligations.StepRunsFront : Prop :=
  ∀ (c : Instr) (rest : List Instr) (s : State),
    (s.pending = c :: rest → step s = exec c { s with pending := rest }) ∧ (s.pending = [] → step s = .next s.idle)

/-- R427 and R440: at reset the cold start is due with attempt 0 and an empty queue, registers hold 0, and the maps are canonical.
Model's choices: log entries 11 and 75. -/
def Obligations.ResetState : Prop :=
  State.reset.pending = [] ∧ State.reset.start.phase = .due ∧ State.reset.start.attempt = 0 ∧ State.reset.start.warm = false ∧
    State.reset.time.bt = 0 ∧ (∀ a, State.reset.reg a = 0) ∧ (∀ th r, (State.reset.thread th).greg r = 0) ∧ Canonical State.reset

/-- R456 and log entry 1: every step leaves the ties as they are, and takes from the queue its front command and nothing else. -/
def Obligations.StepKeepsTiesAndQueue : Prop :=
  ∀ s t : State, step s = .next t → t.ties = s.ties ∧ t.pending = s.pending.tail

/-- Every step, of any command in any state, keeps the register map and the scratchpads canonical. Model's choice: log entry 75. -/
def Obligations.StepKeepsCanonical : Prop :=
  ∀ s t : State, Canonical s → step s = .next t → Canonical t
end

