-- ==== Sys2Proof/Laws/Map.lean ====
section
/-!
SUPPORT. What the operations on sparse maps do: a read after a write, and the canonical form that every operation keeps.
-/
namespace Sys2Proof.Machine

variable {α : Type}

/-- A list whose keys rise from b also rises from any lower bound. -/
theorem risingFrom_mono {b c : Nat} (h : b ≤ c) : ∀ {m : SMap α}, risingFrom c m = true → risingFrom b m = true
  | [], _ => rfl
  | (k, v) :: rest, hm => by
    simp only [risingFrom, Bool.and_eq_true, decide_eq_true_eq] at hm ⊢
    exact ⟨le_trans h hm.1, hm.2⟩

theorem risingFrom_mdel (k : Nat) : ∀ {b : Nat} {m : SMap α}, risingFrom b m = true → risingFrom b (mdel m k) = true
  | _, [], _ => rfl
  | b, (j, v) :: rest, hm => by
    simp only [risingFrom, Bool.and_eq_true, decide_eq_true_eq] at hm
    unfold mdel
    split
    · exact risingFrom_mono (by omega) (risingFrom_mdel k hm.2)
    · simp only [risingFrom, Bool.and_eq_true, decide_eq_true_eq]
      exact ⟨hm.1, risingFrom_mdel k hm.2⟩

theorem risingFrom_mins (k : Nat) (v : α) : ∀ {b : Nat} {m : SMap α}, b ≤ k → risingFrom b m = true →
    risingFrom b (mins m k v) = true
  | b, [], hb, _ => by simp [mins, risingFrom, hb]
  | b, (j, w) :: rest, hb, hm => by
    simp only [risingFrom, Bool.and_eq_true, decide_eq_true_eq] at hm
    unfold mins
    split
    · simp only [risingFrom, Bool.and_eq_true, decide_eq_true_eq]
      exact ⟨hb, by omega, hm.2⟩
    · split
      · next h2 => subst h2; simp only [risingFrom, Bool.and_eq_true, decide_eq_true_eq]; exact ⟨hb, hm.2⟩
      · simp only [risingFrom, Bool.and_eq_true, decide_eq_true_eq]
        exact ⟨hm.1, risingFrom_mins k v (by omega) hm.2⟩

theorem risingFrom_filter (p : Nat × α → Bool) : ∀ {b : Nat} {m : SMap α}, risingFrom b m = true →
    risingFrom b (m.filter p) = true
  | _, [], _ => rfl
  | b, (j, w) :: rest, hm => by
    simp only [risingFrom, Bool.and_eq_true, decide_eq_true_eq] at hm
    simp only [List.filter_cons]
    split
    · simp only [risingFrom, Bool.and_eq_true, decide_eq_true_eq]
      exact ⟨hm.1, risingFrom_filter p hm.2⟩
    · exact risingFrom_mono (by omega) (risingFrom_filter p hm.2)

/-- A map that changes values only keeps its keys rising. -/
theorem risingFrom_map (f : Nat × α → α) : ∀ {b : Nat} {m : SMap α}, risingFrom b m = true →
    risingFrom b (m.map (fun e => (e.1, f e))) = true
  | _, [], _ => rfl
  | b, (j, w) :: rest, hm => by
    simp only [risingFrom, Bool.and_eq_true, decide_eq_true_eq, List.map_cons] at hm ⊢
    exact ⟨hm.1, risingFrom_map f hm.2⟩

theorem mdel_sub (k : Nat) : ∀ {m : SMap α} {e : Nat × α}, e ∈ mdel m k → e ∈ m
  | [], _, h => h
  | (j, w) :: rest, e, h => by
    unfold mdel at h
    split at h
    · exact List.mem_cons_of_mem _ (mdel_sub k h)
    · rcases List.mem_cons.1 h with rfl | h
      · exact List.mem_cons_self ..
      · exact List.mem_cons_of_mem _ (mdel_sub k h)

theorem mins_sub (k : Nat) (v : α) : ∀ {m : SMap α} {e : Nat × α}, e ∈ mins m k v → e = (k, v) ∨ e ∈ m
  | [], e, h => by simp [mins] at h; exact .inl h
  | (j, w) :: rest, e, h => by
    unfold mins at h
    split at h
    · rcases List.mem_cons.1 h with rfl | h
      · exact .inl rfl
      · exact .inr h
    · split at h
      · rcases List.mem_cons.1 h with rfl | h
        · exact .inl rfl
        · exact .inr (List.mem_cons_of_mem _ h)
      · rcases List.mem_cons.1 h with rfl | h
        · exact .inr (List.mem_cons_self ..)
        · rcases mins_sub k v h with rfl | h
          · exact .inl rfl
          · exact .inr (List.mem_cons_of_mem _ h)

section wf
variable [DecidableEq α]

theorem SMap.wf_iff (d : α) (m : SMap α) : SMap.wf d m = true ↔ risingFrom 0 m = true ∧ ∀ e ∈ m, e.2 ≠ d := by
  simp [SMap.wf, Bool.and_eq_true]

/-- The empty map is canonical. -/
theorem SMap.wf_nil (d : α) : SMap.wf d [] = true := rfl

/-- Removing a key keeps the canonical form. -/
theorem SMap.wf_mdel {d : α} {m : SMap α} (h : SMap.wf d m = true) (k : Nat) : SMap.wf d (mdel m k) = true := by
  rw [SMap.wf_iff] at h ⊢
  exact ⟨risingFrom_mdel k h.1, fun e he => h.2 e (mdel_sub k he)⟩

/-- A write keeps the canonical form. -/
theorem SMap.wf_mput {d : α} {m : SMap α} (h : SMap.wf d m = true) (k : Nat) (v : α) : SMap.wf d (mput d m k v) = true := by
  unfold mput
  split
  · exact SMap.wf_mdel h k
  · next hv =>
    rw [SMap.wf_iff] at h ⊢
    refine ⟨risingFrom_mins k v (Nat.zero_le _) h.1, fun e he => ?_⟩
    rcases mins_sub k v he with rfl | he
    · exact hv
    · exact h.2 e he

/-- Leaving entries out keeps the canonical form. -/
theorem SMap.wf_filter {d : α} {m : SMap α} (h : SMap.wf d m = true) (p : Nat × α → Bool) : SMap.wf d (m.filter p) = true := by
  rw [SMap.wf_iff] at h ⊢
  exact ⟨risingFrom_filter p h.1, fun e he => h.2 e (List.mem_filter.1 he).1⟩

theorem SMap.wf_mclear {d : α} {m : SMap α} (h : SMap.wf d m = true) (lo hi : Nat) : SMap.wf d (mclear m lo hi) = true :=
  SMap.wf_filter h _

/-- Changing values and dropping those that became the default keeps the canonical form. -/
theorem SMap.wf_map_filter {d : α} {m : SMap α} (h : SMap.wf d m = true) (f : Nat × α → α) :
    SMap.wf d ((m.map (fun e => (e.1, f e))).filter (fun e => e.2 ≠ d)) = true := by
  rw [SMap.wf_iff] at h ⊢
  refine ⟨risingFrom_filter _ (risingFrom_map f h.1), fun e he => ?_⟩
  simpa using (List.mem_filter.1 he).2

end wf

/-! ## Reads after writes -/

theorem mfind_mins_same (k : Nat) (v : α) : ∀ (m : SMap α), mfind (mins m k v) k = some v
  | [] => by simp [mins, mfind]
  | (j, w) :: rest => by
    unfold mins
    split
    · simp [mfind]
    · split
      · simp [mfind]
      · simp [mfind, *, mfind_mins_same k v rest]

theorem mfind_mins_other {k a : Nat} (v : α) (h : a ≠ k) : ∀ (m : SMap α), mfind (mins m k v) a = mfind m a
  | [] => by simp [mins, mfind, Ne.symm h]
  | (j, w) :: rest => by
    unfold mins
    split
    · simp [mfind, Ne.symm h]
    · split
      · next h2 => subst h2; simp [mfind, Ne.symm h]
      · simp [mfind, mfind_mins_other v h rest]

theorem mfind_mdel_other {k a : Nat} (h : a ≠ k) : ∀ (m : SMap α), mfind (mdel m k) a = mfind m a
  | [] => rfl
  | (j, w) :: rest => by
    unfold mdel
    split
    · next h2 => subst h2; simp [mfind, Ne.symm h, mfind_mdel_other h rest]
    · simp [mfind, mfind_mdel_other h rest]

theorem mfind_mdel_same (k : Nat) : ∀ (m : SMap α), mfind (mdel m k) k = none
  | [] => rfl
  | (j, w) :: rest => by
    unfold mdel
    split
    · exact mfind_mdel_same k rest
    · next h2 => simp [mfind, h2, mfind_mdel_same k rest]

/-- A write leaves every other key alone. -/
theorem mget_mput_other [DecidableEq α] {k a : Nat} (d : α) (m : SMap α) (v : α) (h : a ≠ k) :
    mget d (mput d m k v) a = mget d m a := by
  unfold mget mput
  split
  · rw [mfind_mdel_other h]
  · rw [mfind_mins_other v h]

/-- A read after a write to the same key gives the value written. -/
theorem mget_mput_same [DecidableEq α] (d : α) (m : SMap α) (k : Nat) (v : α) : mget d (mput d m k v) k = v := by
  unfold mget mput
  split
  · next hv => rw [mfind_mdel_same]; simp [hv]
  · rw [mfind_mins_same]; rfl

/-- A read after a write: the value written at its key, the old value elsewhere. -/
theorem mget_mput [DecidableEq α] (d : α) (m : SMap α) (k a : Nat) (v : α) :
    mget d (mput d m k v) a = if a = k then v else mget d m a := by
  split
  · next h => subst h; exact mget_mput_same d m a v
  · next h => exact mget_mput_other d m v h

theorem mget_nil (d : α) (k : Nat) : mget d [] k = d := rfl

end Sys2Proof.Machine
end

