-- ==== Sys2Proof/Laws/Access.lean ====
section
/-!
SUPPORT. Reads after writes for every collection that State holds: the item written at its key, the old item elsewhere.
-/
namespace Sys2Proof.Machine

variable (s : State)

theorem State.reg_setReg (a b : Nat) (v : BitVec 32) : (s.setReg a v).reg b = if b = a then v else s.reg b :=
  mget_mput 0 s.regs a b v
theorem State.reg_orReg (a b : Nat) (v : BitVec 32) : (s.orReg a v).reg b = if b = a then s.reg a ||| v else s.reg b :=
  mget_mput 0 s.regs a b _
theorem State.ctr_count (a b n : Nat) : (s.count a n).ctr b = if b = a then s.ctr a + BitVec.ofNat 64 n else s.ctr b :=
  mget_mput 0 s.ctrs a b _
theorem State.thread_setThread (a b : Nat) (v : Thread) : (s.setThread a v).thread b = if b = a then v else s.thread b :=
  mget_mput ({} : Thread) s.threads a b v
theorem State.thread_modThread (a b : Nat) (f : Thread → Thread) :
    (s.modThread a f).thread b = if b = a then f (s.thread a) else s.thread b := mget_mput ({} : Thread) s.threads a b _
theorem State.core_setCore (a b : Nat) (v : Core) : (s.setCore a v).core b = if b = a then v else s.core b :=
  mget_mput ({} : Core) s.cores a b v
theorem State.core_modCore (a b : Nat) (f : Core → Core) :
    (s.modCore a f).core b = if b = a then f (s.core a) else s.core b := mget_mput ({} : Core) s.cores a b _
theorem State.grove_setGrove (a b : Nat) (v : Grove) : (s.setGrove a v).grove b = if b = a then v else s.grove b :=
  mget_mput ({} : Grove) s.groves a b v
theorem State.grove_modGrove (a b : Nat) (f : Grove → Grove) :
    (s.modGrove a f).grove b = if b = a then f (s.grove a) else s.grove b := mget_mput ({} : Grove) s.groves a b _
theorem State.port_setPort (a b : Nat) (v : Port) : (s.setPort a v).port b = if b = a then v else s.port b :=
  mget_mput ({} : Port) s.ports a b v
theorem State.port_modPort (a b : Nat) (f : Port → Port) :
    (s.modPort a f).port b = if b = a then f (s.port a) else s.port b := mget_mput ({} : Port) s.ports a b _
theorem State.ring_setRing (a b : Nat) (v : Ring) : (s.setRing a v).ring b = if b = a then v else s.ring b :=
  mget_mput ({} : Ring) s.rings a b v
theorem State.ring_modRing (a b : Nat) (f : Ring → Ring) :
    (s.modRing a f).ring b = if b = a then f (s.ring a) else s.ring b := mget_mput ({} : Ring) s.rings a b _
theorem State.link_setLink (a b : Nat) (v : Link) : (s.setLink a v).link b = if b = a then v else s.link b :=
  mget_mput ({} : Link) s.links a b v
theorem State.mem_setMem (a b : Nat) (v : MPort) : (s.setMem a v).mem b = if b = a then v else s.mem b :=
  mget_mput ({} : MPort) s.mems a b v
theorem State.mem_modMem (a b : Nat) (f : MPort → MPort) :
    (s.modMem a f).mem b = if b = a then f (s.mem a) else s.mem b := mget_mput ({} : MPort) s.mems a b _
theorem State.isl_setIsl (a b : Nat) (v : Island) : (s.setIsl a v).isl b = if b = a then v else s.isl b :=
  mget_mput ({} : Island) s.power a b v
theorem State.point_setPoint (a b : Nat) (v : Point) : (s.setPoint a v).point b = if b = a then v else s.point b :=
  mget_mput ({} : Point) s.points a b v
theorem State.eng_setEng (p e x : Nat) (v : Engine) : (s.setEng p e v).eng p x = if x = e then v else s.eng p x := by
  unfold State.setEng State.eng
  rw [State.port_modPort, if_pos rfl]
  exact mget_mput ({} : Engine) _ e x v
theorem State.lock_setLock (g u x : Nat) (v : Lock) : (s.setLock g u v).lock g x = if x = u then v else s.lock g x := by
  unfold State.setLock State.lock
  rw [State.grove_modGrove, if_pos rfl]
  exact mget_mput ({} : Lock) _ u x v
theorem State.chan_setChan (g u x : Nat) (v : Chan) : (s.setChan g u v).chan g x = if x = u then v else s.chan g x := by
  unfold State.setChan State.chan
  rw [State.grove_modGrove, if_pos rfl]
  exact mget_mput ({} : Chan) _ u x v
theorem State.dma_setDma (g k x : Nat) (v : Dma) : (s.setDma g k v).dma g x = if x = k then v else s.dma g x := by
  unfold State.setDma State.dma
  rw [State.grove_modGrove, if_pos rfl]
  exact mget_mput ({} : Dma) _ k x v
theorem State.timer_setTimer (g k x : Nat) (v : Timer) :
    (s.setTimer g k v).timer g x = if x = k then v else s.timer g x := by
  unfold State.setTimer State.timer
  rw [State.grove_modGrove, if_pos rfl]
  exact mget_mput ({} : Timer) _ k x v

/-- A general register after a write: g0 stays 0 (R183). -/
theorem Thread.greg_setGreg (t : Thread) (a b : Nat) (v : Word) :
    (t.setGreg a v).greg b = if b ≠ 0 ∧ b = a then v else t.greg b := by
  unfold Thread.setGreg Thread.greg
  by_cases ha : a = 0
  · subst ha; by_cases hb : b = 0 <;> simp [hb]
  · by_cases hb : b = 0
    · simp [hb]
    · simp only [ha, hb, if_false, ne_eq, not_false_eq_true, true_and]
      rw [mget_mput]

end Sys2Proof.Machine
end

