-- ==== Sys2Proof/Laws/State.lean ====
section
/-!
SUPPORT. One lemma for each field of State and each basic update: what the update leaves alone.
-/
namespace Sys2Proof.Machine

/-! ## setReg -/

section
variable (s : State) (a : Nat) (v : BitVec 32)
@[simp] theorem State.setReg_pending : (s.setReg a v).pending = s.pending := rfl
@[simp] theorem State.setReg_ties : (s.setReg a v).ties = s.ties := rfl
@[simp] theorem State.setReg_hw : (s.setReg a v).hw = s.hw := rfl
@[simp] theorem State.setReg_freeCtr : (s.setReg a v).freeCtr = s.freeCtr := rfl
@[simp] theorem State.setReg_tregs : (s.setReg a v).tregs = s.tregs := rfl
@[simp] theorem State.setReg_stag : (s.setReg a v).stag = s.stag := rfl
@[simp] theorem State.setReg_ctrs : (s.setReg a v).ctrs = s.ctrs := rfl
@[simp] theorem State.setReg_snap : (s.setReg a v).snap = s.snap := rfl
@[simp] theorem State.setReg_time : (s.setReg a v).time = s.time := rfl
@[simp] theorem State.setReg_start : (s.setReg a v).start = s.start := rfl
@[simp] theorem State.setReg_power : (s.setReg a v).power = s.power := rfl
@[simp] theorem State.setReg_points : (s.setReg a v).points = s.points := rfl
@[simp] theorem State.setReg_mgmt : (s.setReg a v).mgmt = s.mgmt := rfl
@[simp] theorem State.setReg_tap : (s.setReg a v).tap = s.tap := rfl
@[simp] theorem State.setReg_nvm : (s.setReg a v).nvm = s.nvm := rfl
@[simp] theorem State.setReg_links : (s.setReg a v).links = s.links := rfl
@[simp] theorem State.setReg_trunk : (s.setReg a v).trunk = s.trunk := rfl
@[simp] theorem State.setReg_ports : (s.setReg a v).ports = s.ports := rfl
@[simp] theorem State.setReg_rings : (s.setReg a v).rings = s.rings := rfl
@[simp] theorem State.setReg_groves : (s.setReg a v).groves = s.groves := rfl
@[simp] theorem State.setReg_cores : (s.setReg a v).cores = s.cores := rfl
@[simp] theorem State.setReg_threads : (s.setReg a v).threads = s.threads := rfl
@[simp] theorem State.setReg_stalls : (s.setReg a v).stalls = s.stalls := rfl
@[simp] theorem State.setReg_beats : (s.setReg a v).beats = s.beats := rfl
@[simp] theorem State.setReg_lookup : (s.setReg a v).lookup = s.lookup := rfl
@[simp] theorem State.setReg_mems : (s.setReg a v).mems = s.mems := rfl
@[simp] theorem State.setReg_memRet : (s.setReg a v).memRet = s.memRet := rfl
@[simp] theorem State.setReg_recd : (s.setReg a v).recd = s.recd := rfl
end

/-! ## orReg -/

section
variable (s : State) (a : Nat) (v : BitVec 32)
@[simp] theorem State.orReg_pending : (s.orReg a v).pending = s.pending := rfl
@[simp] theorem State.orReg_ties : (s.orReg a v).ties = s.ties := rfl
@[simp] theorem State.orReg_hw : (s.orReg a v).hw = s.hw := rfl
@[simp] theorem State.orReg_freeCtr : (s.orReg a v).freeCtr = s.freeCtr := rfl
@[simp] theorem State.orReg_tregs : (s.orReg a v).tregs = s.tregs := rfl
@[simp] theorem State.orReg_stag : (s.orReg a v).stag = s.stag := rfl
@[simp] theorem State.orReg_ctrs : (s.orReg a v).ctrs = s.ctrs := rfl
@[simp] theorem State.orReg_snap : (s.orReg a v).snap = s.snap := rfl
@[simp] theorem State.orReg_time : (s.orReg a v).time = s.time := rfl
@[simp] theorem State.orReg_start : (s.orReg a v).start = s.start := rfl
@[simp] theorem State.orReg_power : (s.orReg a v).power = s.power := rfl
@[simp] theorem State.orReg_points : (s.orReg a v).points = s.points := rfl
@[simp] theorem State.orReg_mgmt : (s.orReg a v).mgmt = s.mgmt := rfl
@[simp] theorem State.orReg_tap : (s.orReg a v).tap = s.tap := rfl
@[simp] theorem State.orReg_nvm : (s.orReg a v).nvm = s.nvm := rfl
@[simp] theorem State.orReg_links : (s.orReg a v).links = s.links := rfl
@[simp] theorem State.orReg_trunk : (s.orReg a v).trunk = s.trunk := rfl
@[simp] theorem State.orReg_ports : (s.orReg a v).ports = s.ports := rfl
@[simp] theorem State.orReg_rings : (s.orReg a v).rings = s.rings := rfl
@[simp] theorem State.orReg_groves : (s.orReg a v).groves = s.groves := rfl
@[simp] theorem State.orReg_cores : (s.orReg a v).cores = s.cores := rfl
@[simp] theorem State.orReg_threads : (s.orReg a v).threads = s.threads := rfl
@[simp] theorem State.orReg_stalls : (s.orReg a v).stalls = s.stalls := rfl
@[simp] theorem State.orReg_beats : (s.orReg a v).beats = s.beats := rfl
@[simp] theorem State.orReg_lookup : (s.orReg a v).lookup = s.lookup := rfl
@[simp] theorem State.orReg_mems : (s.orReg a v).mems = s.mems := rfl
@[simp] theorem State.orReg_memRet : (s.orReg a v).memRet = s.memRet := rfl
@[simp] theorem State.orReg_recd : (s.orReg a v).recd = s.recd := rfl
end

/-! ## count -/

section
variable (s : State) (a n : Nat)
@[simp] theorem State.count_pending : (s.count a n).pending = s.pending := rfl
@[simp] theorem State.count_ties : (s.count a n).ties = s.ties := rfl
@[simp] theorem State.count_hw : (s.count a n).hw = s.hw := rfl
@[simp] theorem State.count_freeCtr : (s.count a n).freeCtr = s.freeCtr := rfl
@[simp] theorem State.count_regs : (s.count a n).regs = s.regs := rfl
@[simp] theorem State.count_tregs : (s.count a n).tregs = s.tregs := rfl
@[simp] theorem State.count_stag : (s.count a n).stag = s.stag := rfl
@[simp] theorem State.count_snap : (s.count a n).snap = s.snap := rfl
@[simp] theorem State.count_time : (s.count a n).time = s.time := rfl
@[simp] theorem State.count_start : (s.count a n).start = s.start := rfl
@[simp] theorem State.count_power : (s.count a n).power = s.power := rfl
@[simp] theorem State.count_points : (s.count a n).points = s.points := rfl
@[simp] theorem State.count_mgmt : (s.count a n).mgmt = s.mgmt := rfl
@[simp] theorem State.count_tap : (s.count a n).tap = s.tap := rfl
@[simp] theorem State.count_nvm : (s.count a n).nvm = s.nvm := rfl
@[simp] theorem State.count_links : (s.count a n).links = s.links := rfl
@[simp] theorem State.count_trunk : (s.count a n).trunk = s.trunk := rfl
@[simp] theorem State.count_ports : (s.count a n).ports = s.ports := rfl
@[simp] theorem State.count_rings : (s.count a n).rings = s.rings := rfl
@[simp] theorem State.count_groves : (s.count a n).groves = s.groves := rfl
@[simp] theorem State.count_cores : (s.count a n).cores = s.cores := rfl
@[simp] theorem State.count_threads : (s.count a n).threads = s.threads := rfl
@[simp] theorem State.count_stalls : (s.count a n).stalls = s.stalls := rfl
@[simp] theorem State.count_beats : (s.count a n).beats = s.beats := rfl
@[simp] theorem State.count_lookup : (s.count a n).lookup = s.lookup := rfl
@[simp] theorem State.count_mems : (s.count a n).mems = s.mems := rfl
@[simp] theorem State.count_memRet : (s.count a n).memRet = s.memRet := rfl
@[simp] theorem State.count_recd : (s.count a n).recd = s.recd := rfl
end

/-! ## setThread -/

section
variable (s : State) (th : Nat) (t : Thread)
@[simp] theorem State.setThread_pending : (s.setThread th t).pending = s.pending := rfl
@[simp] theorem State.setThread_ties : (s.setThread th t).ties = s.ties := rfl
@[simp] theorem State.setThread_hw : (s.setThread th t).hw = s.hw := rfl
@[simp] theorem State.setThread_freeCtr : (s.setThread th t).freeCtr = s.freeCtr := rfl
@[simp] theorem State.setThread_regs : (s.setThread th t).regs = s.regs := rfl
@[simp] theorem State.setThread_tregs : (s.setThread th t).tregs = s.tregs := rfl
@[simp] theorem State.setThread_stag : (s.setThread th t).stag = s.stag := rfl
@[simp] theorem State.setThread_ctrs : (s.setThread th t).ctrs = s.ctrs := rfl
@[simp] theorem State.setThread_snap : (s.setThread th t).snap = s.snap := rfl
@[simp] theorem State.setThread_time : (s.setThread th t).time = s.time := rfl
@[simp] theorem State.setThread_start : (s.setThread th t).start = s.start := rfl
@[simp] theorem State.setThread_power : (s.setThread th t).power = s.power := rfl
@[simp] theorem State.setThread_points : (s.setThread th t).points = s.points := rfl
@[simp] theorem State.setThread_mgmt : (s.setThread th t).mgmt = s.mgmt := rfl
@[simp] theorem State.setThread_tap : (s.setThread th t).tap = s.tap := rfl
@[simp] theorem State.setThread_nvm : (s.setThread th t).nvm = s.nvm := rfl
@[simp] theorem State.setThread_links : (s.setThread th t).links = s.links := rfl
@[simp] theorem State.setThread_trunk : (s.setThread th t).trunk = s.trunk := rfl
@[simp] theorem State.setThread_ports : (s.setThread th t).ports = s.ports := rfl
@[simp] theorem State.setThread_rings : (s.setThread th t).rings = s.rings := rfl
@[simp] theorem State.setThread_groves : (s.setThread th t).groves = s.groves := rfl
@[simp] theorem State.setThread_cores : (s.setThread th t).cores = s.cores := rfl
@[simp] theorem State.setThread_stalls : (s.setThread th t).stalls = s.stalls := rfl
@[simp] theorem State.setThread_beats : (s.setThread th t).beats = s.beats := rfl
@[simp] theorem State.setThread_lookup : (s.setThread th t).lookup = s.lookup := rfl
@[simp] theorem State.setThread_mems : (s.setThread th t).mems = s.mems := rfl
@[simp] theorem State.setThread_memRet : (s.setThread th t).memRet = s.memRet := rfl
@[simp] theorem State.setThread_recd : (s.setThread th t).recd = s.recd := rfl
end

/-! ## modThread -/

section
variable (s : State) (th : Nat) (f : Thread → Thread)
@[simp] theorem State.modThread_pending : (s.modThread th f).pending = s.pending := rfl
@[simp] theorem State.modThread_ties : (s.modThread th f).ties = s.ties := rfl
@[simp] theorem State.modThread_hw : (s.modThread th f).hw = s.hw := rfl
@[simp] theorem State.modThread_freeCtr : (s.modThread th f).freeCtr = s.freeCtr := rfl
@[simp] theorem State.modThread_regs : (s.modThread th f).regs = s.regs := rfl
@[simp] theorem State.modThread_tregs : (s.modThread th f).tregs = s.tregs := rfl
@[simp] theorem State.modThread_stag : (s.modThread th f).stag = s.stag := rfl
@[simp] theorem State.modThread_ctrs : (s.modThread th f).ctrs = s.ctrs := rfl
@[simp] theorem State.modThread_snap : (s.modThread th f).snap = s.snap := rfl
@[simp] theorem State.modThread_time : (s.modThread th f).time = s.time := rfl
@[simp] theorem State.modThread_start : (s.modThread th f).start = s.start := rfl
@[simp] theorem State.modThread_power : (s.modThread th f).power = s.power := rfl
@[simp] theorem State.modThread_points : (s.modThread th f).points = s.points := rfl
@[simp] theorem State.modThread_mgmt : (s.modThread th f).mgmt = s.mgmt := rfl
@[simp] theorem State.modThread_tap : (s.modThread th f).tap = s.tap := rfl
@[simp] theorem State.modThread_nvm : (s.modThread th f).nvm = s.nvm := rfl
@[simp] theorem State.modThread_links : (s.modThread th f).links = s.links := rfl
@[simp] theorem State.modThread_trunk : (s.modThread th f).trunk = s.trunk := rfl
@[simp] theorem State.modThread_ports : (s.modThread th f).ports = s.ports := rfl
@[simp] theorem State.modThread_rings : (s.modThread th f).rings = s.rings := rfl
@[simp] theorem State.modThread_groves : (s.modThread th f).groves = s.groves := rfl
@[simp] theorem State.modThread_cores : (s.modThread th f).cores = s.cores := rfl
@[simp] theorem State.modThread_stalls : (s.modThread th f).stalls = s.stalls := rfl
@[simp] theorem State.modThread_beats : (s.modThread th f).beats = s.beats := rfl
@[simp] theorem State.modThread_lookup : (s.modThread th f).lookup = s.lookup := rfl
@[simp] theorem State.modThread_mems : (s.modThread th f).mems = s.mems := rfl
@[simp] theorem State.modThread_memRet : (s.modThread th f).memRet = s.memRet := rfl
@[simp] theorem State.modThread_recd : (s.modThread th f).recd = s.recd := rfl
end

/-! ## setCore -/

section
variable (s : State) (k : Nat) (c : Core)
@[simp] theorem State.setCore_pending : (s.setCore k c).pending = s.pending := rfl
@[simp] theorem State.setCore_ties : (s.setCore k c).ties = s.ties := rfl
@[simp] theorem State.setCore_hw : (s.setCore k c).hw = s.hw := rfl
@[simp] theorem State.setCore_freeCtr : (s.setCore k c).freeCtr = s.freeCtr := rfl
@[simp] theorem State.setCore_regs : (s.setCore k c).regs = s.regs := rfl
@[simp] theorem State.setCore_tregs : (s.setCore k c).tregs = s.tregs := rfl
@[simp] theorem State.setCore_stag : (s.setCore k c).stag = s.stag := rfl
@[simp] theorem State.setCore_ctrs : (s.setCore k c).ctrs = s.ctrs := rfl
@[simp] theorem State.setCore_snap : (s.setCore k c).snap = s.snap := rfl
@[simp] theorem State.setCore_time : (s.setCore k c).time = s.time := rfl
@[simp] theorem State.setCore_start : (s.setCore k c).start = s.start := rfl
@[simp] theorem State.setCore_power : (s.setCore k c).power = s.power := rfl
@[simp] theorem State.setCore_points : (s.setCore k c).points = s.points := rfl
@[simp] theorem State.setCore_mgmt : (s.setCore k c).mgmt = s.mgmt := rfl
@[simp] theorem State.setCore_tap : (s.setCore k c).tap = s.tap := rfl
@[simp] theorem State.setCore_nvm : (s.setCore k c).nvm = s.nvm := rfl
@[simp] theorem State.setCore_links : (s.setCore k c).links = s.links := rfl
@[simp] theorem State.setCore_trunk : (s.setCore k c).trunk = s.trunk := rfl
@[simp] theorem State.setCore_ports : (s.setCore k c).ports = s.ports := rfl
@[simp] theorem State.setCore_rings : (s.setCore k c).rings = s.rings := rfl
@[simp] theorem State.setCore_groves : (s.setCore k c).groves = s.groves := rfl
@[simp] theorem State.setCore_threads : (s.setCore k c).threads = s.threads := rfl
@[simp] theorem State.setCore_stalls : (s.setCore k c).stalls = s.stalls := rfl
@[simp] theorem State.setCore_beats : (s.setCore k c).beats = s.beats := rfl
@[simp] theorem State.setCore_lookup : (s.setCore k c).lookup = s.lookup := rfl
@[simp] theorem State.setCore_mems : (s.setCore k c).mems = s.mems := rfl
@[simp] theorem State.setCore_memRet : (s.setCore k c).memRet = s.memRet := rfl
@[simp] theorem State.setCore_recd : (s.setCore k c).recd = s.recd := rfl
end

/-! ## modCore -/

section
variable (s : State) (k : Nat) (f : Core → Core)
@[simp] theorem State.modCore_pending : (s.modCore k f).pending = s.pending := rfl
@[simp] theorem State.modCore_ties : (s.modCore k f).ties = s.ties := rfl
@[simp] theorem State.modCore_hw : (s.modCore k f).hw = s.hw := rfl
@[simp] theorem State.modCore_freeCtr : (s.modCore k f).freeCtr = s.freeCtr := rfl
@[simp] theorem State.modCore_regs : (s.modCore k f).regs = s.regs := rfl
@[simp] theorem State.modCore_tregs : (s.modCore k f).tregs = s.tregs := rfl
@[simp] theorem State.modCore_stag : (s.modCore k f).stag = s.stag := rfl
@[simp] theorem State.modCore_ctrs : (s.modCore k f).ctrs = s.ctrs := rfl
@[simp] theorem State.modCore_snap : (s.modCore k f).snap = s.snap := rfl
@[simp] theorem State.modCore_time : (s.modCore k f).time = s.time := rfl
@[simp] theorem State.modCore_start : (s.modCore k f).start = s.start := rfl
@[simp] theorem State.modCore_power : (s.modCore k f).power = s.power := rfl
@[simp] theorem State.modCore_points : (s.modCore k f).points = s.points := rfl
@[simp] theorem State.modCore_mgmt : (s.modCore k f).mgmt = s.mgmt := rfl
@[simp] theorem State.modCore_tap : (s.modCore k f).tap = s.tap := rfl
@[simp] theorem State.modCore_nvm : (s.modCore k f).nvm = s.nvm := rfl
@[simp] theorem State.modCore_links : (s.modCore k f).links = s.links := rfl
@[simp] theorem State.modCore_trunk : (s.modCore k f).trunk = s.trunk := rfl
@[simp] theorem State.modCore_ports : (s.modCore k f).ports = s.ports := rfl
@[simp] theorem State.modCore_rings : (s.modCore k f).rings = s.rings := rfl
@[simp] theorem State.modCore_groves : (s.modCore k f).groves = s.groves := rfl
@[simp] theorem State.modCore_threads : (s.modCore k f).threads = s.threads := rfl
@[simp] theorem State.modCore_stalls : (s.modCore k f).stalls = s.stalls := rfl
@[simp] theorem State.modCore_beats : (s.modCore k f).beats = s.beats := rfl
@[simp] theorem State.modCore_lookup : (s.modCore k f).lookup = s.lookup := rfl
@[simp] theorem State.modCore_mems : (s.modCore k f).mems = s.mems := rfl
@[simp] theorem State.modCore_memRet : (s.modCore k f).memRet = s.memRet := rfl
@[simp] theorem State.modCore_recd : (s.modCore k f).recd = s.recd := rfl
end

/-! ## setGrove -/

section
variable (s : State) (g : Nat) (v : Grove)
@[simp] theorem State.setGrove_pending : (s.setGrove g v).pending = s.pending := rfl
@[simp] theorem State.setGrove_ties : (s.setGrove g v).ties = s.ties := rfl
@[simp] theorem State.setGrove_hw : (s.setGrove g v).hw = s.hw := rfl
@[simp] theorem State.setGrove_freeCtr : (s.setGrove g v).freeCtr = s.freeCtr := rfl
@[simp] theorem State.setGrove_regs : (s.setGrove g v).regs = s.regs := rfl
@[simp] theorem State.setGrove_tregs : (s.setGrove g v).tregs = s.tregs := rfl
@[simp] theorem State.setGrove_stag : (s.setGrove g v).stag = s.stag := rfl
@[simp] theorem State.setGrove_ctrs : (s.setGrove g v).ctrs = s.ctrs := rfl
@[simp] theorem State.setGrove_snap : (s.setGrove g v).snap = s.snap := rfl
@[simp] theorem State.setGrove_time : (s.setGrove g v).time = s.time := rfl
@[simp] theorem State.setGrove_start : (s.setGrove g v).start = s.start := rfl
@[simp] theorem State.setGrove_power : (s.setGrove g v).power = s.power := rfl
@[simp] theorem State.setGrove_points : (s.setGrove g v).points = s.points := rfl
@[simp] theorem State.setGrove_mgmt : (s.setGrove g v).mgmt = s.mgmt := rfl
@[simp] theorem State.setGrove_tap : (s.setGrove g v).tap = s.tap := rfl
@[simp] theorem State.setGrove_nvm : (s.setGrove g v).nvm = s.nvm := rfl
@[simp] theorem State.setGrove_links : (s.setGrove g v).links = s.links := rfl
@[simp] theorem State.setGrove_trunk : (s.setGrove g v).trunk = s.trunk := rfl
@[simp] theorem State.setGrove_ports : (s.setGrove g v).ports = s.ports := rfl
@[simp] theorem State.setGrove_rings : (s.setGrove g v).rings = s.rings := rfl
@[simp] theorem State.setGrove_cores : (s.setGrove g v).cores = s.cores := rfl
@[simp] theorem State.setGrove_threads : (s.setGrove g v).threads = s.threads := rfl
@[simp] theorem State.setGrove_stalls : (s.setGrove g v).stalls = s.stalls := rfl
@[simp] theorem State.setGrove_beats : (s.setGrove g v).beats = s.beats := rfl
@[simp] theorem State.setGrove_lookup : (s.setGrove g v).lookup = s.lookup := rfl
@[simp] theorem State.setGrove_mems : (s.setGrove g v).mems = s.mems := rfl
@[simp] theorem State.setGrove_memRet : (s.setGrove g v).memRet = s.memRet := rfl
@[simp] theorem State.setGrove_recd : (s.setGrove g v).recd = s.recd := rfl
end

/-! ## modGrove -/

section
variable (s : State) (g : Nat) (f : Grove → Grove)
@[simp] theorem State.modGrove_pending : (s.modGrove g f).pending = s.pending := rfl
@[simp] theorem State.modGrove_ties : (s.modGrove g f).ties = s.ties := rfl
@[simp] theorem State.modGrove_hw : (s.modGrove g f).hw = s.hw := rfl
@[simp] theorem State.modGrove_freeCtr : (s.modGrove g f).freeCtr = s.freeCtr := rfl
@[simp] theorem State.modGrove_regs : (s.modGrove g f).regs = s.regs := rfl
@[simp] theorem State.modGrove_tregs : (s.modGrove g f).tregs = s.tregs := rfl
@[simp] theorem State.modGrove_stag : (s.modGrove g f).stag = s.stag := rfl
@[simp] theorem State.modGrove_ctrs : (s.modGrove g f).ctrs = s.ctrs := rfl
@[simp] theorem State.modGrove_snap : (s.modGrove g f).snap = s.snap := rfl
@[simp] theorem State.modGrove_time : (s.modGrove g f).time = s.time := rfl
@[simp] theorem State.modGrove_start : (s.modGrove g f).start = s.start := rfl
@[simp] theorem State.modGrove_power : (s.modGrove g f).power = s.power := rfl
@[simp] theorem State.modGrove_points : (s.modGrove g f).points = s.points := rfl
@[simp] theorem State.modGrove_mgmt : (s.modGrove g f).mgmt = s.mgmt := rfl
@[simp] theorem State.modGrove_tap : (s.modGrove g f).tap = s.tap := rfl
@[simp] theorem State.modGrove_nvm : (s.modGrove g f).nvm = s.nvm := rfl
@[simp] theorem State.modGrove_links : (s.modGrove g f).links = s.links := rfl
@[simp] theorem State.modGrove_trunk : (s.modGrove g f).trunk = s.trunk := rfl
@[simp] theorem State.modGrove_ports : (s.modGrove g f).ports = s.ports := rfl
@[simp] theorem State.modGrove_rings : (s.modGrove g f).rings = s.rings := rfl
@[simp] theorem State.modGrove_cores : (s.modGrove g f).cores = s.cores := rfl
@[simp] theorem State.modGrove_threads : (s.modGrove g f).threads = s.threads := rfl
@[simp] theorem State.modGrove_stalls : (s.modGrove g f).stalls = s.stalls := rfl
@[simp] theorem State.modGrove_beats : (s.modGrove g f).beats = s.beats := rfl
@[simp] theorem State.modGrove_lookup : (s.modGrove g f).lookup = s.lookup := rfl
@[simp] theorem State.modGrove_mems : (s.modGrove g f).mems = s.mems := rfl
@[simp] theorem State.modGrove_memRet : (s.modGrove g f).memRet = s.memRet := rfl
@[simp] theorem State.modGrove_recd : (s.modGrove g f).recd = s.recd := rfl
end

/-! ## setPort -/

section
variable (s : State) (p : Nat) (v : Port)
@[simp] theorem State.setPort_pending : (s.setPort p v).pending = s.pending := rfl
@[simp] theorem State.setPort_ties : (s.setPort p v).ties = s.ties := rfl
@[simp] theorem State.setPort_hw : (s.setPort p v).hw = s.hw := rfl
@[simp] theorem State.setPort_freeCtr : (s.setPort p v).freeCtr = s.freeCtr := rfl
@[simp] theorem State.setPort_regs : (s.setPort p v).regs = s.regs := rfl
@[simp] theorem State.setPort_tregs : (s.setPort p v).tregs = s.tregs := rfl
@[simp] theorem State.setPort_stag : (s.setPort p v).stag = s.stag := rfl
@[simp] theorem State.setPort_ctrs : (s.setPort p v).ctrs = s.ctrs := rfl
@[simp] theorem State.setPort_snap : (s.setPort p v).snap = s.snap := rfl
@[simp] theorem State.setPort_time : (s.setPort p v).time = s.time := rfl
@[simp] theorem State.setPort_start : (s.setPort p v).start = s.start := rfl
@[simp] theorem State.setPort_power : (s.setPort p v).power = s.power := rfl
@[simp] theorem State.setPort_points : (s.setPort p v).points = s.points := rfl
@[simp] theorem State.setPort_mgmt : (s.setPort p v).mgmt = s.mgmt := rfl
@[simp] theorem State.setPort_tap : (s.setPort p v).tap = s.tap := rfl
@[simp] theorem State.setPort_nvm : (s.setPort p v).nvm = s.nvm := rfl
@[simp] theorem State.setPort_links : (s.setPort p v).links = s.links := rfl
@[simp] theorem State.setPort_trunk : (s.setPort p v).trunk = s.trunk := rfl
@[simp] theorem State.setPort_rings : (s.setPort p v).rings = s.rings := rfl
@[simp] theorem State.setPort_groves : (s.setPort p v).groves = s.groves := rfl
@[simp] theorem State.setPort_cores : (s.setPort p v).cores = s.cores := rfl
@[simp] theorem State.setPort_threads : (s.setPort p v).threads = s.threads := rfl
@[simp] theorem State.setPort_stalls : (s.setPort p v).stalls = s.stalls := rfl
@[simp] theorem State.setPort_beats : (s.setPort p v).beats = s.beats := rfl
@[simp] theorem State.setPort_lookup : (s.setPort p v).lookup = s.lookup := rfl
@[simp] theorem State.setPort_mems : (s.setPort p v).mems = s.mems := rfl
@[simp] theorem State.setPort_memRet : (s.setPort p v).memRet = s.memRet := rfl
@[simp] theorem State.setPort_recd : (s.setPort p v).recd = s.recd := rfl
end

/-! ## modPort -/

section
variable (s : State) (p : Nat) (f : Port → Port)
@[simp] theorem State.modPort_pending : (s.modPort p f).pending = s.pending := rfl
@[simp] theorem State.modPort_ties : (s.modPort p f).ties = s.ties := rfl
@[simp] theorem State.modPort_hw : (s.modPort p f).hw = s.hw := rfl
@[simp] theorem State.modPort_freeCtr : (s.modPort p f).freeCtr = s.freeCtr := rfl
@[simp] theorem State.modPort_regs : (s.modPort p f).regs = s.regs := rfl
@[simp] theorem State.modPort_tregs : (s.modPort p f).tregs = s.tregs := rfl
@[simp] theorem State.modPort_stag : (s.modPort p f).stag = s.stag := rfl
@[simp] theorem State.modPort_ctrs : (s.modPort p f).ctrs = s.ctrs := rfl
@[simp] theorem State.modPort_snap : (s.modPort p f).snap = s.snap := rfl
@[simp] theorem State.modPort_time : (s.modPort p f).time = s.time := rfl
@[simp] theorem State.modPort_start : (s.modPort p f).start = s.start := rfl
@[simp] theorem State.modPort_power : (s.modPort p f).power = s.power := rfl
@[simp] theorem State.modPort_points : (s.modPort p f).points = s.points := rfl
@[simp] theorem State.modPort_mgmt : (s.modPort p f).mgmt = s.mgmt := rfl
@[simp] theorem State.modPort_tap : (s.modPort p f).tap = s.tap := rfl
@[simp] theorem State.modPort_nvm : (s.modPort p f).nvm = s.nvm := rfl
@[simp] theorem State.modPort_links : (s.modPort p f).links = s.links := rfl
@[simp] theorem State.modPort_trunk : (s.modPort p f).trunk = s.trunk := rfl
@[simp] theorem State.modPort_rings : (s.modPort p f).rings = s.rings := rfl
@[simp] theorem State.modPort_groves : (s.modPort p f).groves = s.groves := rfl
@[simp] theorem State.modPort_cores : (s.modPort p f).cores = s.cores := rfl
@[simp] theorem State.modPort_threads : (s.modPort p f).threads = s.threads := rfl
@[simp] theorem State.modPort_stalls : (s.modPort p f).stalls = s.stalls := rfl
@[simp] theorem State.modPort_beats : (s.modPort p f).beats = s.beats := rfl
@[simp] theorem State.modPort_lookup : (s.modPort p f).lookup = s.lookup := rfl
@[simp] theorem State.modPort_mems : (s.modPort p f).mems = s.mems := rfl
@[simp] theorem State.modPort_memRet : (s.modPort p f).memRet = s.memRet := rfl
@[simp] theorem State.modPort_recd : (s.modPort p f).recd = s.recd := rfl
end

/-! ## setRing -/

section
variable (s : State) (r : Nat) (v : Ring)
@[simp] theorem State.setRing_pending : (s.setRing r v).pending = s.pending := rfl
@[simp] theorem State.setRing_ties : (s.setRing r v).ties = s.ties := rfl
@[simp] theorem State.setRing_hw : (s.setRing r v).hw = s.hw := rfl
@[simp] theorem State.setRing_freeCtr : (s.setRing r v).freeCtr = s.freeCtr := rfl
@[simp] theorem State.setRing_regs : (s.setRing r v).regs = s.regs := rfl
@[simp] theorem State.setRing_tregs : (s.setRing r v).tregs = s.tregs := rfl
@[simp] theorem State.setRing_stag : (s.setRing r v).stag = s.stag := rfl
@[simp] theorem State.setRing_ctrs : (s.setRing r v).ctrs = s.ctrs := rfl
@[simp] theorem State.setRing_snap : (s.setRing r v).snap = s.snap := rfl
@[simp] theorem State.setRing_time : (s.setRing r v).time = s.time := rfl
@[simp] theorem State.setRing_start : (s.setRing r v).start = s.start := rfl
@[simp] theorem State.setRing_power : (s.setRing r v).power = s.power := rfl
@[simp] theorem State.setRing_points : (s.setRing r v).points = s.points := rfl
@[simp] theorem State.setRing_mgmt : (s.setRing r v).mgmt = s.mgmt := rfl
@[simp] theorem State.setRing_tap : (s.setRing r v).tap = s.tap := rfl
@[simp] theorem State.setRing_nvm : (s.setRing r v).nvm = s.nvm := rfl
@[simp] theorem State.setRing_links : (s.setRing r v).links = s.links := rfl
@[simp] theorem State.setRing_trunk : (s.setRing r v).trunk = s.trunk := rfl
@[simp] theorem State.setRing_ports : (s.setRing r v).ports = s.ports := rfl
@[simp] theorem State.setRing_groves : (s.setRing r v).groves = s.groves := rfl
@[simp] theorem State.setRing_cores : (s.setRing r v).cores = s.cores := rfl
@[simp] theorem State.setRing_threads : (s.setRing r v).threads = s.threads := rfl
@[simp] theorem State.setRing_stalls : (s.setRing r v).stalls = s.stalls := rfl
@[simp] theorem State.setRing_beats : (s.setRing r v).beats = s.beats := rfl
@[simp] theorem State.setRing_lookup : (s.setRing r v).lookup = s.lookup := rfl
@[simp] theorem State.setRing_mems : (s.setRing r v).mems = s.mems := rfl
@[simp] theorem State.setRing_memRet : (s.setRing r v).memRet = s.memRet := rfl
@[simp] theorem State.setRing_recd : (s.setRing r v).recd = s.recd := rfl
end

/-! ## modRing -/

section
variable (s : State) (r : Nat) (f : Ring → Ring)
@[simp] theorem State.modRing_pending : (s.modRing r f).pending = s.pending := rfl
@[simp] theorem State.modRing_ties : (s.modRing r f).ties = s.ties := rfl
@[simp] theorem State.modRing_hw : (s.modRing r f).hw = s.hw := rfl
@[simp] theorem State.modRing_freeCtr : (s.modRing r f).freeCtr = s.freeCtr := rfl
@[simp] theorem State.modRing_regs : (s.modRing r f).regs = s.regs := rfl
@[simp] theorem State.modRing_tregs : (s.modRing r f).tregs = s.tregs := rfl
@[simp] theorem State.modRing_stag : (s.modRing r f).stag = s.stag := rfl
@[simp] theorem State.modRing_ctrs : (s.modRing r f).ctrs = s.ctrs := rfl
@[simp] theorem State.modRing_snap : (s.modRing r f).snap = s.snap := rfl
@[simp] theorem State.modRing_time : (s.modRing r f).time = s.time := rfl
@[simp] theorem State.modRing_start : (s.modRing r f).start = s.start := rfl
@[simp] theorem State.modRing_power : (s.modRing r f).power = s.power := rfl
@[simp] theorem State.modRing_points : (s.modRing r f).points = s.points := rfl
@[simp] theorem State.modRing_mgmt : (s.modRing r f).mgmt = s.mgmt := rfl
@[simp] theorem State.modRing_tap : (s.modRing r f).tap = s.tap := rfl
@[simp] theorem State.modRing_nvm : (s.modRing r f).nvm = s.nvm := rfl
@[simp] theorem State.modRing_links : (s.modRing r f).links = s.links := rfl
@[simp] theorem State.modRing_trunk : (s.modRing r f).trunk = s.trunk := rfl
@[simp] theorem State.modRing_ports : (s.modRing r f).ports = s.ports := rfl
@[simp] theorem State.modRing_groves : (s.modRing r f).groves = s.groves := rfl
@[simp] theorem State.modRing_cores : (s.modRing r f).cores = s.cores := rfl
@[simp] theorem State.modRing_threads : (s.modRing r f).threads = s.threads := rfl
@[simp] theorem State.modRing_stalls : (s.modRing r f).stalls = s.stalls := rfl
@[simp] theorem State.modRing_beats : (s.modRing r f).beats = s.beats := rfl
@[simp] theorem State.modRing_lookup : (s.modRing r f).lookup = s.lookup := rfl
@[simp] theorem State.modRing_mems : (s.modRing r f).mems = s.mems := rfl
@[simp] theorem State.modRing_memRet : (s.modRing r f).memRet = s.memRet := rfl
@[simp] theorem State.modRing_recd : (s.modRing r f).recd = s.recd := rfl
end

/-! ## setLink -/

section
variable (s : State) (k : Nat) (v : Link)
@[simp] theorem State.setLink_pending : (s.setLink k v).pending = s.pending := rfl
@[simp] theorem State.setLink_ties : (s.setLink k v).ties = s.ties := rfl
@[simp] theorem State.setLink_hw : (s.setLink k v).hw = s.hw := rfl
@[simp] theorem State.setLink_freeCtr : (s.setLink k v).freeCtr = s.freeCtr := rfl
@[simp] theorem State.setLink_regs : (s.setLink k v).regs = s.regs := rfl
@[simp] theorem State.setLink_tregs : (s.setLink k v).tregs = s.tregs := rfl
@[simp] theorem State.setLink_stag : (s.setLink k v).stag = s.stag := rfl
@[simp] theorem State.setLink_ctrs : (s.setLink k v).ctrs = s.ctrs := rfl
@[simp] theorem State.setLink_snap : (s.setLink k v).snap = s.snap := rfl
@[simp] theorem State.setLink_time : (s.setLink k v).time = s.time := rfl
@[simp] theorem State.setLink_start : (s.setLink k v).start = s.start := rfl
@[simp] theorem State.setLink_power : (s.setLink k v).power = s.power := rfl
@[simp] theorem State.setLink_points : (s.setLink k v).points = s.points := rfl
@[simp] theorem State.setLink_mgmt : (s.setLink k v).mgmt = s.mgmt := rfl
@[simp] theorem State.setLink_tap : (s.setLink k v).tap = s.tap := rfl
@[simp] theorem State.setLink_nvm : (s.setLink k v).nvm = s.nvm := rfl
@[simp] theorem State.setLink_trunk : (s.setLink k v).trunk = s.trunk := rfl
@[simp] theorem State.setLink_ports : (s.setLink k v).ports = s.ports := rfl
@[simp] theorem State.setLink_rings : (s.setLink k v).rings = s.rings := rfl
@[simp] theorem State.setLink_groves : (s.setLink k v).groves = s.groves := rfl
@[simp] theorem State.setLink_cores : (s.setLink k v).cores = s.cores := rfl
@[simp] theorem State.setLink_threads : (s.setLink k v).threads = s.threads := rfl
@[simp] theorem State.setLink_stalls : (s.setLink k v).stalls = s.stalls := rfl
@[simp] theorem State.setLink_beats : (s.setLink k v).beats = s.beats := rfl
@[simp] theorem State.setLink_lookup : (s.setLink k v).lookup = s.lookup := rfl
@[simp] theorem State.setLink_mems : (s.setLink k v).mems = s.mems := rfl
@[simp] theorem State.setLink_memRet : (s.setLink k v).memRet = s.memRet := rfl
@[simp] theorem State.setLink_recd : (s.setLink k v).recd = s.recd := rfl
end

/-! ## setMem -/

section
variable (s : State) (p : Nat) (v : MPort)
@[simp] theorem State.setMem_pending : (s.setMem p v).pending = s.pending := rfl
@[simp] theorem State.setMem_ties : (s.setMem p v).ties = s.ties := rfl
@[simp] theorem State.setMem_hw : (s.setMem p v).hw = s.hw := rfl
@[simp] theorem State.setMem_freeCtr : (s.setMem p v).freeCtr = s.freeCtr := rfl
@[simp] theorem State.setMem_regs : (s.setMem p v).regs = s.regs := rfl
@[simp] theorem State.setMem_tregs : (s.setMem p v).tregs = s.tregs := rfl
@[simp] theorem State.setMem_stag : (s.setMem p v).stag = s.stag := rfl
@[simp] theorem State.setMem_ctrs : (s.setMem p v).ctrs = s.ctrs := rfl
@[simp] theorem State.setMem_snap : (s.setMem p v).snap = s.snap := rfl
@[simp] theorem State.setMem_time : (s.setMem p v).time = s.time := rfl
@[simp] theorem State.setMem_start : (s.setMem p v).start = s.start := rfl
@[simp] theorem State.setMem_power : (s.setMem p v).power = s.power := rfl
@[simp] theorem State.setMem_points : (s.setMem p v).points = s.points := rfl
@[simp] theorem State.setMem_mgmt : (s.setMem p v).mgmt = s.mgmt := rfl
@[simp] theorem State.setMem_tap : (s.setMem p v).tap = s.tap := rfl
@[simp] theorem State.setMem_nvm : (s.setMem p v).nvm = s.nvm := rfl
@[simp] theorem State.setMem_links : (s.setMem p v).links = s.links := rfl
@[simp] theorem State.setMem_trunk : (s.setMem p v).trunk = s.trunk := rfl
@[simp] theorem State.setMem_ports : (s.setMem p v).ports = s.ports := rfl
@[simp] theorem State.setMem_rings : (s.setMem p v).rings = s.rings := rfl
@[simp] theorem State.setMem_groves : (s.setMem p v).groves = s.groves := rfl
@[simp] theorem State.setMem_cores : (s.setMem p v).cores = s.cores := rfl
@[simp] theorem State.setMem_threads : (s.setMem p v).threads = s.threads := rfl
@[simp] theorem State.setMem_stalls : (s.setMem p v).stalls = s.stalls := rfl
@[simp] theorem State.setMem_beats : (s.setMem p v).beats = s.beats := rfl
@[simp] theorem State.setMem_lookup : (s.setMem p v).lookup = s.lookup := rfl
@[simp] theorem State.setMem_memRet : (s.setMem p v).memRet = s.memRet := rfl
@[simp] theorem State.setMem_recd : (s.setMem p v).recd = s.recd := rfl
end

/-! ## modMem -/

section
variable (s : State) (p : Nat) (f : MPort → MPort)
@[simp] theorem State.modMem_pending : (s.modMem p f).pending = s.pending := rfl
@[simp] theorem State.modMem_ties : (s.modMem p f).ties = s.ties := rfl
@[simp] theorem State.modMem_hw : (s.modMem p f).hw = s.hw := rfl
@[simp] theorem State.modMem_freeCtr : (s.modMem p f).freeCtr = s.freeCtr := rfl
@[simp] theorem State.modMem_regs : (s.modMem p f).regs = s.regs := rfl
@[simp] theorem State.modMem_tregs : (s.modMem p f).tregs = s.tregs := rfl
@[simp] theorem State.modMem_stag : (s.modMem p f).stag = s.stag := rfl
@[simp] theorem State.modMem_ctrs : (s.modMem p f).ctrs = s.ctrs := rfl
@[simp] theorem State.modMem_snap : (s.modMem p f).snap = s.snap := rfl
@[simp] theorem State.modMem_time : (s.modMem p f).time = s.time := rfl
@[simp] theorem State.modMem_start : (s.modMem p f).start = s.start := rfl
@[simp] theorem State.modMem_power : (s.modMem p f).power = s.power := rfl
@[simp] theorem State.modMem_points : (s.modMem p f).points = s.points := rfl
@[simp] theorem State.modMem_mgmt : (s.modMem p f).mgmt = s.mgmt := rfl
@[simp] theorem State.modMem_tap : (s.modMem p f).tap = s.tap := rfl
@[simp] theorem State.modMem_nvm : (s.modMem p f).nvm = s.nvm := rfl
@[simp] theorem State.modMem_links : (s.modMem p f).links = s.links := rfl
@[simp] theorem State.modMem_trunk : (s.modMem p f).trunk = s.trunk := rfl
@[simp] theorem State.modMem_ports : (s.modMem p f).ports = s.ports := rfl
@[simp] theorem State.modMem_rings : (s.modMem p f).rings = s.rings := rfl
@[simp] theorem State.modMem_groves : (s.modMem p f).groves = s.groves := rfl
@[simp] theorem State.modMem_cores : (s.modMem p f).cores = s.cores := rfl
@[simp] theorem State.modMem_threads : (s.modMem p f).threads = s.threads := rfl
@[simp] theorem State.modMem_stalls : (s.modMem p f).stalls = s.stalls := rfl
@[simp] theorem State.modMem_beats : (s.modMem p f).beats = s.beats := rfl
@[simp] theorem State.modMem_lookup : (s.modMem p f).lookup = s.lookup := rfl
@[simp] theorem State.modMem_memRet : (s.modMem p f).memRet = s.memRet := rfl
@[simp] theorem State.modMem_recd : (s.modMem p f).recd = s.recd := rfl
end

/-! ## setIsl -/

section
variable (s : State) (i : Nat) (v : Island)
@[simp] theorem State.setIsl_pending : (s.setIsl i v).pending = s.pending := rfl
@[simp] theorem State.setIsl_ties : (s.setIsl i v).ties = s.ties := rfl
@[simp] theorem State.setIsl_hw : (s.setIsl i v).hw = s.hw := rfl
@[simp] theorem State.setIsl_freeCtr : (s.setIsl i v).freeCtr = s.freeCtr := rfl
@[simp] theorem State.setIsl_regs : (s.setIsl i v).regs = s.regs := rfl
@[simp] theorem State.setIsl_tregs : (s.setIsl i v).tregs = s.tregs := rfl
@[simp] theorem State.setIsl_stag : (s.setIsl i v).stag = s.stag := rfl
@[simp] theorem State.setIsl_ctrs : (s.setIsl i v).ctrs = s.ctrs := rfl
@[simp] theorem State.setIsl_snap : (s.setIsl i v).snap = s.snap := rfl
@[simp] theorem State.setIsl_time : (s.setIsl i v).time = s.time := rfl
@[simp] theorem State.setIsl_start : (s.setIsl i v).start = s.start := rfl
@[simp] theorem State.setIsl_points : (s.setIsl i v).points = s.points := rfl
@[simp] theorem State.setIsl_mgmt : (s.setIsl i v).mgmt = s.mgmt := rfl
@[simp] theorem State.setIsl_tap : (s.setIsl i v).tap = s.tap := rfl
@[simp] theorem State.setIsl_nvm : (s.setIsl i v).nvm = s.nvm := rfl
@[simp] theorem State.setIsl_links : (s.setIsl i v).links = s.links := rfl
@[simp] theorem State.setIsl_trunk : (s.setIsl i v).trunk = s.trunk := rfl
@[simp] theorem State.setIsl_ports : (s.setIsl i v).ports = s.ports := rfl
@[simp] theorem State.setIsl_rings : (s.setIsl i v).rings = s.rings := rfl
@[simp] theorem State.setIsl_groves : (s.setIsl i v).groves = s.groves := rfl
@[simp] theorem State.setIsl_cores : (s.setIsl i v).cores = s.cores := rfl
@[simp] theorem State.setIsl_threads : (s.setIsl i v).threads = s.threads := rfl
@[simp] theorem State.setIsl_stalls : (s.setIsl i v).stalls = s.stalls := rfl
@[simp] theorem State.setIsl_beats : (s.setIsl i v).beats = s.beats := rfl
@[simp] theorem State.setIsl_lookup : (s.setIsl i v).lookup = s.lookup := rfl
@[simp] theorem State.setIsl_mems : (s.setIsl i v).mems = s.mems := rfl
@[simp] theorem State.setIsl_memRet : (s.setIsl i v).memRet = s.memRet := rfl
@[simp] theorem State.setIsl_recd : (s.setIsl i v).recd = s.recd := rfl
end

/-! ## setPoint -/

section
variable (s : State) (g : Nat) (v : Point)
@[simp] theorem State.setPoint_pending : (s.setPoint g v).pending = s.pending := rfl
@[simp] theorem State.setPoint_ties : (s.setPoint g v).ties = s.ties := rfl
@[simp] theorem State.setPoint_hw : (s.setPoint g v).hw = s.hw := rfl
@[simp] theorem State.setPoint_freeCtr : (s.setPoint g v).freeCtr = s.freeCtr := rfl
@[simp] theorem State.setPoint_regs : (s.setPoint g v).regs = s.regs := rfl
@[simp] theorem State.setPoint_tregs : (s.setPoint g v).tregs = s.tregs := rfl
@[simp] theorem State.setPoint_stag : (s.setPoint g v).stag = s.stag := rfl
@[simp] theorem State.setPoint_ctrs : (s.setPoint g v).ctrs = s.ctrs := rfl
@[simp] theorem State.setPoint_snap : (s.setPoint g v).snap = s.snap := rfl
@[simp] theorem State.setPoint_time : (s.setPoint g v).time = s.time := rfl
@[simp] theorem State.setPoint_start : (s.setPoint g v).start = s.start := rfl
@[simp] theorem State.setPoint_power : (s.setPoint g v).power = s.power := rfl
@[simp] theorem State.setPoint_mgmt : (s.setPoint g v).mgmt = s.mgmt := rfl
@[simp] theorem State.setPoint_tap : (s.setPoint g v).tap = s.tap := rfl
@[simp] theorem State.setPoint_nvm : (s.setPoint g v).nvm = s.nvm := rfl
@[simp] theorem State.setPoint_links : (s.setPoint g v).links = s.links := rfl
@[simp] theorem State.setPoint_trunk : (s.setPoint g v).trunk = s.trunk := rfl
@[simp] theorem State.setPoint_ports : (s.setPoint g v).ports = s.ports := rfl
@[simp] theorem State.setPoint_rings : (s.setPoint g v).rings = s.rings := rfl
@[simp] theorem State.setPoint_groves : (s.setPoint g v).groves = s.groves := rfl
@[simp] theorem State.setPoint_cores : (s.setPoint g v).cores = s.cores := rfl
@[simp] theorem State.setPoint_threads : (s.setPoint g v).threads = s.threads := rfl
@[simp] theorem State.setPoint_stalls : (s.setPoint g v).stalls = s.stalls := rfl
@[simp] theorem State.setPoint_beats : (s.setPoint g v).beats = s.beats := rfl
@[simp] theorem State.setPoint_lookup : (s.setPoint g v).lookup = s.lookup := rfl
@[simp] theorem State.setPoint_mems : (s.setPoint g v).mems = s.mems := rfl
@[simp] theorem State.setPoint_memRet : (s.setPoint g v).memRet = s.memRet := rfl
@[simp] theorem State.setPoint_recd : (s.setPoint g v).recd = s.recd := rfl
end

/-! ## push -/

section
variable (s : State) (k : Nat) (m : Message)
@[simp] theorem State.push_pending : (s.push k m).pending = s.pending := rfl
@[simp] theorem State.push_ties : (s.push k m).ties = s.ties := rfl
@[simp] theorem State.push_hw : (s.push k m).hw = s.hw := rfl
@[simp] theorem State.push_freeCtr : (s.push k m).freeCtr = s.freeCtr := rfl
@[simp] theorem State.push_regs : (s.push k m).regs = s.regs := rfl
@[simp] theorem State.push_tregs : (s.push k m).tregs = s.tregs := rfl
@[simp] theorem State.push_stag : (s.push k m).stag = s.stag := rfl
@[simp] theorem State.push_ctrs : (s.push k m).ctrs = s.ctrs := rfl
@[simp] theorem State.push_snap : (s.push k m).snap = s.snap := rfl
@[simp] theorem State.push_time : (s.push k m).time = s.time := rfl
@[simp] theorem State.push_start : (s.push k m).start = s.start := rfl
@[simp] theorem State.push_power : (s.push k m).power = s.power := rfl
@[simp] theorem State.push_points : (s.push k m).points = s.points := rfl
@[simp] theorem State.push_mgmt : (s.push k m).mgmt = s.mgmt := rfl
@[simp] theorem State.push_tap : (s.push k m).tap = s.tap := rfl
@[simp] theorem State.push_nvm : (s.push k m).nvm = s.nvm := rfl
@[simp] theorem State.push_trunk : (s.push k m).trunk = s.trunk := rfl
@[simp] theorem State.push_ports : (s.push k m).ports = s.ports := rfl
@[simp] theorem State.push_rings : (s.push k m).rings = s.rings := rfl
@[simp] theorem State.push_groves : (s.push k m).groves = s.groves := rfl
@[simp] theorem State.push_cores : (s.push k m).cores = s.cores := rfl
@[simp] theorem State.push_threads : (s.push k m).threads = s.threads := rfl
@[simp] theorem State.push_stalls : (s.push k m).stalls = s.stalls := rfl
@[simp] theorem State.push_beats : (s.push k m).beats = s.beats := rfl
@[simp] theorem State.push_lookup : (s.push k m).lookup = s.lookup := rfl
@[simp] theorem State.push_mems : (s.push k m).mems = s.mems := rfl
@[simp] theorem State.push_memRet : (s.push k m).memRet = s.memRet := rfl
@[simp] theorem State.push_recd : (s.push k m).recd = s.recd := rfl
end

/-! ## popLink -/

section
variable (s : State) (k : Nat)
@[simp] theorem State.popLink_pending : (s.popLink k).pending = s.pending := by
  unfold State.popLink; dsimp only; split <;> rfl
@[simp] theorem State.popLink_ties : (s.popLink k).ties = s.ties := by
  unfold State.popLink; dsimp only; split <;> rfl
@[simp] theorem State.popLink_hw : (s.popLink k).hw = s.hw := by
  unfold State.popLink; dsimp only; split <;> rfl
@[simp] theorem State.popLink_freeCtr : (s.popLink k).freeCtr = s.freeCtr := by
  unfold State.popLink; dsimp only; split <;> rfl
@[simp] theorem State.popLink_regs : (s.popLink k).regs = s.regs := by
  unfold State.popLink; dsimp only; split <;> rfl
@[simp] theorem State.popLink_tregs : (s.popLink k).tregs = s.tregs := by
  unfold State.popLink; dsimp only; split <;> rfl
@[simp] theorem State.popLink_stag : (s.popLink k).stag = s.stag := by
  unfold State.popLink; dsimp only; split <;> rfl
@[simp] theorem State.popLink_ctrs : (s.popLink k).ctrs = s.ctrs := by
  unfold State.popLink; dsimp only; split <;> rfl
@[simp] theorem State.popLink_snap : (s.popLink k).snap = s.snap := by
  unfold State.popLink; dsimp only; split <;> rfl
@[simp] theorem State.popLink_time : (s.popLink k).time = s.time := by
  unfold State.popLink; dsimp only; split <;> rfl
@[simp] theorem State.popLink_start : (s.popLink k).start = s.start := by
  unfold State.popLink; dsimp only; split <;> rfl
@[simp] theorem State.popLink_power : (s.popLink k).power = s.power := by
  unfold State.popLink; dsimp only; split <;> rfl
@[simp] theorem State.popLink_points : (s.popLink k).points = s.points := by
  unfold State.popLink; dsimp only; split <;> rfl
@[simp] theorem State.popLink_mgmt : (s.popLink k).mgmt = s.mgmt := by
  unfold State.popLink; dsimp only; split <;> rfl
@[simp] theorem State.popLink_tap : (s.popLink k).tap = s.tap := by
  unfold State.popLink; dsimp only; split <;> rfl
@[simp] theorem State.popLink_nvm : (s.popLink k).nvm = s.nvm := by
  unfold State.popLink; dsimp only; split <;> rfl
@[simp] theorem State.popLink_trunk : (s.popLink k).trunk = s.trunk := by
  unfold State.popLink; dsimp only; split <;> rfl
@[simp] theorem State.popLink_ports : (s.popLink k).ports = s.ports := by
  unfold State.popLink; dsimp only; split <;> rfl
@[simp] theorem State.popLink_rings : (s.popLink k).rings = s.rings := by
  unfold State.popLink; dsimp only; split <;> rfl
@[simp] theorem State.popLink_groves : (s.popLink k).groves = s.groves := by
  unfold State.popLink; dsimp only; split <;> rfl
@[simp] theorem State.popLink_cores : (s.popLink k).cores = s.cores := by
  unfold State.popLink; dsimp only; split <;> rfl
@[simp] theorem State.popLink_threads : (s.popLink k).threads = s.threads := by
  unfold State.popLink; dsimp only; split <;> rfl
@[simp] theorem State.popLink_stalls : (s.popLink k).stalls = s.stalls := by
  unfold State.popLink; dsimp only; split <;> rfl
@[simp] theorem State.popLink_beats : (s.popLink k).beats = s.beats := by
  unfold State.popLink; dsimp only; split <;> rfl
@[simp] theorem State.popLink_lookup : (s.popLink k).lookup = s.lookup := by
  unfold State.popLink; dsimp only; split <;> rfl
@[simp] theorem State.popLink_mems : (s.popLink k).mems = s.mems := by
  unfold State.popLink; dsimp only; split <;> rfl
@[simp] theorem State.popLink_memRet : (s.popLink k).memRet = s.memRet := by
  unfold State.popLink; dsimp only; split <;> rfl
@[simp] theorem State.popLink_recd : (s.popLink k).recd = s.recd := by
  unfold State.popLink; dsimp only; split <;> rfl
end

/-! ## modTrunk -/

section
variable (s : State) (f : Trunk → Trunk)
@[simp] theorem State.modTrunk_pending : (s.modTrunk f).pending = s.pending := rfl
@[simp] theorem State.modTrunk_ties : (s.modTrunk f).ties = s.ties := rfl
@[simp] theorem State.modTrunk_hw : (s.modTrunk f).hw = s.hw := rfl
@[simp] theorem State.modTrunk_freeCtr : (s.modTrunk f).freeCtr = s.freeCtr := rfl
@[simp] theorem State.modTrunk_regs : (s.modTrunk f).regs = s.regs := rfl
@[simp] theorem State.modTrunk_tregs : (s.modTrunk f).tregs = s.tregs := rfl
@[simp] theorem State.modTrunk_stag : (s.modTrunk f).stag = s.stag := rfl
@[simp] theorem State.modTrunk_ctrs : (s.modTrunk f).ctrs = s.ctrs := rfl
@[simp] theorem State.modTrunk_snap : (s.modTrunk f).snap = s.snap := rfl
@[simp] theorem State.modTrunk_time : (s.modTrunk f).time = s.time := rfl
@[simp] theorem State.modTrunk_start : (s.modTrunk f).start = s.start := rfl
@[simp] theorem State.modTrunk_power : (s.modTrunk f).power = s.power := rfl
@[simp] theorem State.modTrunk_points : (s.modTrunk f).points = s.points := rfl
@[simp] theorem State.modTrunk_mgmt : (s.modTrunk f).mgmt = s.mgmt := rfl
@[simp] theorem State.modTrunk_tap : (s.modTrunk f).tap = s.tap := rfl
@[simp] theorem State.modTrunk_nvm : (s.modTrunk f).nvm = s.nvm := rfl
@[simp] theorem State.modTrunk_links : (s.modTrunk f).links = s.links := rfl
@[simp] theorem State.modTrunk_ports : (s.modTrunk f).ports = s.ports := rfl
@[simp] theorem State.modTrunk_rings : (s.modTrunk f).rings = s.rings := rfl
@[simp] theorem State.modTrunk_groves : (s.modTrunk f).groves = s.groves := rfl
@[simp] theorem State.modTrunk_cores : (s.modTrunk f).cores = s.cores := rfl
@[simp] theorem State.modTrunk_threads : (s.modTrunk f).threads = s.threads := rfl
@[simp] theorem State.modTrunk_stalls : (s.modTrunk f).stalls = s.stalls := rfl
@[simp] theorem State.modTrunk_beats : (s.modTrunk f).beats = s.beats := rfl
@[simp] theorem State.modTrunk_lookup : (s.modTrunk f).lookup = s.lookup := rfl
@[simp] theorem State.modTrunk_mems : (s.modTrunk f).mems = s.mems := rfl
@[simp] theorem State.modTrunk_memRet : (s.modTrunk f).memRet = s.memRet := rfl
@[simp] theorem State.modTrunk_recd : (s.modTrunk f).recd = s.recd := rfl
end

/-! ## modTime -/

section
variable (s : State) (f : Time → Time)
@[simp] theorem State.modTime_pending : (s.modTime f).pending = s.pending := rfl
@[simp] theorem State.modTime_ties : (s.modTime f).ties = s.ties := rfl
@[simp] theorem State.modTime_hw : (s.modTime f).hw = s.hw := rfl
@[simp] theorem State.modTime_freeCtr : (s.modTime f).freeCtr = s.freeCtr := rfl
@[simp] theorem State.modTime_regs : (s.modTime f).regs = s.regs := rfl
@[simp] theorem State.modTime_tregs : (s.modTime f).tregs = s.tregs := rfl
@[simp] theorem State.modTime_stag : (s.modTime f).stag = s.stag := rfl
@[simp] theorem State.modTime_ctrs : (s.modTime f).ctrs = s.ctrs := rfl
@[simp] theorem State.modTime_snap : (s.modTime f).snap = s.snap := rfl
@[simp] theorem State.modTime_start : (s.modTime f).start = s.start := rfl
@[simp] theorem State.modTime_power : (s.modTime f).power = s.power := rfl
@[simp] theorem State.modTime_points : (s.modTime f).points = s.points := rfl
@[simp] theorem State.modTime_mgmt : (s.modTime f).mgmt = s.mgmt := rfl
@[simp] theorem State.modTime_tap : (s.modTime f).tap = s.tap := rfl
@[simp] theorem State.modTime_nvm : (s.modTime f).nvm = s.nvm := rfl
@[simp] theorem State.modTime_links : (s.modTime f).links = s.links := rfl
@[simp] theorem State.modTime_trunk : (s.modTime f).trunk = s.trunk := rfl
@[simp] theorem State.modTime_ports : (s.modTime f).ports = s.ports := rfl
@[simp] theorem State.modTime_rings : (s.modTime f).rings = s.rings := rfl
@[simp] theorem State.modTime_groves : (s.modTime f).groves = s.groves := rfl
@[simp] theorem State.modTime_cores : (s.modTime f).cores = s.cores := rfl
@[simp] theorem State.modTime_threads : (s.modTime f).threads = s.threads := rfl
@[simp] theorem State.modTime_stalls : (s.modTime f).stalls = s.stalls := rfl
@[simp] theorem State.modTime_beats : (s.modTime f).beats = s.beats := rfl
@[simp] theorem State.modTime_lookup : (s.modTime f).lookup = s.lookup := rfl
@[simp] theorem State.modTime_mems : (s.modTime f).mems = s.mems := rfl
@[simp] theorem State.modTime_memRet : (s.modTime f).memRet = s.memRet := rfl
@[simp] theorem State.modTime_recd : (s.modTime f).recd = s.recd := rfl
end

/-! ## modLookup -/

section
variable (s : State) (f : Lookup → Lookup)
@[simp] theorem State.modLookup_pending : (s.modLookup f).pending = s.pending := rfl
@[simp] theorem State.modLookup_ties : (s.modLookup f).ties = s.ties := rfl
@[simp] theorem State.modLookup_hw : (s.modLookup f).hw = s.hw := rfl
@[simp] theorem State.modLookup_freeCtr : (s.modLookup f).freeCtr = s.freeCtr := rfl
@[simp] theorem State.modLookup_regs : (s.modLookup f).regs = s.regs := rfl
@[simp] theorem State.modLookup_tregs : (s.modLookup f).tregs = s.tregs := rfl
@[simp] theorem State.modLookup_stag : (s.modLookup f).stag = s.stag := rfl
@[simp] theorem State.modLookup_ctrs : (s.modLookup f).ctrs = s.ctrs := rfl
@[simp] theorem State.modLookup_snap : (s.modLookup f).snap = s.snap := rfl
@[simp] theorem State.modLookup_time : (s.modLookup f).time = s.time := rfl
@[simp] theorem State.modLookup_start : (s.modLookup f).start = s.start := rfl
@[simp] theorem State.modLookup_power : (s.modLookup f).power = s.power := rfl
@[simp] theorem State.modLookup_points : (s.modLookup f).points = s.points := rfl
@[simp] theorem State.modLookup_mgmt : (s.modLookup f).mgmt = s.mgmt := rfl
@[simp] theorem State.modLookup_tap : (s.modLookup f).tap = s.tap := rfl
@[simp] theorem State.modLookup_nvm : (s.modLookup f).nvm = s.nvm := rfl
@[simp] theorem State.modLookup_links : (s.modLookup f).links = s.links := rfl
@[simp] theorem State.modLookup_trunk : (s.modLookup f).trunk = s.trunk := rfl
@[simp] theorem State.modLookup_ports : (s.modLookup f).ports = s.ports := rfl
@[simp] theorem State.modLookup_rings : (s.modLookup f).rings = s.rings := rfl
@[simp] theorem State.modLookup_groves : (s.modLookup f).groves = s.groves := rfl
@[simp] theorem State.modLookup_cores : (s.modLookup f).cores = s.cores := rfl
@[simp] theorem State.modLookup_threads : (s.modLookup f).threads = s.threads := rfl
@[simp] theorem State.modLookup_stalls : (s.modLookup f).stalls = s.stalls := rfl
@[simp] theorem State.modLookup_beats : (s.modLookup f).beats = s.beats := rfl
@[simp] theorem State.modLookup_mems : (s.modLookup f).mems = s.mems := rfl
@[simp] theorem State.modLookup_memRet : (s.modLookup f).memRet = s.memRet := rfl
@[simp] theorem State.modLookup_recd : (s.modLookup f).recd = s.recd := rfl
end

/-! ## modRec -/

section
variable (s : State) (f : Recorder → Recorder)
@[simp] theorem State.modRec_pending : (s.modRec f).pending = s.pending := rfl
@[simp] theorem State.modRec_ties : (s.modRec f).ties = s.ties := rfl
@[simp] theorem State.modRec_hw : (s.modRec f).hw = s.hw := rfl
@[simp] theorem State.modRec_freeCtr : (s.modRec f).freeCtr = s.freeCtr := rfl
@[simp] theorem State.modRec_regs : (s.modRec f).regs = s.regs := rfl
@[simp] theorem State.modRec_tregs : (s.modRec f).tregs = s.tregs := rfl
@[simp] theorem State.modRec_stag : (s.modRec f).stag = s.stag := rfl
@[simp] theorem State.modRec_ctrs : (s.modRec f).ctrs = s.ctrs := rfl
@[simp] theorem State.modRec_snap : (s.modRec f).snap = s.snap := rfl
@[simp] theorem State.modRec_time : (s.modRec f).time = s.time := rfl
@[simp] theorem State.modRec_start : (s.modRec f).start = s.start := rfl
@[simp] theorem State.modRec_power : (s.modRec f).power = s.power := rfl
@[simp] theorem State.modRec_points : (s.modRec f).points = s.points := rfl
@[simp] theorem State.modRec_mgmt : (s.modRec f).mgmt = s.mgmt := rfl
@[simp] theorem State.modRec_tap : (s.modRec f).tap = s.tap := rfl
@[simp] theorem State.modRec_nvm : (s.modRec f).nvm = s.nvm := rfl
@[simp] theorem State.modRec_links : (s.modRec f).links = s.links := rfl
@[simp] theorem State.modRec_trunk : (s.modRec f).trunk = s.trunk := rfl
@[simp] theorem State.modRec_ports : (s.modRec f).ports = s.ports := rfl
@[simp] theorem State.modRec_rings : (s.modRec f).rings = s.rings := rfl
@[simp] theorem State.modRec_groves : (s.modRec f).groves = s.groves := rfl
@[simp] theorem State.modRec_cores : (s.modRec f).cores = s.cores := rfl
@[simp] theorem State.modRec_threads : (s.modRec f).threads = s.threads := rfl
@[simp] theorem State.modRec_stalls : (s.modRec f).stalls = s.stalls := rfl
@[simp] theorem State.modRec_beats : (s.modRec f).beats = s.beats := rfl
@[simp] theorem State.modRec_lookup : (s.modRec f).lookup = s.lookup := rfl
@[simp] theorem State.modRec_mems : (s.modRec f).mems = s.mems := rfl
@[simp] theorem State.modRec_memRet : (s.modRec f).memRet = s.memRet := rfl
end

/-! ## modStart -/

section
variable (s : State) (f : Start → Start)
@[simp] theorem State.modStart_pending : (s.modStart f).pending = s.pending := rfl
@[simp] theorem State.modStart_ties : (s.modStart f).ties = s.ties := rfl
@[simp] theorem State.modStart_hw : (s.modStart f).hw = s.hw := rfl
@[simp] theorem State.modStart_freeCtr : (s.modStart f).freeCtr = s.freeCtr := rfl
@[simp] theorem State.modStart_regs : (s.modStart f).regs = s.regs := rfl
@[simp] theorem State.modStart_tregs : (s.modStart f).tregs = s.tregs := rfl
@[simp] theorem State.modStart_stag : (s.modStart f).stag = s.stag := rfl
@[simp] theorem State.modStart_ctrs : (s.modStart f).ctrs = s.ctrs := rfl
@[simp] theorem State.modStart_snap : (s.modStart f).snap = s.snap := rfl
@[simp] theorem State.modStart_time : (s.modStart f).time = s.time := rfl
@[simp] theorem State.modStart_power : (s.modStart f).power = s.power := rfl
@[simp] theorem State.modStart_points : (s.modStart f).points = s.points := rfl
@[simp] theorem State.modStart_mgmt : (s.modStart f).mgmt = s.mgmt := rfl
@[simp] theorem State.modStart_tap : (s.modStart f).tap = s.tap := rfl
@[simp] theorem State.modStart_nvm : (s.modStart f).nvm = s.nvm := rfl
@[simp] theorem State.modStart_links : (s.modStart f).links = s.links := rfl
@[simp] theorem State.modStart_trunk : (s.modStart f).trunk = s.trunk := rfl
@[simp] theorem State.modStart_ports : (s.modStart f).ports = s.ports := rfl
@[simp] theorem State.modStart_rings : (s.modStart f).rings = s.rings := rfl
@[simp] theorem State.modStart_groves : (s.modStart f).groves = s.groves := rfl
@[simp] theorem State.modStart_cores : (s.modStart f).cores = s.cores := rfl
@[simp] theorem State.modStart_threads : (s.modStart f).threads = s.threads := rfl
@[simp] theorem State.modStart_stalls : (s.modStart f).stalls = s.stalls := rfl
@[simp] theorem State.modStart_beats : (s.modStart f).beats = s.beats := rfl
@[simp] theorem State.modStart_lookup : (s.modStart f).lookup = s.lookup := rfl
@[simp] theorem State.modStart_mems : (s.modStart f).mems = s.mems := rfl
@[simp] theorem State.modStart_memRet : (s.modStart f).memRet = s.memRet := rfl
@[simp] theorem State.modStart_recd : (s.modStart f).recd = s.recd := rfl
end

/-! ## setRdata -/

section
variable (s : State) (d : BitVec 32)
@[simp] theorem State.setRdata_pending : (s.setRdata d).pending = s.pending := rfl
@[simp] theorem State.setRdata_ties : (s.setRdata d).ties = s.ties := rfl
@[simp] theorem State.setRdata_hw : (s.setRdata d).hw = s.hw := rfl
@[simp] theorem State.setRdata_freeCtr : (s.setRdata d).freeCtr = s.freeCtr := rfl
@[simp] theorem State.setRdata_regs : (s.setRdata d).regs = s.regs := rfl
@[simp] theorem State.setRdata_tregs : (s.setRdata d).tregs = s.tregs := rfl
@[simp] theorem State.setRdata_stag : (s.setRdata d).stag = s.stag := rfl
@[simp] theorem State.setRdata_ctrs : (s.setRdata d).ctrs = s.ctrs := rfl
@[simp] theorem State.setRdata_snap : (s.setRdata d).snap = s.snap := rfl
@[simp] theorem State.setRdata_time : (s.setRdata d).time = s.time := rfl
@[simp] theorem State.setRdata_start : (s.setRdata d).start = s.start := rfl
@[simp] theorem State.setRdata_power : (s.setRdata d).power = s.power := rfl
@[simp] theorem State.setRdata_points : (s.setRdata d).points = s.points := rfl
@[simp] theorem State.setRdata_tap : (s.setRdata d).tap = s.tap := rfl
@[simp] theorem State.setRdata_nvm : (s.setRdata d).nvm = s.nvm := rfl
@[simp] theorem State.setRdata_links : (s.setRdata d).links = s.links := rfl
@[simp] theorem State.setRdata_trunk : (s.setRdata d).trunk = s.trunk := rfl
@[simp] theorem State.setRdata_ports : (s.setRdata d).ports = s.ports := rfl
@[simp] theorem State.setRdata_rings : (s.setRdata d).rings = s.rings := rfl
@[simp] theorem State.setRdata_groves : (s.setRdata d).groves = s.groves := rfl
@[simp] theorem State.setRdata_cores : (s.setRdata d).cores = s.cores := rfl
@[simp] theorem State.setRdata_threads : (s.setRdata d).threads = s.threads := rfl
@[simp] theorem State.setRdata_stalls : (s.setRdata d).stalls = s.stalls := rfl
@[simp] theorem State.setRdata_beats : (s.setRdata d).beats = s.beats := rfl
@[simp] theorem State.setRdata_lookup : (s.setRdata d).lookup = s.lookup := rfl
@[simp] theorem State.setRdata_mems : (s.setRdata d).mems = s.mems := rfl
@[simp] theorem State.setRdata_memRet : (s.setRdata d).memRet = s.memRet := rfl
@[simp] theorem State.setRdata_recd : (s.setRdata d).recd = s.recd := rfl
end

/-! ## setEng -/

section
variable (s : State) (p e : Nat) (v : Engine)
@[simp] theorem State.setEng_pending : (s.setEng p e v).pending = s.pending := rfl
@[simp] theorem State.setEng_ties : (s.setEng p e v).ties = s.ties := rfl
@[simp] theorem State.setEng_hw : (s.setEng p e v).hw = s.hw := rfl
@[simp] theorem State.setEng_freeCtr : (s.setEng p e v).freeCtr = s.freeCtr := rfl
@[simp] theorem State.setEng_regs : (s.setEng p e v).regs = s.regs := rfl
@[simp] theorem State.setEng_tregs : (s.setEng p e v).tregs = s.tregs := rfl
@[simp] theorem State.setEng_stag : (s.setEng p e v).stag = s.stag := rfl
@[simp] theorem State.setEng_ctrs : (s.setEng p e v).ctrs = s.ctrs := rfl
@[simp] theorem State.setEng_snap : (s.setEng p e v).snap = s.snap := rfl
@[simp] theorem State.setEng_time : (s.setEng p e v).time = s.time := rfl
@[simp] theorem State.setEng_start : (s.setEng p e v).start = s.start := rfl
@[simp] theorem State.setEng_power : (s.setEng p e v).power = s.power := rfl
@[simp] theorem State.setEng_points : (s.setEng p e v).points = s.points := rfl
@[simp] theorem State.setEng_mgmt : (s.setEng p e v).mgmt = s.mgmt := rfl
@[simp] theorem State.setEng_tap : (s.setEng p e v).tap = s.tap := rfl
@[simp] theorem State.setEng_nvm : (s.setEng p e v).nvm = s.nvm := rfl
@[simp] theorem State.setEng_links : (s.setEng p e v).links = s.links := rfl
@[simp] theorem State.setEng_trunk : (s.setEng p e v).trunk = s.trunk := rfl
@[simp] theorem State.setEng_rings : (s.setEng p e v).rings = s.rings := rfl
@[simp] theorem State.setEng_groves : (s.setEng p e v).groves = s.groves := rfl
@[simp] theorem State.setEng_cores : (s.setEng p e v).cores = s.cores := rfl
@[simp] theorem State.setEng_threads : (s.setEng p e v).threads = s.threads := rfl
@[simp] theorem State.setEng_stalls : (s.setEng p e v).stalls = s.stalls := rfl
@[simp] theorem State.setEng_beats : (s.setEng p e v).beats = s.beats := rfl
@[simp] theorem State.setEng_lookup : (s.setEng p e v).lookup = s.lookup := rfl
@[simp] theorem State.setEng_mems : (s.setEng p e v).mems = s.mems := rfl
@[simp] theorem State.setEng_memRet : (s.setEng p e v).memRet = s.memRet := rfl
@[simp] theorem State.setEng_recd : (s.setEng p e v).recd = s.recd := rfl
end

/-! ## modEng -/

section
variable (s : State) (p e : Nat) (f : Engine → Engine)
@[simp] theorem State.modEng_pending : (s.modEng p e f).pending = s.pending := rfl
@[simp] theorem State.modEng_ties : (s.modEng p e f).ties = s.ties := rfl
@[simp] theorem State.modEng_hw : (s.modEng p e f).hw = s.hw := rfl
@[simp] theorem State.modEng_freeCtr : (s.modEng p e f).freeCtr = s.freeCtr := rfl
@[simp] theorem State.modEng_regs : (s.modEng p e f).regs = s.regs := rfl
@[simp] theorem State.modEng_tregs : (s.modEng p e f).tregs = s.tregs := rfl
@[simp] theorem State.modEng_stag : (s.modEng p e f).stag = s.stag := rfl
@[simp] theorem State.modEng_ctrs : (s.modEng p e f).ctrs = s.ctrs := rfl
@[simp] theorem State.modEng_snap : (s.modEng p e f).snap = s.snap := rfl
@[simp] theorem State.modEng_time : (s.modEng p e f).time = s.time := rfl
@[simp] theorem State.modEng_start : (s.modEng p e f).start = s.start := rfl
@[simp] theorem State.modEng_power : (s.modEng p e f).power = s.power := rfl
@[simp] theorem State.modEng_points : (s.modEng p e f).points = s.points := rfl
@[simp] theorem State.modEng_mgmt : (s.modEng p e f).mgmt = s.mgmt := rfl
@[simp] theorem State.modEng_tap : (s.modEng p e f).tap = s.tap := rfl
@[simp] theorem State.modEng_nvm : (s.modEng p e f).nvm = s.nvm := rfl
@[simp] theorem State.modEng_links : (s.modEng p e f).links = s.links := rfl
@[simp] theorem State.modEng_trunk : (s.modEng p e f).trunk = s.trunk := rfl
@[simp] theorem State.modEng_rings : (s.modEng p e f).rings = s.rings := rfl
@[simp] theorem State.modEng_groves : (s.modEng p e f).groves = s.groves := rfl
@[simp] theorem State.modEng_cores : (s.modEng p e f).cores = s.cores := rfl
@[simp] theorem State.modEng_threads : (s.modEng p e f).threads = s.threads := rfl
@[simp] theorem State.modEng_stalls : (s.modEng p e f).stalls = s.stalls := rfl
@[simp] theorem State.modEng_beats : (s.modEng p e f).beats = s.beats := rfl
@[simp] theorem State.modEng_lookup : (s.modEng p e f).lookup = s.lookup := rfl
@[simp] theorem State.modEng_mems : (s.modEng p e f).mems = s.mems := rfl
@[simp] theorem State.modEng_memRet : (s.modEng p e f).memRet = s.memRet := rfl
@[simp] theorem State.modEng_recd : (s.modEng p e f).recd = s.recd := rfl
end

/-! ## setTimer -/

section
variable (s : State) (g k : Nat) (v : Timer)
@[simp] theorem State.setTimer_pending : (s.setTimer g k v).pending = s.pending := rfl
@[simp] theorem State.setTimer_ties : (s.setTimer g k v).ties = s.ties := rfl
@[simp] theorem State.setTimer_hw : (s.setTimer g k v).hw = s.hw := rfl
@[simp] theorem State.setTimer_freeCtr : (s.setTimer g k v).freeCtr = s.freeCtr := rfl
@[simp] theorem State.setTimer_regs : (s.setTimer g k v).regs = s.regs := rfl
@[simp] theorem State.setTimer_tregs : (s.setTimer g k v).tregs = s.tregs := rfl
@[simp] theorem State.setTimer_stag : (s.setTimer g k v).stag = s.stag := rfl
@[simp] theorem State.setTimer_ctrs : (s.setTimer g k v).ctrs = s.ctrs := rfl
@[simp] theorem State.setTimer_snap : (s.setTimer g k v).snap = s.snap := rfl
@[simp] theorem State.setTimer_time : (s.setTimer g k v).time = s.time := rfl
@[simp] theorem State.setTimer_start : (s.setTimer g k v).start = s.start := rfl
@[simp] theorem State.setTimer_power : (s.setTimer g k v).power = s.power := rfl
@[simp] theorem State.setTimer_points : (s.setTimer g k v).points = s.points := rfl
@[simp] theorem State.setTimer_mgmt : (s.setTimer g k v).mgmt = s.mgmt := rfl
@[simp] theorem State.setTimer_tap : (s.setTimer g k v).tap = s.tap := rfl
@[simp] theorem State.setTimer_nvm : (s.setTimer g k v).nvm = s.nvm := rfl
@[simp] theorem State.setTimer_links : (s.setTimer g k v).links = s.links := rfl
@[simp] theorem State.setTimer_trunk : (s.setTimer g k v).trunk = s.trunk := rfl
@[simp] theorem State.setTimer_ports : (s.setTimer g k v).ports = s.ports := rfl
@[simp] theorem State.setTimer_rings : (s.setTimer g k v).rings = s.rings := rfl
@[simp] theorem State.setTimer_cores : (s.setTimer g k v).cores = s.cores := rfl
@[simp] theorem State.setTimer_threads : (s.setTimer g k v).threads = s.threads := rfl
@[simp] theorem State.setTimer_stalls : (s.setTimer g k v).stalls = s.stalls := rfl
@[simp] theorem State.setTimer_beats : (s.setTimer g k v).beats = s.beats := rfl
@[simp] theorem State.setTimer_lookup : (s.setTimer g k v).lookup = s.lookup := rfl
@[simp] theorem State.setTimer_mems : (s.setTimer g k v).mems = s.mems := rfl
@[simp] theorem State.setTimer_memRet : (s.setTimer g k v).memRet = s.memRet := rfl
@[simp] theorem State.setTimer_recd : (s.setTimer g k v).recd = s.recd := rfl
end

/-! ## setDma -/

section
variable (s : State) (g k : Nat) (v : Dma)
@[simp] theorem State.setDma_pending : (s.setDma g k v).pending = s.pending := rfl
@[simp] theorem State.setDma_ties : (s.setDma g k v).ties = s.ties := rfl
@[simp] theorem State.setDma_hw : (s.setDma g k v).hw = s.hw := rfl
@[simp] theorem State.setDma_freeCtr : (s.setDma g k v).freeCtr = s.freeCtr := rfl
@[simp] theorem State.setDma_regs : (s.setDma g k v).regs = s.regs := rfl
@[simp] theorem State.setDma_tregs : (s.setDma g k v).tregs = s.tregs := rfl
@[simp] theorem State.setDma_stag : (s.setDma g k v).stag = s.stag := rfl
@[simp] theorem State.setDma_ctrs : (s.setDma g k v).ctrs = s.ctrs := rfl
@[simp] theorem State.setDma_snap : (s.setDma g k v).snap = s.snap := rfl
@[simp] theorem State.setDma_time : (s.setDma g k v).time = s.time := rfl
@[simp] theorem State.setDma_start : (s.setDma g k v).start = s.start := rfl
@[simp] theorem State.setDma_power : (s.setDma g k v).power = s.power := rfl
@[simp] theorem State.setDma_points : (s.setDma g k v).points = s.points := rfl
@[simp] theorem State.setDma_mgmt : (s.setDma g k v).mgmt = s.mgmt := rfl
@[simp] theorem State.setDma_tap : (s.setDma g k v).tap = s.tap := rfl
@[simp] theorem State.setDma_nvm : (s.setDma g k v).nvm = s.nvm := rfl
@[simp] theorem State.setDma_links : (s.setDma g k v).links = s.links := rfl
@[simp] theorem State.setDma_trunk : (s.setDma g k v).trunk = s.trunk := rfl
@[simp] theorem State.setDma_ports : (s.setDma g k v).ports = s.ports := rfl
@[simp] theorem State.setDma_rings : (s.setDma g k v).rings = s.rings := rfl
@[simp] theorem State.setDma_cores : (s.setDma g k v).cores = s.cores := rfl
@[simp] theorem State.setDma_threads : (s.setDma g k v).threads = s.threads := rfl
@[simp] theorem State.setDma_stalls : (s.setDma g k v).stalls = s.stalls := rfl
@[simp] theorem State.setDma_beats : (s.setDma g k v).beats = s.beats := rfl
@[simp] theorem State.setDma_lookup : (s.setDma g k v).lookup = s.lookup := rfl
@[simp] theorem State.setDma_mems : (s.setDma g k v).mems = s.mems := rfl
@[simp] theorem State.setDma_memRet : (s.setDma g k v).memRet = s.memRet := rfl
@[simp] theorem State.setDma_recd : (s.setDma g k v).recd = s.recd := rfl
end

/-! ## setLock -/

section
variable (s : State) (g u : Nat) (v : Lock)
@[simp] theorem State.setLock_pending : (s.setLock g u v).pending = s.pending := rfl
@[simp] theorem State.setLock_ties : (s.setLock g u v).ties = s.ties := rfl
@[simp] theorem State.setLock_hw : (s.setLock g u v).hw = s.hw := rfl
@[simp] theorem State.setLock_freeCtr : (s.setLock g u v).freeCtr = s.freeCtr := rfl
@[simp] theorem State.setLock_regs : (s.setLock g u v).regs = s.regs := rfl
@[simp] theorem State.setLock_tregs : (s.setLock g u v).tregs = s.tregs := rfl
@[simp] theorem State.setLock_stag : (s.setLock g u v).stag = s.stag := rfl
@[simp] theorem State.setLock_ctrs : (s.setLock g u v).ctrs = s.ctrs := rfl
@[simp] theorem State.setLock_snap : (s.setLock g u v).snap = s.snap := rfl
@[simp] theorem State.setLock_time : (s.setLock g u v).time = s.time := rfl
@[simp] theorem State.setLock_start : (s.setLock g u v).start = s.start := rfl
@[simp] theorem State.setLock_power : (s.setLock g u v).power = s.power := rfl
@[simp] theorem State.setLock_points : (s.setLock g u v).points = s.points := rfl
@[simp] theorem State.setLock_mgmt : (s.setLock g u v).mgmt = s.mgmt := rfl
@[simp] theorem State.setLock_tap : (s.setLock g u v).tap = s.tap := rfl
@[simp] theorem State.setLock_nvm : (s.setLock g u v).nvm = s.nvm := rfl
@[simp] theorem State.setLock_links : (s.setLock g u v).links = s.links := rfl
@[simp] theorem State.setLock_trunk : (s.setLock g u v).trunk = s.trunk := rfl
@[simp] theorem State.setLock_ports : (s.setLock g u v).ports = s.ports := rfl
@[simp] theorem State.setLock_rings : (s.setLock g u v).rings = s.rings := rfl
@[simp] theorem State.setLock_cores : (s.setLock g u v).cores = s.cores := rfl
@[simp] theorem State.setLock_threads : (s.setLock g u v).threads = s.threads := rfl
@[simp] theorem State.setLock_stalls : (s.setLock g u v).stalls = s.stalls := rfl
@[simp] theorem State.setLock_beats : (s.setLock g u v).beats = s.beats := rfl
@[simp] theorem State.setLock_lookup : (s.setLock g u v).lookup = s.lookup := rfl
@[simp] theorem State.setLock_mems : (s.setLock g u v).mems = s.mems := rfl
@[simp] theorem State.setLock_memRet : (s.setLock g u v).memRet = s.memRet := rfl
@[simp] theorem State.setLock_recd : (s.setLock g u v).recd = s.recd := rfl
end

/-! ## setChan -/

section
variable (s : State) (g u : Nat) (v : Chan)
@[simp] theorem State.setChan_pending : (s.setChan g u v).pending = s.pending := rfl
@[simp] theorem State.setChan_ties : (s.setChan g u v).ties = s.ties := rfl
@[simp] theorem State.setChan_hw : (s.setChan g u v).hw = s.hw := rfl
@[simp] theorem State.setChan_freeCtr : (s.setChan g u v).freeCtr = s.freeCtr := rfl
@[simp] theorem State.setChan_regs : (s.setChan g u v).regs = s.regs := rfl
@[simp] theorem State.setChan_tregs : (s.setChan g u v).tregs = s.tregs := rfl
@[simp] theorem State.setChan_stag : (s.setChan g u v).stag = s.stag := rfl
@[simp] theorem State.setChan_ctrs : (s.setChan g u v).ctrs = s.ctrs := rfl
@[simp] theorem State.setChan_snap : (s.setChan g u v).snap = s.snap := rfl
@[simp] theorem State.setChan_time : (s.setChan g u v).time = s.time := rfl
@[simp] theorem State.setChan_start : (s.setChan g u v).start = s.start := rfl
@[simp] theorem State.setChan_power : (s.setChan g u v).power = s.power := rfl
@[simp] theorem State.setChan_points : (s.setChan g u v).points = s.points := rfl
@[simp] theorem State.setChan_mgmt : (s.setChan g u v).mgmt = s.mgmt := rfl
@[simp] theorem State.setChan_tap : (s.setChan g u v).tap = s.tap := rfl
@[simp] theorem State.setChan_nvm : (s.setChan g u v).nvm = s.nvm := rfl
@[simp] theorem State.setChan_links : (s.setChan g u v).links = s.links := rfl
@[simp] theorem State.setChan_trunk : (s.setChan g u v).trunk = s.trunk := rfl
@[simp] theorem State.setChan_ports : (s.setChan g u v).ports = s.ports := rfl
@[simp] theorem State.setChan_rings : (s.setChan g u v).rings = s.rings := rfl
@[simp] theorem State.setChan_cores : (s.setChan g u v).cores = s.cores := rfl
@[simp] theorem State.setChan_threads : (s.setChan g u v).threads = s.threads := rfl
@[simp] theorem State.setChan_stalls : (s.setChan g u v).stalls = s.stalls := rfl
@[simp] theorem State.setChan_beats : (s.setChan g u v).beats = s.beats := rfl
@[simp] theorem State.setChan_lookup : (s.setChan g u v).lookup = s.lookup := rfl
@[simp] theorem State.setChan_mems : (s.setChan g u v).mems = s.mems := rfl
@[simp] theorem State.setChan_memRet : (s.setChan g u v).memRet = s.memRet := rfl
@[simp] theorem State.setChan_recd : (s.setChan g u v).recd = s.recd := rfl
end

/-! ## setBeat -/

section
variable (s : State) (g : Nat) (v : Beat)
@[simp] theorem State.setBeat_pending : (s.setBeat g v).pending = s.pending := rfl
@[simp] theorem State.setBeat_ties : (s.setBeat g v).ties = s.ties := rfl
@[simp] theorem State.setBeat_hw : (s.setBeat g v).hw = s.hw := rfl
@[simp] theorem State.setBeat_freeCtr : (s.setBeat g v).freeCtr = s.freeCtr := rfl
@[simp] theorem State.setBeat_regs : (s.setBeat g v).regs = s.regs := rfl
@[simp] theorem State.setBeat_tregs : (s.setBeat g v).tregs = s.tregs := rfl
@[simp] theorem State.setBeat_stag : (s.setBeat g v).stag = s.stag := rfl
@[simp] theorem State.setBeat_ctrs : (s.setBeat g v).ctrs = s.ctrs := rfl
@[simp] theorem State.setBeat_snap : (s.setBeat g v).snap = s.snap := rfl
@[simp] theorem State.setBeat_time : (s.setBeat g v).time = s.time := rfl
@[simp] theorem State.setBeat_start : (s.setBeat g v).start = s.start := rfl
@[simp] theorem State.setBeat_power : (s.setBeat g v).power = s.power := rfl
@[simp] theorem State.setBeat_points : (s.setBeat g v).points = s.points := rfl
@[simp] theorem State.setBeat_mgmt : (s.setBeat g v).mgmt = s.mgmt := rfl
@[simp] theorem State.setBeat_tap : (s.setBeat g v).tap = s.tap := rfl
@[simp] theorem State.setBeat_nvm : (s.setBeat g v).nvm = s.nvm := rfl
@[simp] theorem State.setBeat_links : (s.setBeat g v).links = s.links := rfl
@[simp] theorem State.setBeat_trunk : (s.setBeat g v).trunk = s.trunk := rfl
@[simp] theorem State.setBeat_ports : (s.setBeat g v).ports = s.ports := rfl
@[simp] theorem State.setBeat_rings : (s.setBeat g v).rings = s.rings := rfl
@[simp] theorem State.setBeat_groves : (s.setBeat g v).groves = s.groves := rfl
@[simp] theorem State.setBeat_cores : (s.setBeat g v).cores = s.cores := rfl
@[simp] theorem State.setBeat_threads : (s.setBeat g v).threads = s.threads := rfl
@[simp] theorem State.setBeat_stalls : (s.setBeat g v).stalls = s.stalls := rfl
@[simp] theorem State.setBeat_lookup : (s.setBeat g v).lookup = s.lookup := rfl
@[simp] theorem State.setBeat_mems : (s.setBeat g v).mems = s.mems := rfl
@[simp] theorem State.setBeat_memRet : (s.setBeat g v).memRet = s.memRet := rfl
@[simp] theorem State.setBeat_recd : (s.setBeat g v).recd = s.recd := rfl
end

/-! ## setStall -/

section
variable (s : State) (g : Nat) (v : Stall)
@[simp] theorem State.setStall_pending : (s.setStall g v).pending = s.pending := rfl
@[simp] theorem State.setStall_ties : (s.setStall g v).ties = s.ties := rfl
@[simp] theorem State.setStall_hw : (s.setStall g v).hw = s.hw := rfl
@[simp] theorem State.setStall_freeCtr : (s.setStall g v).freeCtr = s.freeCtr := rfl
@[simp] theorem State.setStall_regs : (s.setStall g v).regs = s.regs := rfl
@[simp] theorem State.setStall_tregs : (s.setStall g v).tregs = s.tregs := rfl
@[simp] theorem State.setStall_stag : (s.setStall g v).stag = s.stag := rfl
@[simp] theorem State.setStall_ctrs : (s.setStall g v).ctrs = s.ctrs := rfl
@[simp] theorem State.setStall_snap : (s.setStall g v).snap = s.snap := rfl
@[simp] theorem State.setStall_time : (s.setStall g v).time = s.time := rfl
@[simp] theorem State.setStall_start : (s.setStall g v).start = s.start := rfl
@[simp] theorem State.setStall_power : (s.setStall g v).power = s.power := rfl
@[simp] theorem State.setStall_points : (s.setStall g v).points = s.points := rfl
@[simp] theorem State.setStall_mgmt : (s.setStall g v).mgmt = s.mgmt := rfl
@[simp] theorem State.setStall_tap : (s.setStall g v).tap = s.tap := rfl
@[simp] theorem State.setStall_nvm : (s.setStall g v).nvm = s.nvm := rfl
@[simp] theorem State.setStall_links : (s.setStall g v).links = s.links := rfl
@[simp] theorem State.setStall_trunk : (s.setStall g v).trunk = s.trunk := rfl
@[simp] theorem State.setStall_ports : (s.setStall g v).ports = s.ports := rfl
@[simp] theorem State.setStall_rings : (s.setStall g v).rings = s.rings := rfl
@[simp] theorem State.setStall_groves : (s.setStall g v).groves = s.groves := rfl
@[simp] theorem State.setStall_cores : (s.setStall g v).cores = s.cores := rfl
@[simp] theorem State.setStall_threads : (s.setStall g v).threads = s.threads := rfl
@[simp] theorem State.setStall_beats : (s.setStall g v).beats = s.beats := rfl
@[simp] theorem State.setStall_lookup : (s.setStall g v).lookup = s.lookup := rfl
@[simp] theorem State.setStall_mems : (s.setStall g v).mems = s.mems := rfl
@[simp] theorem State.setStall_memRet : (s.setStall g v).memRet = s.memRet := rfl
@[simp] theorem State.setStall_recd : (s.setStall g v).recd = s.recd := rfl
end

/-! ## nvmDo -/

section
variable (s : State) (op : NvmOp)
@[simp] theorem State.nvmDo_pending : (s.nvmDo op).pending = s.pending := rfl
@[simp] theorem State.nvmDo_ties : (s.nvmDo op).ties = s.ties := rfl
@[simp] theorem State.nvmDo_hw : (s.nvmDo op).hw = s.hw := rfl
@[simp] theorem State.nvmDo_freeCtr : (s.nvmDo op).freeCtr = s.freeCtr := rfl
@[simp] theorem State.nvmDo_regs : (s.nvmDo op).regs = s.regs := rfl
@[simp] theorem State.nvmDo_tregs : (s.nvmDo op).tregs = s.tregs := rfl
@[simp] theorem State.nvmDo_stag : (s.nvmDo op).stag = s.stag := rfl
@[simp] theorem State.nvmDo_ctrs : (s.nvmDo op).ctrs = s.ctrs := rfl
@[simp] theorem State.nvmDo_snap : (s.nvmDo op).snap = s.snap := rfl
@[simp] theorem State.nvmDo_time : (s.nvmDo op).time = s.time := rfl
@[simp] theorem State.nvmDo_start : (s.nvmDo op).start = s.start := rfl
@[simp] theorem State.nvmDo_power : (s.nvmDo op).power = s.power := rfl
@[simp] theorem State.nvmDo_points : (s.nvmDo op).points = s.points := rfl
@[simp] theorem State.nvmDo_mgmt : (s.nvmDo op).mgmt = s.mgmt := rfl
@[simp] theorem State.nvmDo_tap : (s.nvmDo op).tap = s.tap := rfl
@[simp] theorem State.nvmDo_links : (s.nvmDo op).links = s.links := rfl
@[simp] theorem State.nvmDo_trunk : (s.nvmDo op).trunk = s.trunk := rfl
@[simp] theorem State.nvmDo_ports : (s.nvmDo op).ports = s.ports := rfl
@[simp] theorem State.nvmDo_rings : (s.nvmDo op).rings = s.rings := rfl
@[simp] theorem State.nvmDo_groves : (s.nvmDo op).groves = s.groves := rfl
@[simp] theorem State.nvmDo_cores : (s.nvmDo op).cores = s.cores := rfl
@[simp] theorem State.nvmDo_threads : (s.nvmDo op).threads = s.threads := rfl
@[simp] theorem State.nvmDo_stalls : (s.nvmDo op).stalls = s.stalls := rfl
@[simp] theorem State.nvmDo_beats : (s.nvmDo op).beats = s.beats := rfl
@[simp] theorem State.nvmDo_lookup : (s.nvmDo op).lookup = s.lookup := rfl
@[simp] theorem State.nvmDo_mems : (s.nvmDo op).mems = s.mems := rfl
@[simp] theorem State.nvmDo_memRet : (s.nvmDo op).memRet = s.memRet := rfl
@[simp] theorem State.nvmDo_recd : (s.nvmDo op).recd = s.recd := rfl
end

/-! ## setTbl -/

section
variable (s : State) (t : Nat) (v : Table)
@[simp] theorem State.setTbl_pending : (s.setTbl t v).pending = s.pending := rfl
@[simp] theorem State.setTbl_ties : (s.setTbl t v).ties = s.ties := rfl
@[simp] theorem State.setTbl_hw : (s.setTbl t v).hw = s.hw := rfl
@[simp] theorem State.setTbl_freeCtr : (s.setTbl t v).freeCtr = s.freeCtr := rfl
@[simp] theorem State.setTbl_regs : (s.setTbl t v).regs = s.regs := rfl
@[simp] theorem State.setTbl_tregs : (s.setTbl t v).tregs = s.tregs := rfl
@[simp] theorem State.setTbl_stag : (s.setTbl t v).stag = s.stag := rfl
@[simp] theorem State.setTbl_ctrs : (s.setTbl t v).ctrs = s.ctrs := rfl
@[simp] theorem State.setTbl_snap : (s.setTbl t v).snap = s.snap := rfl
@[simp] theorem State.setTbl_time : (s.setTbl t v).time = s.time := rfl
@[simp] theorem State.setTbl_start : (s.setTbl t v).start = s.start := rfl
@[simp] theorem State.setTbl_power : (s.setTbl t v).power = s.power := rfl
@[simp] theorem State.setTbl_points : (s.setTbl t v).points = s.points := rfl
@[simp] theorem State.setTbl_mgmt : (s.setTbl t v).mgmt = s.mgmt := rfl
@[simp] theorem State.setTbl_tap : (s.setTbl t v).tap = s.tap := rfl
@[simp] theorem State.setTbl_nvm : (s.setTbl t v).nvm = s.nvm := rfl
@[simp] theorem State.setTbl_links : (s.setTbl t v).links = s.links := rfl
@[simp] theorem State.setTbl_trunk : (s.setTbl t v).trunk = s.trunk := rfl
@[simp] theorem State.setTbl_ports : (s.setTbl t v).ports = s.ports := rfl
@[simp] theorem State.setTbl_rings : (s.setTbl t v).rings = s.rings := rfl
@[simp] theorem State.setTbl_groves : (s.setTbl t v).groves = s.groves := rfl
@[simp] theorem State.setTbl_cores : (s.setTbl t v).cores = s.cores := rfl
@[simp] theorem State.setTbl_threads : (s.setTbl t v).threads = s.threads := rfl
@[simp] theorem State.setTbl_stalls : (s.setTbl t v).stalls = s.stalls := rfl
@[simp] theorem State.setTbl_beats : (s.setTbl t v).beats = s.beats := rfl
@[simp] theorem State.setTbl_mems : (s.setTbl t v).mems = s.mems := rfl
@[simp] theorem State.setTbl_memRet : (s.setTbl t v).memRet = s.memRet := rfl
@[simp] theorem State.setTbl_recd : (s.setTbl t v).recd = s.recd := rfl
end

/-! ## modTbl -/

section
variable (s : State) (t : Nat) (f : Table → Table)
@[simp] theorem State.modTbl_pending : (s.modTbl t f).pending = s.pending := rfl
@[simp] theorem State.modTbl_ties : (s.modTbl t f).ties = s.ties := rfl
@[simp] theorem State.modTbl_hw : (s.modTbl t f).hw = s.hw := rfl
@[simp] theorem State.modTbl_freeCtr : (s.modTbl t f).freeCtr = s.freeCtr := rfl
@[simp] theorem State.modTbl_regs : (s.modTbl t f).regs = s.regs := rfl
@[simp] theorem State.modTbl_tregs : (s.modTbl t f).tregs = s.tregs := rfl
@[simp] theorem State.modTbl_stag : (s.modTbl t f).stag = s.stag := rfl
@[simp] theorem State.modTbl_ctrs : (s.modTbl t f).ctrs = s.ctrs := rfl
@[simp] theorem State.modTbl_snap : (s.modTbl t f).snap = s.snap := rfl
@[simp] theorem State.modTbl_time : (s.modTbl t f).time = s.time := rfl
@[simp] theorem State.modTbl_start : (s.modTbl t f).start = s.start := rfl
@[simp] theorem State.modTbl_power : (s.modTbl t f).power = s.power := rfl
@[simp] theorem State.modTbl_points : (s.modTbl t f).points = s.points := rfl
@[simp] theorem State.modTbl_mgmt : (s.modTbl t f).mgmt = s.mgmt := rfl
@[simp] theorem State.modTbl_tap : (s.modTbl t f).tap = s.tap := rfl
@[simp] theorem State.modTbl_nvm : (s.modTbl t f).nvm = s.nvm := rfl
@[simp] theorem State.modTbl_links : (s.modTbl t f).links = s.links := rfl
@[simp] theorem State.modTbl_trunk : (s.modTbl t f).trunk = s.trunk := rfl
@[simp] theorem State.modTbl_ports : (s.modTbl t f).ports = s.ports := rfl
@[simp] theorem State.modTbl_rings : (s.modTbl t f).rings = s.rings := rfl
@[simp] theorem State.modTbl_groves : (s.modTbl t f).groves = s.groves := rfl
@[simp] theorem State.modTbl_cores : (s.modTbl t f).cores = s.cores := rfl
@[simp] theorem State.modTbl_threads : (s.modTbl t f).threads = s.threads := rfl
@[simp] theorem State.modTbl_stalls : (s.modTbl t f).stalls = s.stalls := rfl
@[simp] theorem State.modTbl_beats : (s.modTbl t f).beats = s.beats := rfl
@[simp] theorem State.modTbl_mems : (s.modTbl t f).mems = s.mems := rfl
@[simp] theorem State.modTbl_memRet : (s.modTbl t f).memRet = s.memRet := rfl
@[simp] theorem State.modTbl_recd : (s.modTbl t f).recd = s.recd := rfl
end

/-! ## setCmd -/

section
variable (s : State) (k : Nat) (c : Cmd)
@[simp] theorem State.setCmd_pending : (s.setCmd k c).pending = s.pending := rfl
@[simp] theorem State.setCmd_ties : (s.setCmd k c).ties = s.ties := rfl
@[simp] theorem State.setCmd_hw : (s.setCmd k c).hw = s.hw := rfl
@[simp] theorem State.setCmd_freeCtr : (s.setCmd k c).freeCtr = s.freeCtr := rfl
@[simp] theorem State.setCmd_regs : (s.setCmd k c).regs = s.regs := rfl
@[simp] theorem State.setCmd_tregs : (s.setCmd k c).tregs = s.tregs := rfl
@[simp] theorem State.setCmd_stag : (s.setCmd k c).stag = s.stag := rfl
@[simp] theorem State.setCmd_ctrs : (s.setCmd k c).ctrs = s.ctrs := rfl
@[simp] theorem State.setCmd_snap : (s.setCmd k c).snap = s.snap := rfl
@[simp] theorem State.setCmd_time : (s.setCmd k c).time = s.time := rfl
@[simp] theorem State.setCmd_start : (s.setCmd k c).start = s.start := rfl
@[simp] theorem State.setCmd_power : (s.setCmd k c).power = s.power := rfl
@[simp] theorem State.setCmd_points : (s.setCmd k c).points = s.points := rfl
@[simp] theorem State.setCmd_mgmt : (s.setCmd k c).mgmt = s.mgmt := rfl
@[simp] theorem State.setCmd_tap : (s.setCmd k c).tap = s.tap := rfl
@[simp] theorem State.setCmd_nvm : (s.setCmd k c).nvm = s.nvm := rfl
@[simp] theorem State.setCmd_links : (s.setCmd k c).links = s.links := rfl
@[simp] theorem State.setCmd_trunk : (s.setCmd k c).trunk = s.trunk := rfl
@[simp] theorem State.setCmd_ports : (s.setCmd k c).ports = s.ports := rfl
@[simp] theorem State.setCmd_rings : (s.setCmd k c).rings = s.rings := rfl
@[simp] theorem State.setCmd_groves : (s.setCmd k c).groves = s.groves := rfl
@[simp] theorem State.setCmd_cores : (s.setCmd k c).cores = s.cores := rfl
@[simp] theorem State.setCmd_threads : (s.setCmd k c).threads = s.threads := rfl
@[simp] theorem State.setCmd_stalls : (s.setCmd k c).stalls = s.stalls := rfl
@[simp] theorem State.setCmd_beats : (s.setCmd k c).beats = s.beats := rfl
@[simp] theorem State.setCmd_mems : (s.setCmd k c).mems = s.mems := rfl
@[simp] theorem State.setCmd_memRet : (s.setCmd k c).memRet = s.memRet := rfl
@[simp] theorem State.setCmd_recd : (s.setCmd k c).recd = s.recd := rfl
end

/-! ## modCmd -/

section
variable (s : State) (k : Nat) (f : Cmd → Cmd)
@[simp] theorem State.modCmd_pending : (s.modCmd k f).pending = s.pending := rfl
@[simp] theorem State.modCmd_ties : (s.modCmd k f).ties = s.ties := rfl
@[simp] theorem State.modCmd_hw : (s.modCmd k f).hw = s.hw := rfl
@[simp] theorem State.modCmd_freeCtr : (s.modCmd k f).freeCtr = s.freeCtr := rfl
@[simp] theorem State.modCmd_regs : (s.modCmd k f).regs = s.regs := rfl
@[simp] theorem State.modCmd_tregs : (s.modCmd k f).tregs = s.tregs := rfl
@[simp] theorem State.modCmd_stag : (s.modCmd k f).stag = s.stag := rfl
@[simp] theorem State.modCmd_ctrs : (s.modCmd k f).ctrs = s.ctrs := rfl
@[simp] theorem State.modCmd_snap : (s.modCmd k f).snap = s.snap := rfl
@[simp] theorem State.modCmd_time : (s.modCmd k f).time = s.time := rfl
@[simp] theorem State.modCmd_start : (s.modCmd k f).start = s.start := rfl
@[simp] theorem State.modCmd_power : (s.modCmd k f).power = s.power := rfl
@[simp] theorem State.modCmd_points : (s.modCmd k f).points = s.points := rfl
@[simp] theorem State.modCmd_mgmt : (s.modCmd k f).mgmt = s.mgmt := rfl
@[simp] theorem State.modCmd_tap : (s.modCmd k f).tap = s.tap := rfl
@[simp] theorem State.modCmd_nvm : (s.modCmd k f).nvm = s.nvm := rfl
@[simp] theorem State.modCmd_links : (s.modCmd k f).links = s.links := rfl
@[simp] theorem State.modCmd_trunk : (s.modCmd k f).trunk = s.trunk := rfl
@[simp] theorem State.modCmd_ports : (s.modCmd k f).ports = s.ports := rfl
@[simp] theorem State.modCmd_rings : (s.modCmd k f).rings = s.rings := rfl
@[simp] theorem State.modCmd_groves : (s.modCmd k f).groves = s.groves := rfl
@[simp] theorem State.modCmd_cores : (s.modCmd k f).cores = s.cores := rfl
@[simp] theorem State.modCmd_threads : (s.modCmd k f).threads = s.threads := rfl
@[simp] theorem State.modCmd_stalls : (s.modCmd k f).stalls = s.stalls := rfl
@[simp] theorem State.modCmd_beats : (s.modCmd k f).beats = s.beats := rfl
@[simp] theorem State.modCmd_mems : (s.modCmd k f).mems = s.mems := rfl
@[simp] theorem State.modCmd_memRet : (s.modCmd k f).memRet = s.memRet := rfl
@[simp] theorem State.modCmd_recd : (s.modCmd k f).recd = s.recd := rfl
end

/-! ## Reads after writes -/

/-- Another register keeps its value. -/
theorem State.reg_setReg_other (s : State) {a b : Nat} (v : BitVec 32) (h : b ≠ a) : (s.setReg a v).reg b = s.reg b :=
  mget_mput_other 0 s.regs v h
/-- The register written holds the value, in canonical registers. -/
theorem State.reg_setReg_same (s : State) (a : Nat) (v : BitVec 32) : (s.setReg a v).reg a = v :=
  mget_mput_same 0 s.regs a v
/-- A register write keeps the registers canonical. -/
theorem State.wf_setReg (s : State) (a : Nat) (v : BitVec 32) (h : SMap.wf 0 s.regs = true) : SMap.wf 0 (s.setReg a v).regs = true :=
  SMap.wf_mput h a v
/-- Setting sticky bits keeps the registers canonical. -/
theorem State.wf_orReg (s : State) (a : Nat) (v : BitVec 32) (h : SMap.wf 0 s.regs = true) : SMap.wf 0 (s.orReg a v).regs = true :=
  SMap.wf_mput h a _

/-! ## What shared operations can do -/

section
variable (s : State)

/-- A count with a stamp is a count; beside it changes the snapshot or what waits for the next one, and nothing else (R28). -/
theorem State.countAt_frame (a : Nat) (st : Word) (n : Nat) :
    ∃ sn ah, s.countAt a st n = { s.count a n with snap := sn, time := { s.time with ahead := ah } } := by
  unfold State.countAt
  dsimp only
  repeat' split
  all_goals exact ⟨_, _, rfl⟩

theorem State.countAt_ctrs (a : Nat) (st : Word) (n : Nat) : (s.countAt a st n).ctrs = (s.count a n).ctrs := by
  obtain ⟨sn, ah, e⟩ := s.countAt_frame a st n
  rw [e]

/-- With no cycle of its port under way an instruction begins one, and sees the shared values as they are (R108). -/
theorem State.portCycle_begins (p e : Nat) (h : (s.port p).cyc = none) :
    s.portCycle p e = { hw := s.hw, ran := [], seen := (s.port p).shared, left := (s.port p).shared } := by
  unfold State.portCycle
  dsimp only
  rw [h]

/-- An exact-match lookup returns what its probes found (R329). -/
theorem State.lkHeld_exact (v : Lkp) (hit : Option (Nat × Entry)) (h : v.lpm = false) : s.lkHeld v hit = hit := by
  unfold State.lkHeld
  rw [h]
  rfl

end

end Sys2Proof.Machine
end

