-- ==== Sys2Proof/Laws/Step.lean ====
section
/-!
SUPPORT. What a core cycle does around the step of an instruction, said once: the beginning of a cycle (`openCycle`) ends waits and
chooses, its end (`coreTick`) may park threads and settles the event flags, and a step that is made ends as `Thread.endStep` says.
-/
namespace Sys2Proof.Machine

/-! ## Bystanders -/

theorem Thread.Bystander.refl (t : Thread) : t.Bystander t :=
  ⟨⟨t.wait, t.outst, t.sendW, t.parkReq, t.halted, t.hcause, t.haltReq, t.step, t.lines, t.pc, rfl⟩, fun _ h => h, fun h => ⟨rfl, h⟩⟩

theorem Thread.Bystander.trans {a b c : Thread} (h : a.Bystander b) (k : b.Bystander c) : a.Bystander c := by
  obtain ⟨⟨w, o, sw, p, hh, hc, hr, st, li, pc, e⟩, l1, p1⟩ := h
  obtain ⟨⟨w', o', sw', p', hh', hc', hr', st', li', pc', e'⟩, l2, p2⟩ := k
  refine ⟨⟨w', o', sw', p', hh', hc', hr', st', li', pc', ?_⟩, fun i hi => l2 i (l1 i hi), fun hw => ?_⟩
  · rw [e', e]
  · obtain ⟨q, r⟩ := p1 hw
    obtain ⟨q', r'⟩ := p2 r
    exact ⟨q'.trans q, r'⟩

/-- A thread that changes in neither PC nor lines, and does not come to wait on a flag. -/
theorem Thread.Bystander.of {t x : Thread}
    (h : ∃ w o sw p hh hc hr st, x = { t with
      wait := w, outst := o, sendW := sw, parkReq := p, halted := hh, hcause := hc, haltReq := hr, step := st })
    (hw : (∀ f, t.wait ≠ .event f) → ∀ f, x.wait ≠ .event f) : t.Bystander x := by
  obtain ⟨w, o, sw, p, hh, hc, hr, st, e⟩ := h
  refine ⟨⟨w, o, sw, p, hh, hc, hr, st, t.lines, t.pc, e⟩, ?_, fun k => ⟨by rw [e], hw k⟩⟩
  intro i hi
  rw [e]
  exact hi

theorem Thread.Bystander.greg {t x : Thread} (h : t.Bystander x) (r : Nat) : x.greg r = t.greg r := by
  obtain ⟨⟨w, o, sw, p, hh, hc, hr, st, li, pc, e⟩, -⟩ := h
  rw [e]; rfl
theorem Thread.Bystander.status {t x : Thread} (h : t.Bystander x) : x.status = t.status := by
  obtain ⟨⟨w, o, sw, p, hh, hc, hr, st, li, pc, e⟩, -⟩ := h
  rw [e]
theorem Thread.Bystander.keepsPc {t x : Thread} (h : t.Bystander x) (hw : ∀ f, t.wait ≠ .event f) : x.pc = t.pc := (h.2.2 hw).1

/-- A line is set without clearing another. -/
theorem bit_setBit_true {n : Nat} (v : BitVec n) (i j : Nat) (h : bit v j = true) : bit (setBit v i true) j = true := by
  have hj : j < n := by
    apply Decidable.byContradiction
    intro hc
    unfold bit at h
    rw [BitVec.getLsbD_of_ge v j (by omega)] at h
    cases h
  unfold bit at h
  show ((v &&& ~~~(BitVec.ofNat n (1 <<< i))) ||| BitVec.ofNat n (1 <<< i)).getLsbD j = true
  rw [BitVec.getLsbD_or, BitVec.getLsbD_and, BitVec.getLsbD_not, h]
  cases (BitVec.ofNat n (1 <<< i)).getLsbD j <;> simp [hj]

theorem Thread.Bystander.setLine (t : Thread) (i : Nat) : t.Bystander { t with lines := setBit t.lines i true } :=
  ⟨⟨t.wait, t.outst, t.sendW, t.parkReq, t.halted, t.hcause, t.haltReq, t.step, setBit t.lines i true, t.pc, rfl⟩,
    fun j h => bit_setBit_true t.lines i j h, fun h => ⟨rfl, h⟩⟩

theorem Thread.Bystander.stopHalt (t : Thread) : t.Bystander t.stopHalt := by
  unfold Thread.stopHalt
  split
  · exact .of ⟨t.wait, t.outst, t.sendW, t.parkReq, true, 1, false, none, rfl⟩ (fun h => h)
  · exact .refl t

/-- A thread passes the WAITE it waits in. -/
theorem Thread.Bystander.pass {t : Thread} {f : Nat} (h : t.wait = .event f) : t.Bystander (t.adv 2).wake := by
  refine ⟨?_, ?_, fun k => absurd h (k f)⟩
  · unfold Thread.wake Thread.stepEnd
    split
    · exact ⟨_, t.outst, t.sendW, t.parkReq, _, _, t.haltReq, _, t.lines, (t.adv 2).pc, rfl⟩
    · exact ⟨_, t.outst, t.sendW, t.parkReq, t.halted, t.hcause, t.haltReq, t.step, t.lines, (t.adv 2).pc, rfl⟩
  · intro i hi
    unfold Thread.wake Thread.stepEnd
    split <;> exact hi

/-! ## Timer channels -/

theorem Timer.Passes.refl (t : Timer) : t.Passes t := ⟨t.cnt, t.due, t.edges, rfl, fun _ => ⟨rfl, rfl⟩⟩

theorem Timer.Passes.trans {a b c : Timer} (h : a.Passes b) (k : b.Passes c) : a.Passes c := by
  obtain ⟨n, d, e, rfl, p⟩ := h
  obtain ⟨n', d', e', rfl, q⟩ := k
  exact ⟨n', d', e', rfl, fun ha => ⟨(q ha).1.trans (p ha).1, (q ha).2.trans (p ha).2⟩⟩

/-! ## Beginnings and ends of cycles -/

theorem State.grove_modThread (s : State) (x g : Nat) (f : Thread → Thread) : (s.modThread x f).grove g = s.grove g := rfl
theorem State.thread_modGrove (s : State) (x g : Nat) (f : Grove → Grove) : (s.modGrove g f).thread x = s.thread x := rfl

/-- u is s after what the beginning or the end of a cycle of grove g does to its threads: they are bystanders, and of a grove only
waiting lists of locks and channels change, and the counts of timer channels of grove g. -/
structure Parks (g : Nat) (s u : State) : Prop where
  rest : u = { s with threads := u.threads, groves := u.groves, beats := u.beats }
  thread : ∀ x, (s.thread x).Bystander (u.thread x)
  other : ∀ x, thG x ≠ g → u.thread x = s.thread x
  grove : ∀ h, ∃ l c t, u.grove h = { s.grove h with locks := l, chans := c, timers := t }
  lock : ∀ h k, (u.lock h k).holder = (s.lock h k).holder
  chan : ∀ h k, (u.chan h k).msgs = (s.chan h k).msgs
  timer : ∀ h k, (s.timer h k).Passes (u.timer h k)
  still : ∀ h k, h ≠ g → u.timer h k = s.timer h k

theorem Parks.refl (g : Nat) (s : State) : Parks g s s where
  rest := rfl
  thread _ := .refl _
  other _ _ := rfl
  grove h := ⟨(s.grove h).locks, (s.grove h).chans, (s.grove h).timers, rfl⟩
  lock _ _ := rfl
  chan _ _ := rfl
  timer _ _ := .refl _
  still _ _ _ := rfl

theorem Parks.trans {g : Nat} {s u v : State} (a : Parks g s u) (b : Parks g u v) : Parks g s v where
  rest := by rw [b.rest, a.rest]
  thread x := (a.thread x).trans (b.thread x)
  other x h := (b.other x h).trans (a.other x h)
  grove h := by
    obtain ⟨l, c, t, e⟩ := a.grove h
    obtain ⟨l', c', t', e'⟩ := b.grove h
    exact ⟨l', c', t', by rw [e', e]⟩
  lock h k := (b.lock h k).trans (a.lock h k)
  chan h k := (b.chan h k).trans (a.chan h k)
  timer h k := (a.timer h k).trans (b.timer h k)
  still h k hg := (b.still h k hg).trans (a.still h k hg)

theorem Parks.ite {g : Nat} {s u v : State} (c : Prop) [Decidable c] (a : Parks g s u) (b : Parks g s v) :
    Parks g s (if c then u else v) := by
  split
  · exact a
  · exact b

theorem Parks.foldl {g : Nat} {α : Type} (f : State → α → State) (l : List α) (h : ∀ s, ∀ i ∈ l, Parks g s (f s i)) (s : State) :
    Parks g s (l.foldl f s) := by
  induction l generalizing s with
  | nil => exact .refl g s
  | cons i l ih =>
    exact (h s i (List.mem_cons_self ..)).trans (ih (fun s j hj => h s j (List.mem_cons_of_mem _ hj)) _)

/-- A bystander of grove g changes. -/
theorem Parks.modThread {g : Nat} (s : State) (th : Nat) (f : Thread → Thread) (hg : thG th = g)
    (h : (s.thread th).Bystander (f (s.thread th))) : Parks g s (s.modThread th f) where
  rest := rfl
  thread x := by
    rw [State.thread_modThread]
    split
    · next hx => subst hx; exact h
    · exact .refl _
  other x hx := by
    rw [State.thread_modThread, if_neg]
    intro e; subst e; exact hx hg
  grove := (Parks.refl g s).grove
  lock _ _ := rfl
  chan _ _ := rfl
  timer _ _ := .refl _
  still _ _ _ := rfl

theorem State.lock_setLock_all (s : State) (g u h x : Nat) (v : Lock) :
    (s.setLock g u v).lock h x = if h = g ∧ x = u then v else s.lock h x := by
  by_cases hg : h = g
  · subst hg; simp [State.lock_setLock]
  · simp only [hg, false_and, if_false]
    unfold State.lock State.setLock
    rw [State.grove_modGrove, if_neg hg]

theorem State.chan_setChan_all (s : State) (g u h x : Nat) (v : Chan) :
    (s.setChan g u v).chan h x = if h = g ∧ x = u then v else s.chan h x := by
  by_cases hg : h = g
  · subst hg; simp [State.chan_setChan]
  · simp only [hg, false_and, if_false]
    unfold State.chan State.setChan
    rw [State.grove_modGrove, if_neg hg]

theorem State.chan_setLock (s : State) (g u h x : Nat) (v : Lock) : (s.setLock g u v).chan h x = s.chan h x := by
  unfold State.chan State.setLock
  rw [State.grove_modGrove]
  split
  · next hh => subst hh; rfl
  · rfl

theorem State.lock_setChan (s : State) (g u h x : Nat) (v : Chan) : (s.setChan g u v).lock h x = s.lock h x := by
  unfold State.lock State.setChan
  rw [State.grove_modGrove]
  split
  · next hh => subst hh; rfl
  · rfl

theorem State.timer_setLock (s : State) (g u h x : Nat) (v : Lock) : (s.setLock g u v).timer h x = s.timer h x := by
  unfold State.timer State.setLock
  rw [State.grove_modGrove]
  split
  · next hh => subst hh; rfl
  · rfl

theorem State.timer_setChan (s : State) (g u h x : Nat) (v : Chan) : (s.setChan g u v).timer h x = s.timer h x := by
  unfold State.timer State.setChan
  rw [State.grove_modGrove]
  split
  · next hh => subst hh; rfl
  · rfl

theorem Parks.setLock (a : Nat) (s : State) (g u : Nat) (v : Lock) (h : v.holder = (s.lock g u).holder) :
    Parks a s (s.setLock g u v) where
  rest := rfl
  thread := (Parks.refl a s).thread
  other _ _ := rfl
  grove x := by
    unfold State.setLock
    rw [State.grove_modGrove]
    split
    · next hx => subst hx; exact ⟨_, (s.grove x).chans, (s.grove x).timers, rfl⟩
    · exact (Parks.refl a s).grove x
  lock x k := by
    rw [State.lock_setLock_all]
    split
    · next hh => rw [hh.1, hh.2, h]
    · rfl
  chan x k := by rw [State.chan_setLock]
  timer x k := by rw [State.timer_setLock]; exact .refl _
  still x k _ := State.timer_setLock s g u x k v

theorem Parks.setChan (a : Nat) (s : State) (g u : Nat) (v : Chan) (h : v.msgs = (s.chan g u).msgs) :
    Parks a s (s.setChan g u v) where
  rest := rfl
  thread := (Parks.refl a s).thread
  other _ _ := rfl
  grove x := by
    unfold State.setChan
    rw [State.grove_modGrove]
    split
    · next hx => subst hx; exact ⟨(s.grove x).locks, _, (s.grove x).timers, rfl⟩
    · exact (Parks.refl a s).grove x
  lock x k := by rw [State.lock_setChan]
  chan x k := by
    rw [State.chan_setChan_all]
    split
    · next hh => rw [hh.1, hh.2, h]
    · rfl
  timer x k := by rw [State.timer_setChan]; exact .refl _
  still x k _ := State.timer_setChan s g u x k v

/-- A timer channel of grove g counts. -/
theorem Parks.setTimer {g : Nat} (s : State) (k : Nat) (v : Timer) (h : (s.timer g k).Passes v) : Parks g s (s.setTimer g k v) where
  rest := rfl
  thread := (Parks.refl g s).thread
  other _ _ := rfl
  grove x := by
    unfold State.setTimer
    rw [State.grove_modGrove]
    split
    · next hx => subst hx; exact ⟨(s.grove x).locks, (s.grove x).chans, _, rfl⟩
    · exact (Parks.refl g s).grove x
  lock x y := by
    unfold State.lock State.setTimer
    rw [State.grove_modGrove]
    split
    · next hx => subst hx; rfl
    · rfl
  chan x y := by
    unfold State.chan State.setTimer
    rw [State.grove_modGrove]
    split
    · next hx => subst hx; rfl
    · rfl
  timer x y := by
    unfold State.timer State.setTimer
    rw [State.grove_modGrove]
    split
    · next hx =>
      subst hx
      show ((mget {} (s.grove x).timers y).Passes (mget {} (mput {} (s.grove x).timers k v) y))
      rw [mget_mput]
      split
      · next hy => subst hy; exact h
      · exact .refl _
    · exact .refl _
  still x y hx := by
    unfold State.timer State.setTimer
    rw [State.grove_modGrove, if_neg hx]

theorem State.timAdvance_parks {g : Nat} (s : State) (k n : Nat) : Parks g s (s.timAdvance g k n) := by
  unfold State.timAdvance
  dsimp only
  split
  · exact .refl g s
  · next hc =>
    have arm : (s.timer g k).armed = true := by
      simp only [Bool.or_eq_true, Bool.not_eq_true', not_or, Bool.not_eq_false] at hc
      exact hc.1.1.2
    have no : ∀ c d, (s.timer g k).armed = false → c = (s.timer g k).cnt ∧ d = (s.timer g k).due :=
      fun c d h => by rw [arm] at h; cases h
    split
    · exact .setTimer s k _ ⟨_, _, (s.timer g k).edges, rfl, no _ _⟩
    · exact .setTimer s k _ ⟨_, (s.timer g k).due, (s.timer g k).edges, rfl, no _ _⟩

theorem State.timEdges_parks {g : Nat} (s : State) (ns k : Nat) : Parks g s (s.timEdges g ns k) := by
  have one : ∀ e, Parks g s (s.setTimer g k { s.timer g k with edges := e }) :=
    fun e => .setTimer s k _ ⟨(s.timer g k).cnt, (s.timer g k).due, e, rfl, fun _ => ⟨rfl, rfl⟩⟩
  unfold State.timEdges
  dsimp only
  exact .ite _ (.refl g s) (.ite _ (one _) (one _))

theorem State.timersAdvance_parks {g : Nat} (s : State) (src n : Nat) : Parks g s (s.timersAdvance g src n) :=
  .foldl _ _ (fun s k _ => .ite _ (State.timAdvance_parks s k n) (.refl g s)) s

theorem State.timCycles_parks {g : Nat} : ∀ (l : List Nat) (s : State) (p : Nat), Parks g s (s.timCycles g p l)
  | [], s, _ => .refl g s
  | q :: l, s, _ =>
    Parks.trans
      (((State.timersAdvance_parks s 0 _).trans (State.timersAdvance_parks _ 1 1)).trans
        (.foldl _ _ (fun s k _ => State.timEdges_parks s _ k) _))
      (State.timCycles_parks l _ q)

/-- The cycles of a grove that begin change only the counts and edges of its timer channels. -/
theorem State.timReach_parks {g : Nat} (s : State) (b : Nat) : Parks g s (s.timReach g b) :=
  .ite _ (.refl g s) (State.timCycles_parks _ s _)

/-- Cycles of a grove leave every thread. -/
theorem State.timReach_thread (s : State) (g b x : Nat) : (s.timReach g b).thread x = s.thread x := by
  have keep : ∀ (α : Type) (f : State → α → State) (hf : ∀ s a, (f s a).thread x = s.thread x) (l : List α) (s : State),
      (l.foldl f s).thread x = s.thread x := by
    intro α f hf l
    induction l with
    | nil => intro s; rfl
    | cons a l ih => intro s; exact (ih _).trans (hf s a)
  have adv : ∀ (s : State) (k n : Nat), (s.timAdvance g k n).thread x = s.thread x := by
    intro s k n
    unfold State.timAdvance
    dsimp only
    split
    · rfl
    · split <;> rfl
  have all : ∀ (s : State) (src n : Nat), (s.timersAdvance g src n).thread x = s.thread x := by
    intro s src n
    refine keep _ _ (fun s k => ?_) _ s
    split
    · exact adv s k n
    · rfl
  have edge : ∀ (s : State) (ns k : Nat), (s.timEdges g ns k).thread x = s.thread x := by
    intro s ns k
    unfold State.timEdges
    dsimp only
    split
    · rfl
    · split <;> rfl
  have cyc : ∀ (l : List Nat) (s : State) (p : Nat), (s.timCycles g p l).thread x = s.thread x := by
    intro l
    induction l with
    | nil => intro s p; rfl
    | cons q l ih =>
      intro s p
      refine (ih _ q).trans ?_
      unfold State.timCycle
      exact (keep _ _ (fun s k => edge s _ k) _ _).trans ((all _ 1 1).trans (all s 0 _))
  unfold State.timReach
  split
  · rfl
  · exact cyc _ s _

/-- A wait of the first case of R262 that ends leaves everything else of the thread and the unit. -/
theorem State.cancelWait_parks {g : Nat} (s : State) (th : Nat) (hg : thG th = g) : Parks g s (s.cancelWait th) := by
  have fin : ∀ v : State, Parks g v (v.modThread th (fun t => { t with wait := .ready, outst := none, sendW := 0 })) :=
    fun v => Parks.modThread v th _ hg (.of ⟨.ready, none, 0, (v.thread th).parkReq, (v.thread th).halted, (v.thread th).hcause,
      (v.thread th).haltReq, (v.thread th).step, rfl⟩ (fun _ _ h => by cases h))
  have go : ∀ v : State, Parks g v (match (v.thread th).wait with
      | .lock _ | .event _ | .chanR _ | .chanW _ => v.modThread th (fun t => { t with wait := .ready, outst := none, sendW := 0 })
      | _ => v) := by
    intro v
    split
    · exact fin v
    · exact fin v
    · exact fin v
    · exact fin v
    · exact .refl g v
  unfold State.cancelWait
  refine Parks.trans ?_ (go _)
  dsimp only
  split
  · exact .setLock _ _ _ _ _ rfl
  · exact .setChan _ _ _ _ _ rfl
  · exact .setChan _ _ _ _ _ rfl
  · exact .refl g s

theorem State.parkCheck_parks {g : Nat} (s : State) (th : Nat) (hg : thG th = g) : Parks g s (s.parkCheck th) := by
  unfold State.parkCheck
  refine .ite _ ((State.cancelWait_parks s th hg).trans (Parks.modThread _ th _ hg ?_)) (.refl g s)
  exact (Thread.Bystander.of ⟨.parked, _, _, false, _, _, _, _, rfl⟩ (fun _ _ h => by cases h)).trans (.stopHalt _)

theorem State.waitCheck_parks {g : Nat} (s : State) (th : Nat) (hg : thG th = g) : Parks g s (s.waitCheck th) := by
  unfold State.waitCheck
  exact .ite _ (State.cancelWait_parks s th hg) (.refl g s)

/-- The threads that threadsOf names are of the grove, and satisfy the condition. -/
theorem State.mem_threadsOf {s : State} {g : Nat} {f : Thread → Bool} {x : Nat} (h : x ∈ s.threadsOf g f) :
    thG x = g ∧ f (s.thread x) = true := by
  unfold State.threadsOf at h
  simp only [List.mem_filter, List.mem_map, Bool.and_eq_true, decide_eq_true_eq] at h
  obtain ⟨⟨e, ⟨-, ⟨hg, -⟩, -⟩, rfl⟩, hf⟩ := h
  exact ⟨hg, hf⟩

/-- A thread passes the WAITE that it waited in at the beginning. -/
theorem Thread.Bystander.passLate {t x : Thread} {f : Nat} (h : t.Bystander x) (hw : t.wait = .event f) :
    t.Bystander (x.adv 2).wake := by
  obtain ⟨⟨w, o, sw, p, hh, hc, hr, st, li, pc, e⟩, l1, -⟩ := h
  refine ⟨?_, fun i hi => ?_, fun k => absurd hw (k f)⟩
  · unfold Thread.wake Thread.stepEnd
    split
    · exact ⟨.ready, o, sw, p, true, 3, hr, none, li, pc + 2, by rw [e]; rfl⟩
    · exact ⟨.ready, o, sw, p, hh, hc, hr, st, li, pc + 2, by rw [e]; rfl⟩
  · have := l1 i hi
    unfold Thread.wake Thread.stepEnd
    split <;> exact this

/-- Threads that wait on a flag in s pass their WAITE one after the other. -/
theorem Parks.endWaits {g f : Nat} {s : State} : ∀ (l : List Nat), (∀ x ∈ l, thG x = g ∧ (s.thread x).wait = .event f) →
    ∀ v, Parks g s v → Parks g s (l.foldl (fun s th => s.endWait th) v)
  | [], _, _, h => h
  | i :: l, hl, v, h => by
    refine Parks.endWaits l (fun x hx => hl x (List.mem_cons_of_mem _ hx)) _ ?_
    have hi := hl i (List.mem_cons_self ..)
    exact {
      rest := by
        show v.modThread i _ = _
        unfold State.modThread State.setThread
        rw [h.rest]
        rfl
      thread := fun x => by
        unfold State.endWait
        rw [State.thread_modThread]
        split
        · next hx => subst hx; exact (h.thread x).passLate hi.2
        · exact h.thread x
      other := fun x hx => by
        unfold State.endWait
        rw [State.thread_modThread, if_neg]
        · exact h.other x hx
        · intro e; subst e; exact hx hi.1
      grove := h.grove, lock := h.lock, chan := h.chan, timer := h.timer, still := h.still }

theorem thG_thid {g c t : Nat} (hg : g < 8) (hc : c < 32) (ht : t < 16) : thG (thid g c t) = g := by
  unfold thG thid; omega

theorem State.settleFlag_parks {g : Nat} (hg : g < 8) (s : State) (f : Nat) (was : Bool) : Parks g s (s.settleFlag g f was) := by
  unfold State.settleFlag
  refine .ite _ (.refl g s) ?_
  dsimp only
  have h := Parks.endWaits (s.threadsOf g (fun t => decide (t.wait = .event f)))
    (fun x hx => ⟨(State.mem_threadsOf hx).1, by simpa using (State.mem_threadsOf hx).2⟩) s (.refl g s)
  refine .ite _ (h.trans (Parks.modThread _ _ _ (thG_thid hg ?_ ?_) (.setLine _ _))) h
  · unfold fld; exact Nat.lt_of_lt_of_le (Nat.mod_lt _ (by decide)) (by decide)
  · unfold fld; exact Nat.lt_of_lt_of_le (Nat.mod_lt _ (by decide)) (by decide)

theorem Parks.setBeat (g : Nat) (s : State) (b : Beat) : Parks g s (s.setBeat g b) :=
  ⟨rfl, (Parks.refl g s).thread, (Parks.refl g s).other, (Parks.refl g s).grove, (Parks.refl g s).lock, (Parks.refl g s).chan,
    (Parks.refl g s).timer, (Parks.refl g s).still⟩

theorem State.closeCycle_parks {g : Nat} (hg : g < 8) (s : State) : Parks g s (s.closeCycle g) := by
  unfold State.closeCycle
  exact .ite _ ((Parks.setBeat g s _).trans (Parks.foldl _ _ (fun s i _ => State.settleFlag_parks hg s i _) _)) (.refl g s)

/-- u is s but for its cores, counters and stall marks. -/
def CoreParts (s u : State) : Prop := u = { s with cores := u.cores, ctrs := u.ctrs, stalls := u.stalls }

theorem CoreParts.trans {s u v : State} (a : CoreParts s u) (b : CoreParts u v) : CoreParts s v := by
  unfold CoreParts at *; rw [b, a]

theorem CoreParts.ite {s u v : State} (c : Prop) [Decidable c] (a : CoreParts s u) (b : CoreParts s v) :
    CoreParts s (if c then u else v) := by
  split
  · exact a
  · exact b

theorem CoreParts.count (s : State) (a n : Nat) : CoreParts s (s.count a n) := rfl
theorem CoreParts.modCore (s : State) (k : Nat) (f : Core → Core) : CoreParts s (s.modCore k f) := rfl
theorem CoreParts.setStall (s : State) (g : Nat) (v : Stall) : CoreParts s (s.setStall g v) := rfl

theorem State.coreTurn_keeps (s : State) (g c : Nat) (sel : Sel) : CoreParts s (s.coreTurn g c sel) := by
  have h : ∀ v, CoreParts v (if sel.t.isSome then v.setStall g {} else v) := fun v => CoreParts.ite _ (.setStall _ _ _) rfl
  exact ((CoreParts.modCore _ _ _).trans (h _)).trans ((CoreParts.count _ _ _).trans (CoreParts.ite _ (.count _ _ _) rfl))

/-- The end of a core cycle: the core's wheel and the core's counters move, then threads may park, and with the last core of the grove
the flags settle. -/
theorem State.coreTick_parks (s : State) {g c : Nat} (hg : g < 8) (hc : c < 32) (sel : Sel) :
    ∃ v : State, CoreParts s v ∧ Parks g v (s.coreTick g c sel) := by
  refine ⟨_, State.coreTurn_keeps s g c sel, Parks.trans (Parks.foldl _ _ (fun s t ht => ?_) _) (State.closeCycle_parks hg _)⟩
  refine State.parkCheck_parks s _ (thG_thid hg hc ?_)
  simpa [upto] using ht

/-! ## The beginning of the cycle -/

/-- u is s but for what its cores hold. -/
def OnlyCores (s u : State) : Prop := u = { s with cores := u.cores }

theorem OnlyCores.trans {s u v : State} (a : OnlyCores s u) (b : OnlyCores u v) : OnlyCores s v := by
  unfold OnlyCores at *; rw [b, a]

theorem State.lookAhead_cores (s : State) (g c : Nat) : OnlyCores s (s.lookAhead g c) := rfl

/-- A cycle that begins ends waits, and its choices change the cores. -/
theorem State.openCycle_parks (s : State) (g : Nat) : ∃ v, Parks g s v ∧ OnlyCores v (s.openCycle g) := by
  have fold : ∀ (l : List Nat) (v : State), OnlyCores v (l.foldl (fun s c => s.lookAhead g c) v) := by
    intro l
    induction l with
    | nil => intro v; rfl
    | cons x l ih => intro v; exact (State.lookAhead_cores v g x).trans (ih _)
  unfold State.openCycle
  split
  · exact ⟨s, .refl g s, rfl⟩
  · dsimp only
    refine ⟨_, Parks.trans ?_ (Parks.setBeat g _ _), fold _ _⟩
    exact (Parks.foldl _ _ (fun v x hx => State.waitCheck_parks v x (State.mem_threadsOf hx).1) s).trans
      ((State.timReach_parks _ _).trans (Parks.setBeat g _ _))

/-- A thread that waits on nothing is not touched as a cycle begins. -/
theorem State.openCycle_ready (s : State) (g th : Nat) (h : (s.thread th).wait = .ready) : (s.openCycle g).thread th = s.thread th := by
  have wait : ∀ (v : State) (x : Nat), (v.thread th).wait = .ready → (v.waitCheck x).thread th = v.thread th := by
    intro v x hv
    by_cases hx : x = th
    · subst hx
      unfold State.waitCheck
      rw [hv]
      rfl
    · have keep : (v.cancelWait x).thread th = v.thread th := by
        have one : ∀ u : State, ∀ f, (u.modThread x f).thread th = u.thread th := fun u f => by
          rw [State.thread_modThread, if_neg (fun e => hx e.symm)]
        unfold State.cancelWait
        dsimp only
        split <;> split <;> first | rfl | exact one _ _
      unfold State.waitCheck
      split <;> split <;> first | exact keep | rfl
  have fold : ∀ (l : List Nat) (v : State), (v.thread th).wait = .ready →
      (l.foldl (fun s x => s.waitCheck x) v).thread th = v.thread th := by
    intro l
    induction l with
    | nil => intro v _; rfl
    | cons x l ih =>
      intro v hv
      have e := wait v x hv
      exact (ih _ (by rw [e]; exact hv)).trans e
  have beat : ∀ (v : State) (b : Beat), ((v.beatOn g).setBeat g b).thread th = v.thread th := fun _ _ => rfl
  have cores : ∀ (l : List Nat) (v : State), (l.foldl (fun s c => s.lookAhead g c) v).thread th = v.thread th := by
    intro l
    induction l with
    | nil => intro v; rfl
    | cons x l ih => intro v; exact ih _
  unfold State.openCycle
  split
  · rfl
  · dsimp only
    rw [cores]
    refine (beat _ _).trans ?_
    refine (State.timReach_thread _ g _ th).trans ?_
    exact fold _ s h

/-- A thread that issues an instruction waits on nothing. -/
theorem State.issue_ready {s : State} {th : Nat} {mn : Mn} (hth : th < 4096) (h : (s.issue th mn).isSome = true) :
    (s.thread th).wait = .ready := by
  have hid : thid (thG th) (thC th) (thT th) = th := by unfold thid thG thC thT; omega
  unfold State.issue at h
  dsimp only at h
  split at h
  · next hc =>
    simp only [Bool.and_eq_true, decide_eq_true_eq, Option.isNone_iff_eq_none] at hc
    obtain ⟨⟨-, ht⟩, hn⟩ := hc
    unfold State.dueNow at hn
    unfold State.choice at ht hn
    dsimp only at ht hn
    cases hm : (s.made (thG th) (thC th)).t with
    | none => rw [hm] at ht; dsimp only at ht; rw [hm] at ht; cases ht
    | some t =>
      rw [hm] at ht hn
      dsimp only at ht hn
      split at ht
      · next hr =>
        rw [hm] at ht
        cases ht
        rw [hid] at hr hn
        rw [if_pos hr] at hn
        unfold State.readyAs at hr
        dsimp only at hr
        rw [hn] at hr
        simp only [Bool.and_eq_true, decide_eq_true_eq] at hr
        exact hr.2
      · cases ht
  · cases h

/-! ## The step itself -/

/-- The state in which an instruction's own effect is computed: the cycle has begun, the corrections of the fetched word and of the
registers read are counted, and a corrected word of the instruction store is written back (R157, R264, R503). -/
structure Corrects (th : Nat) (s u : State) : Prop where
  rest : u = { s with threads := u.threads, groves := u.groves, cores := u.cores, ctrs := u.ctrs, beats := u.beats }
  self : (s.thread th).wait = .ready → u.thread th = s.thread th
  thread : ∀ x, (s.thread x).Bystander (u.thread x)
  other : ∀ x, thG x ≠ thG th → u.thread x = s.thread x
  grove : ∀ g, ∃ i l c t, u.grove g = { s.grove g with iecc := i, locks := l, chans := c, timers := t }
  lock : ∀ h k, (u.lock h k).holder = (s.lock h k).holder
  chan : ∀ h k, (u.chan h k).msgs = (s.chan h k).msgs
  timer : ∀ h k, (s.timer h k).Passes (u.timer h k)
  still : ∀ h k, h ≠ thG th → u.timer h k = s.timer h k

theorem Corrects.refl (th : Nat) (s : State) : Corrects th s s where
  rest := rfl
  self _ := rfl
  thread _ := .refl _
  other _ _ := rfl
  grove g := ⟨(s.grove g).iecc, (s.grove g).locks, (s.grove g).chans, (s.grove g).timers, rfl⟩
  lock _ _ := rfl
  chan _ _ := rfl
  timer _ _ := .refl _
  still _ _ _ := rfl

theorem Corrects.trans {th : Nat} {s u v : State} (a : Corrects th s u) (b : Corrects th u v) : Corrects th s v where
  rest := by rw [b.rest, a.rest]
  self h := by
    have e := a.self h
    exact (b.self (by rw [e]; exact h)).trans e
  thread x := (a.thread x).trans (b.thread x)
  other x h := (b.other x h).trans (a.other x h)
  grove g := by
    obtain ⟨i, l, c, t, e⟩ := a.grove g
    obtain ⟨i', l', c', t', e'⟩ := b.grove g
    exact ⟨i', l', c', t', by rw [e', e]⟩
  lock h k := (b.lock h k).trans (a.lock h k)
  chan h k := (b.chan h k).trans (a.chan h k)
  timer h k := (a.timer h k).trans (b.timer h k)
  still h k hg := (b.still h k hg).trans (a.still h k hg)

theorem Corrects.count (th : Nat) (s : State) (a n : Nat) : Corrects th s (s.count a n) :=
  ⟨rfl, (Corrects.refl th s).self, (Corrects.refl th s).thread, (Corrects.refl th s).other, (Corrects.refl th s).grove,
    (Corrects.refl th s).lock, (Corrects.refl th s).chan, (Corrects.refl th s).timer, (Corrects.refl th s).still⟩

theorem Corrects.openCycle (th : Nat) (s : State) : Corrects th s (s.openCycle (thG th)) := by
  obtain ⟨v, hp, ho⟩ := State.openCycle_parks s (thG th)
  have ht : ∀ x, (s.openCycle (thG th)).thread x = v.thread x := fun x => by rw [ho]; rfl
  have hg : ∀ x, (s.openCycle (thG th)).grove x = v.grove x := fun x => by rw [ho]; rfl
  have hl : ∀ x k, (s.openCycle (thG th)).lock x k = v.lock x k := fun x k => by rw [ho]; rfl
  have hc : ∀ x k, (s.openCycle (thG th)).chan x k = v.chan x k := fun x k => by rw [ho]; rfl
  have htm : ∀ x k, (s.openCycle (thG th)).timer x k = v.timer x k := fun x k => by rw [ho]; rfl
  exact {
    rest := by rw [ho, hp.rest]
    self := State.openCycle_ready s (thG th) th
    thread := fun x => by rw [ht]; exact hp.thread x
    other := fun x h => by rw [ht]; exact hp.other x h
    grove := fun g => by
      obtain ⟨l, c, t, e⟩ := hp.grove g
      exact ⟨(s.grove g).iecc, l, c, t, by rw [hg, e]⟩
    lock := fun h k => by rw [hl]; exact hp.lock h k
    chan := fun h k => by rw [hc]; exact hp.chan h k
    timer := fun h k => by rw [htm]; exact hp.timer h k
    still := fun h k hn => by rw [htm]; exact hp.still h k hn }

theorem State.correctRegs_corrects (s : State) (th x : Nat) (f : FInstr) : Corrects x s (s.correctRegs th f) := by
  unfold State.correctRegs
  dsimp only
  split
  · exact .refl x s
  · exact .count x s _ _

/-- A cycle that begins has no word of the instruction store to keep (R193). -/
theorem State.openCycle_olds (s : State) (g : Nat) (h : (s.beat g).inCycle = false) : ((s.openCycle g).beat g).olds = [] := by
  have fold : ∀ (l : List Nat) (v : State), (l.foldl (fun s c => s.lookAhead g c) v).beat g = v.beat g := by
    intro l
    induction l with
    | nil => intro v; rfl
    | cons x l ih => intro v; exact ih _
  unfold State.openCycle
  rw [if_neg (by rw [h]; decide)]
  dsimp only
  rw [fold]
  unfold State.beat State.setBeat
  rw [mget_mput, if_pos rfl]

/-- A cycle that begins leaves the words of the instruction store as a fetch sees them. -/
theorem State.isWord_openCycle (s : State) (g w : Nat) : (s.openCycle g).isWord g w = s.isWord g w := by
  cases h : (s.beat g).inCycle with
  | true =>
    unfold State.openCycle
    rw [if_pos h]
  | false =>
    obtain ⟨v, hp, ho⟩ := State.openCycle_parks s g
    obtain ⟨l, c, t, e⟩ := hp.grove g
    have hg : (s.openCycle g).grove g = { s.grove g with locks := l, chans := c, timers := t } := by rw [ho]; exact e
    unfold State.isWord
    rw [State.openCycle_olds s g h, hg, h]
    simp

/-- A fetch reads the thread's PC and S bit, the instruction store and the registers alone. -/
theorem State.fetch_openCycle (s : State) (th : Nat) (h : (s.thread th).wait = .ready) :
    (s.openCycle (thG th)).fetch th = s.fetch th := by
  obtain ⟨v, hp, ho⟩ := State.openCycle_parks s (thG th)
  have hx : ∀ k, (s.openCycle (thG th)).xPresent k = s.xPresent k := fun k => by rw [ho, hp.rest]; rfl
  unfold State.fetch
  dsimp only
  rw [State.openCycle_ready s (thG th) th h, State.isWord_openCycle, hx]

/-- A step issues only from a word without an uncorrectable error, so its fetch corrects at most. -/
theorem State.fetchEcc_corrects {s : State} {th : Nat} (x : Nat) {f : FInstr} (h : s.fetch th = .instr f) :
    Corrects x s (s.fetchEcc th) := by
  unfold State.fetch at h
  unfold State.fetchEcc
  dsimp only at h ⊢
  split
  · exact .refl x s
  · next h0 =>
    rw [if_neg h0] at h
    split
    · refine Corrects.trans (u := s.modGrove (thG th) _) { Corrects.refl x s with rest := rfl, grove := fun g => ?_, lock := fun g k => ?_, chan := fun g k => ?_, timer := fun g k => ?_, still := fun g k _ => ?_ } (.count x _ _ _)
      · rw [State.grove_modGrove]
        split
        · next hg => subst hg; exact ⟨_, (s.grove (thG th)).locks, (s.grove (thG th)).chans, (s.grove (thG th)).timers, rfl⟩
        · exact (Corrects.refl x s).grove g
      · unfold State.lock
        rw [State.grove_modGrove]
        split
        · next hg => subst hg; rfl
        · rfl
      · unfold State.chan
        rw [State.grove_modGrove]
        split
        · next hg => subst hg; rfl
        · rfl
      · unfold State.timer
        rw [State.grove_modGrove]
        split
        · next hg => subst hg; exact .refl _
        · exact .refl _
      · unfold State.timer
        rw [State.grove_modGrove]
        split
        · next hg => subst hg; rfl
        · rfl
    · next h2 => rw [if_pos h2] at h; cases h
    · exact .refl x s

/-- What a step of an instruction does: its body runs on the corrected state and closes, then the core cycle ends. -/
theorem State.Executes.runInstr {s : State} {th : Nat} {mn : Mn} {f : FInstr} (hth : th < 4096) (h : s.Executes th mn f)
    (body : FInstr → State → Outc) :
    f.mn = mn ∧ (s.thread th).wait = .ready ∧ ∃ p sel, Corrects th s p ∧
      s.runInstr th mn body = (closeStep th f (body f p)).coreTick (thG th) (thC th) sel := by
  obtain ⟨hi, hc, hb⟩ := h
  unfold State.runInstr
  cases he : s.issue th mn with
  | none => rw [he] at hi; cases hi
  | some fs =>
    have hr := State.issue_ready hth (mn := mn) (by rw [he]; rfl)
    obtain ⟨f', sel⟩ := fs
    rw [he] at hi
    simp only [Option.map_some, Option.some.injEq] at hi
    subst hi
    unfold State.issue at he
    dsimp only at he
    split at he
    · split at he
      · next hf =>
        split at he
        · next hm =>
          cases he
          have c0 := Corrects.openCycle th s
          have hf' := (State.fetch_openCycle s th hr).trans hf
          have c1 := c0.trans (State.fetchEcc_corrects th hf')
          refine ⟨hm, hr, _, s.choice (thG th) (thC th), c1.trans (State.correctRegs_corrects _ th th f'), ?_⟩
          dsimp only
          unfold State.stepOf
          dsimp only
          rw [c1.self hr, hc, hb]
          rfl
        · cases he
      · cases he
    · cases he


/-! ## The end of a step that is made -/

theorem Thread.stepEnd_greg (t : Thread) (r : Nat) : t.stepEnd.greg r = t.greg r := by
  unfold Thread.stepEnd; split <;> rfl
theorem Thread.stepEnd_pc (t : Thread) : t.stepEnd.pc = t.pc := by unfold Thread.stepEnd; split <;> rfl
theorem Thread.stepEnd_status (t : Thread) : t.stepEnd.status = t.status := by unfold Thread.stepEnd; split <;> rfl
theorem Thread.promote_greg (t : Thread) (r : Nat) : t.promote.greg r = t.greg r := by
  unfold Thread.promote; split <;> rfl
theorem Thread.promote_pc (t : Thread) : t.promote.pc = t.pc := by unfold Thread.promote; split <;> rfl
theorem Thread.promote_status (t : Thread) : t.promote.status = t.status := by unfold Thread.promote; split <;> rfl
theorem Thread.setGreg_pc (t : Thread) (r : Nat) (v : Word) : (t.setGreg r v).pc = t.pc := by
  unfold Thread.setGreg; split <;> rfl
theorem Thread.setGreg_status (t : Thread) (r : Nat) (v : Word) : (t.setGreg r v).status = t.status := by
  unfold Thread.setGreg; split <;> rfl
theorem Thread.setGreg_landing (t : Thread) (r : Nat) (v : Word) : (t.setGreg r v).landing = t.landing := by
  unfold Thread.setGreg; split <;> rfl

/-- The pending load lands in its register (R160). -/
theorem Thread.land_greg (t : Thread) (r : Nat) (h : r ≠ 0) : t.land.greg r = t.after r (t.greg r) := by
  unfold Thread.land Thread.after
  cases hl : t.landing with
  | none => rfl
  | some l =>
    have key : ∀ o, ({ t with landing := none, outst := o }.setGreg l.reg l.val).greg r =
        if l.reg = r then l.val else t.greg r := by
      intro o
      rw [Thread.greg_setGreg]
      by_cases hr : r = l.reg
      · rw [if_pos ⟨h, hr⟩, if_pos hr.symm]
      · rw [if_neg (fun hh => hr hh.2), if_neg (fun hh => hr hh.symm)]; rfl
    dsimp only
    split <;> exact key _

theorem Thread.land_pc (t : Thread) : t.land.pc = t.pc := by
  unfold Thread.land
  split
  · rfl
  · dsimp only
    split
    · exact Thread.setGreg_pc _ _ _
    · exact Thread.setGreg_pc _ _ _

theorem Thread.land_status (t : Thread) :
    t.land.status = match t.landing with
      | some { p := some p, .. } => setBit t.status 4 p
      | _ => t.status := by
  unfold Thread.land
  cases hl : t.landing with
  | none => rfl
  | some l =>
    obtain ⟨reg, val, p⟩ := l
    cases p with
    | none => exact Thread.setGreg_status _ _ _
    | some p => dsimp only; rw [Thread.setGreg_status]

/-- The last step of an instruction, the only one of most, lands the pending load. -/
theorem Thread.endStep_last (t : Thread) (mn : Mn) (h : (mn.multi && t.within) = false) :
    t.endStep mn = ({ t with tried := false, bskip := decide (mn = .retx) } : Thread).land.promote.stepEnd := by
  unfold Thread.endStep
  have hw : ({ t with tried := false, bskip := decide (mn = .retx) } : Thread).within = t.within := rfl
  dsimp only
  rw [hw, h]
  rfl

theorem Thread.endStep_greg (t : Thread) (mn : Mn) (h : (mn.multi && t.within) = false) (r : Nat) (hr : r ≠ 0) :
    (t.endStep mn).greg r = t.after r (t.greg r) := by
  rw [Thread.endStep_last t mn h, Thread.stepEnd_greg, Thread.promote_greg]
  exact Thread.land_greg _ r hr

theorem Thread.endStep_pc (t : Thread) (mn : Mn) : (t.endStep mn).pc = t.pc := by
  unfold Thread.endStep
  dsimp only
  split
  · rfl
  · rw [Thread.stepEnd_pc, Thread.promote_pc, Thread.land_pc]

theorem Thread.endStep_status (t : Thread) (mn : Mn) (h : (mn.multi && t.within) = false) :
    (t.endStep mn).status = t.land.status := by
  rw [Thread.endStep_last t mn h, Thread.stepEnd_status, Thread.promote_status, Thread.land_status, Thread.land_status]

/-- A thread after the end of a core cycle in which it made a step, or did not. -/
theorem Parks.greg {g : Nat} {s u : State} (h : Parks g s u) (x r : Nat) : (u.thread x).greg r = (s.thread x).greg r :=
  (h.thread x).greg r
theorem Parks.pc {g : Nat} {s u : State} (h : Parks g s u) (x : Nat) (hw : ∀ f, (s.thread x).wait ≠ .event f) :
    (u.thread x).pc = (s.thread x).pc := (h.thread x).keepsPc hw
theorem Parks.status {g : Nat} {s u : State} (h : Parks g s u) (x : Nat) : (u.thread x).status = (s.thread x).status :=
  (h.thread x).status

/-- A step that is made: the next state is that of its body with the thread's step ended, and then the core cycle ends. -/
theorem State.Executes.done {s : State} {th : Nat} {mn : Mn} {f : FInstr} (hth : th < 4096) (h : s.Executes th mn f)
    {body : FInstr → State → Outc} (Q : State → Prop) (hb : ∀ p, Corrects th s p → ∃ q, body f p = .done q ∧ Q q) :
    f.mn = mn ∧ (s.thread th).wait = .ready ∧ ∃ q v, Q q ∧ CoreParts (q.modThread th (fun t => t.endStep mn)) v ∧
      Parks (thG th) v (s.runInstr th mn body) := by
  obtain ⟨hm, hr, p, sel, hp, e⟩ := h.runInstr hth body
  obtain ⟨q, hq, hQ⟩ := hb p hp
  rw [hq] at e
  have hg : thG th < 8 := by unfold thG; omega
  have hc : thC th < 32 := by unfold thC; omega
  obtain ⟨v, hv, hk⟩ := State.coreTick_parks (closeStep th f (.done q)) hg hc sel
  refine ⟨hm, hr, q, v, hQ, ?_, e ▸ hk⟩
  unfold closeStep at hv
  rwa [hm] at hv

end Sys2Proof.Machine
end

