-- ==== Sys2Proof/Laws/Time.lean ====
section
/-!
SUPPORT. The islands' copies of Block Time: where they stand beside the master, and what is read from them (R357).
-/
namespace Sys2Proof.Machine

variable (s : State)

/-- A copy stands at d - 2 units from the master, for some d up to 4. -/
theorem State.copyOf_near (i : Nat) : ∃ d, d < 5 ∧ s.copyOf i = s.now + d - 2 := by
  by_cases h0 : i = 0
  · exact ⟨2, by omega, by simp [State.copyOf, State.copyWhen, h0]⟩
  · refine ⟨min 2 (s.time.skews[i]?.getD 0) + 2 - Config.copySkew 0 0 % 3, by omega, ?_⟩
    have := Nat.mod_lt (Config.copySkew 0 0) (by decide : 3 > 0)
    simp only [State.copyOf, State.copyWhen, h0, if_false]
    omega

/-- Any two copies differ by at most 2 units, when Block Time is not within 2 units of zero. -/
theorem State.copies_near (i j : Nat) (h : 2 ≤ s.now) : s.copyOf i ≤ s.copyOf j + 2 := by
  have := Nat.mod_lt (Config.copySkew 0 0) (by decide : 3 > 0)
  unfold State.copyOf State.copyWhen
  split <;> split <;> omega

/-- What `onCopy` gives is what f gives on the copy. -/
theorem State.onCopy_eq {α : Type} [DecidableEq α] (i : Nat) (f : Nat → α) : s.onCopy i f = f (s.copyOf i) := by
  unfold State.onCopy
  split
  · rename_i hall
    obtain ⟨d, hd, e⟩ := s.copyOf_near i
    have hm : ∀ x, x < 5 → f (s.now + x - 2) = f (s.now - 2) := fun x hx =>
      of_decide_eq_true (List.all_eq_true.mp hall x (by simpa [upto] using hx))
    rw [e]
    exact (hm d hd).symm
  · rfl

end Sys2Proof.Machine
end

