-- ==== Sys2Proof/WellFormed.lean ====
section
/-!
DEFINITION. Commands that the block can be given: a register row names a source that reaches its register (R138, R204, R207, R418,
R508), a slot of the flash holds at most 32 MiB (R429), and an express frame has a start word and one word more (R89).
-/
namespace Sys2Proof

/-- The host or the TAP. -/
def srcHost : Src → Bool
  | .mgmt => true
  | .tap => true
  | .thread _ => false
  | .image => false

/-- The port window is open to every thread (R138). -/
def srcPort : Src → Bool
  | .mgmt => true
  | .tap => true
  | .thread _ => true
  | .image => false

/-- The grove unit window reaches the thread's own grove (R204). -/
def srcGrove (src : Src) (g : Nat) : Bool :=
  match src with
  | .mgmt => true
  | .tap => true
  | .thread th => th.toNat / 512 = g
  | .image => false

/-- The core control window reaches the thread's own core (R207). -/
def srcCore (src : Src) (g c : Nat) : Bool :=
  match src with
  | .mgmt => true
  | .tap => true
  | .thread th => th.toNat / 16 = 32 * g + c
  | .image => false

/-- A thread's own control registers, which no other thread writes (R171, R207). -/
def srcSelf (src : Src) (th : Thid) : Bool :=
  match src with
  | .mgmt => true
  | .tap => true
  | .thread own => own = th
  | .image => false

/-- A slot of the flash. -/
def slotOk (b : List Byte) : Bool := b.length ≤ 2 ^ 25

/-- A command that can be given. -/
def Instr.wf (i : Instr) : Bool :=
  match i with
  | .powerOn => true
  | .srstAssert => true
  | .srstRelease => true
  | .startcmdGo src _ => srcHost src
  | .startReset env => slotOk env.slot0 && slotOk env.slot1
  | .memoryStep nvm _ _ => slotOk nvm
  | .memoryStepTimeout => true
  | .timeAcquisition => true
  | .acquisitionTimeout => true
  | .initialisation => true
  | .initialisationTimeout => true
  | .retryBackoffExpiry => true
  | .initrptWrite src g _ => srcGrove src g.val
  | .llynonWordDelivery _ => true
  | .canopyTick => true
  | .ingressWord _ => true
  | .frameEnd _ => true
  | .sequenceAssignment => true
  | .descriptorIssue => true
  | .groveCreditReturn _ => true
  | .descriptorArrival _ => true
  | .completionAccept _ => true
  | .retirement => true
  | .holtTimeout _ => true
  | .dabandon src g _ => srcGrove src g.val
  | .abandonCompletionEntry _ => true
  | .dommapWrite src _ _ _ => srcHost src
  | .bufcfgWrite src _ _ => srcHost src
  | .shareWrite src _ _ _ => srcHost src
  | .infpeakRead src => srcHost src
  | .copySelect _ => true
  | .pauseLimitExpiry _ _ => true
  | .gateEntryChange _ => true
  | .glswap src _ => srcHost src
  | .gateBankSwap _ => true
  | .gateListWrite src _ _ => srcHost src
  | .etsqRead src _ => srcPort src
  | .portEnableWrite src _ _ => srcHost src
  | .portUp _ => true
  | .drainFlush _ => true
  | .drainComplete _ => true
  | .expressFrame _ words => words.length ≥ 2
  | .duplicateDiscardRequest _ => true
  | .ringcfgWrite src _ _ => srcHost src
  | .rxWord _ _ => true
  | .pinEdge _ _ _ => true
  | .txTransferSlot _ => true
  | .engineMov _ _ => true
  | .shin _ _ => true
  | .shout _ _ => true
  | .wait _ _ => true
  | .jmp _ _ => true
  | .setp _ _ => true
  | .enginePush _ _ => true
  | .pull _ _ => true
  | .cnt _ _ => true
  | .mark _ _ => true
  | .engineReservedFetch _ _ => true
  | .engineSignal _ => true
  | .engineHalt src _ _ _ => srcPort src
  | .engineFlush src _ _ _ => srcPort src
  | .engineResume src _ _ _ => srcPort src
  | .ectlWrite src _ _ _ => srcPort src
  | .estatWrite src _ _ _ => srcPort src
  | .engineStateWrite src _ _ _ _ => srcPort src
  | .pullqWrite src _ _ _ => srcPort src
  | .pushqRead src _ _ => srcPort src
  | .engineStoreWrite src _ _ _ => srcPort src
  | .pecfgWrite src _ _ => srcPort src
  | .slotTableActivate _ _ => true
  | .syncRegisterWrite src g c _ _ => srcCore src g.val c.val
  | .coresyncCore src g c => srcCore src g.val c.val
  | .coresyncThreads src g c _ => srcCore src g.val c.val
  | .loadDataReturn _ => true
  | .storeBufferDrain _ _ => true
  | .storeAcceptance _ => true
  | .storeTimeout _ => true
  | .loadTimeout _ => true
  | .packetWindowRequest _ => true
  | .thcmdStart src th => srcSelf src th
  | .thcmdPark src th => srcSelf src th
  | .thpcWrite src th _ => srcSelf src th
  | .serviceModeRequest src g c => srcCore src g.val c.val
  | .serviceModeEntry _ _ => true
  | .maintenanceModeRequest src g c => srcCore src g.val c.val
  | .maintenanceModeEntry _ _ => true
  | .istoreCommit src _ _ => srcHost src
  | .istoreRead src _ => srcHost src
  | .nop _ => true
  | .add _ => true
  | .adc _ => true
  | .sub _ => true
  | .sbc _ => true
  | .and _ => true
  | .or _ => true
  | .xor _ => true
  | .andn _ => true
  | .shl _ => true
  | .shr _ => true
  | .sar _ => true
  | .rol _ => true
  | .cmp _ => true
  | .tst _ => true
  | .mul _ => true
  | .mov _ => true
  | .neg _ => true
  | .addi _ => true
  | .adci _ => true
  | .subi _ => true
  | .sbci _ => true
  | .andi _ => true
  | .ori _ => true
  | .xori _ => true
  | .andni _ => true
  | .shli _ => true
  | .shri _ => true
  | .sari _ => true
  | .roli _ => true
  | .cmpi _ => true
  | .tsti _ => true
  | .movi _ => true
  | .insi _ => true
  | .ext _ => true
  | .ins _ => true
  | .clz _ => true
  | .sel _ => true
  | .pset _ => true
  | .ldw _ => true
  | .stw _ => true
  | .ld _ => true
  | .st _ => true
  | .stm _ => true
  | .lds _ => true
  | .sts _ => true
  | .push _ => true
  | .pop _ => true
  | .bmov _ => true
  | .macx _ => true
  | .macxI _ => true
  | .macxC _ => true
  | .aadd _ => true
  | .aswp _ => true
  | .b _ => true
  | .call _ => true
  | .jr _ => true
  | .callr _ => true
  | .ret _ => true
  | .retx _ => true
  | .mfc _ => true
  | .mtc _ => true
  | .sync _ => true
  | .trap _ => true
  | .done _ => true
  | .donePark _ => true
  | .lock _ => true
  | .tryl _ => true
  | .unlk _ => true
  | .waite _ => true
  | .sige _ => true
  | .clre _ => true
  | .send _ => true
  | .recv _ => true
  | .parse _ => true
  | .crcf _ => true
  | .csum _ => true
  | .tscf _ => true
  | .helperResult _ => true
  | .lkup _ => true
  | .lookupRequest _ => true
  | .lookupProbeReturn _ => true
  | .lookupResult _ => true
  | .extensionOp _ => true
  | .extensionProbe _ => true
  | .extensionRequestTransfer _ => true
  | .extensionAnswer _ _ _ _ => true
  | .extensionTimeout _ => true
  | .exceptionEntry _ => true
  | .iraiseLines src th _ => srcSelf src th
  | .iraiseNmi src th => srcSelf src th
  | .nmiraise src g _ => srcGrove src g.val
  | .ipendClear src th _ => srcSelf src th
  | .recovWrite src g _ => srcGrove src g.val
  | .hrelPark src g _ => srcGrove src g.val
  | .hrelRetry src g _ => srcGrove src g.val
  | .wdkick src g => srcGrove src g.val
  | .watchdogExpiry _ => true
  | .debugHalt src _ => srcHost src
  | .debugHaltTaken _ => true
  | .debugResume src _ => srcHost src
  | .debugStep src _ _ => srcHost src
  | .abortch src _ => srcHost src
  | .dbgselWrite src _ _ _ => srcHost src
  | .dbgdataCommit src _ _ _ => srcHost src
  | .tapUpdateDr => true
  | .tapReset => true
  | .bownWrite src g _ _ => srcGrove src g.val
  | .handoverComplete _ _ => true
  | .bankClearComplete _ _ => true
  | .eccWriteback _ _ => true
  | .scrubRead _ _ => true
  | .bankWindowRead src g => srcGrove src g.val
  | .bankWindowCommit src g _ => srcGrove src g.val
  | .dmaGo src g _ _ => srcGrove src g.val
  | .dmaStop src g _ _ => srcGrove src g.val
  | .dmaWord _ _ => true
  | .lkrelLock src g _ => srcGrove src g.val
  | .lkrelThread src g _ => srcGrove src g.val
  | .evset src g _ _ => srcGrove src g.val
  | .evclr src g _ _ => srcGrove src g.val
  | .chflush src g _ => srcGrove src g.val
  | .stallCensus _ => true
  | .insert _ => true
  | .replace _ => true
  | .delete _ => true
  | .read _ => true
  | .testins _ => true
  | .scan _ => true
  | .flush _ => true
  | .frebuild _ => true
  | .badop _ => true
  | .lookupCommandComplete _ => true
  | .lkcmdStatusRead _ _ => true
  | .sweepVisit => true
  | .tableEnable src _ _ => srcHost src
  | .tableDisable src _ _ => srcHost src
  | .tblcfgWrite src _ _ => srcHost src
  | .trateWrite src _ => srcHost src
  | .timeStep src _ => srcHost src
  | .timeSlew src _ => srcHost src
  | .slewComplete => true
  | .tsetCommit src _ => srcHost src
  | .timeMirrorWrite _ _ _ => true
  | .ppsEdge _ => true
  | .ppsTimeout => true
  | .recordStage _ => true
  | .recordWrite => true
  | .boundaryMarker _ => true
  | .recorderCommit => true
  | .recorderRegionWrite src _ _ => srcHost src
  | .recrdWrite src _ => srcHost src
  | .timerArm src g _ => srcGrove src g.val
  | .timerDisarm src g _ => srcGrove src g.val
  | .timerCompareCommit src g _ _ => srcGrove src g.val
  | .timerCountCommit src g _ _ => srcGrove src g.val
  | .timerMatch _ _ => true
  | .timerPinAction _ => true
  | .timerCapture _ _ => true
  | .tcapRead src g _ => srcGrove src g.val
  | .goutWrite src g _ => srcGrove src g.val
  | .memoryRequestTransfer _ _ => true
  | .memoryReadResponse _ _ _ _ => true
  | .memoryWriteAck _ _ _ => true
  | .memoryTimeout _ => true
  | .memReadyChange _ _ => true
  | .clockLoss _ => true
  | .clockReturn _ => true
  | .refclkLoss => true
  | .refclkReturn => true
  | .groveGateWrite src _ _ => srcHost src
  | .groveClkoffEntry _ => true
  | .islandWake src _ => srcHost src
  | .islandWakeComplete _ => true
  | .portIslandGateWrite src _ _ => srcHost src
  | .clockPointWrite src _ _ => srcHost src
  | .clockPointChange _ => true
  | .registerWrite src _ _ => srcHost src
  | .latchRead src _ => srcHost src
  | .accessTimeout src _ _ _ => srcHost src
  | .irqtest src _ => srcHost src
  | .idleSlot _ _ => true
  | .managementRead src _ => srcHost src
  | .tckEdge _ _ _ => true
  | .pwrgoodFall => true
  | .islandChangeComplete _ => true

end Sys2Proof
end

