-- ==== Sys2Proof/Tests/Slice0.lean ====
section
/-!
SUPPORT. Tests: the terms that well-formedness refuses, and for every statement of the obligations a state and operands that meet
its hypotheses, clause by clause.
-/
namespace Sys2Proof.Tests
open Sys2Proof.Machine

-- Each evaluation by the kernel waits for the theorems before it, so that elaborating them side by side only holds threads.
set_option Elab.async false

/-! ## Small states -/

/-- The block in service, every island but 2 ON. -/
def svc : State := { State.reset with start := { phase := .service, step := 12, completed := true } }

/-- A short instruction in parcel 0 of a store word (R194). -/
def sht (op d s : Nat) : Word := wordOf (op * 2 ^ 11 + d * 2 ^ 6 + s * 2)

/-- A long instruction in parcels 0 and 1 of a store word (R195). -/
def lng (op d s s2 : Nat) : Word := wordOf (op * 2 ^ 25 + d * 2 ^ 20 + s * 2 ^ 15 + s2)

/-- The choice of thread 0 for the present cycle. -/
def mine : Sel := { t := some 0, won := none, lent := false, due := none }

/-- Thread 0 of core 0 of grove 0 has been chosen for the present slot, which it owns, and finds word w at its PC; the core owns banks 0 and 1 and maps its
logical banks 0 and 1 to them. -/
def runs (w : Word) (mark : BitVec 2) (t : Thread) : State :=
  { svc with
    groves := [(0, { istore := mput 0 [] 0 w, imark := mput 0 [] 0 mark })]
    cores := [(0, { chosen := some mine, slotAct := [(0, 0x10)], bankAct := [(0, 0x0100)] })]
    threads := [(0, { t with wait := .ready })]
    regs := [(0x890000, 0xA0000000), (0x890004, 0xA0000000)] }

/-- The same with a short instruction. -/
def shortState (op d s : Nat) (t : Thread := {}) : State := runs (sht op d s) 0 t
/-- The same with a long instruction. -/
def longState (op d s s2 : Nat) (t : Thread := {}) : State := runs (lng op d s s2) 1 t

/-- The instruction that thread th finds at its PC; a short NOP where it finds a fault. -/
def instrAt (s : State) (th : Nat) : FInstr :=
  match s.fetch th with
  | .instr f => f
  | .fault _ _ _ => { mn := .nop, long := false, cond := 0, d := 0, s := 0, a := 0, b := .reg 0, s2 := 0, raw := 0 }

/-- Thread 0 issues an instruction of mnemonic mn now. -/
abbrev Runs (s : State) (mn : Mn) : Prop := s.Executes 0 mn (instrAt s 0)

/-! ## Helpers that turn a computed check into a hypothesis -/

/-- The host or the TAP reaches a register. -/
theorem reaches_of {s : State} {src : Src} {a : Nat} (h : src = .mgmt ∨ src = .tap)
    (k : (s.pathUp src && s.mgmt.waiting.isEmpty && s.accReady { src := src, addr := BitVec.ofNat 24 a, wr := none } &&
      s.accReady { src := src, addr := BitVec.ofNat 24 a, wr := some 0 } && !s.inReset && (islandOf a).any s.islandOpen) = true) :
    s.HostReaches src a := by
  simp only [Bool.and_eq_true, Bool.not_eq_true', Option.any_eq_true, List.isEmpty_iff] at k
  refine ⟨h, k.1.1.1.1.1, k.1.1.1.1.2, fun wr => ?_, k.1.2, k.2⟩
  cases wr with
  | none => exact k.1.1.1.2
  | some d => exact k.1.1.2

/-- A load reads a word of the scratchpad. -/
theorem spad_of {s : State} {th : Nat} {ea w : Word}
    (k : (match s.checkAccess th ea false with
      | .ok (.spad p _) => mget 0 (s.grove (thG th)).secc p == 0 && w == mget 0 (s.grove (thG th)).scratch p
      | _ => false) && ((s.thread th).sb.all fun e => e.addr.toNat != ea.toNat) = true) : s.SpadReads th ea w := by
  obtain ⟨k, m⟩ := Bool.and_eq_true_iff.mp k
  refine ⟨?_, fun e he => by simpa using List.all_eq_true.mp (of_decide_eq_true m) e he⟩
  revert k
  split
  · rename_i p b hc
    intro k
    simp only [Bool.and_eq_true, beq_iff_eq] at k
    exact ⟨p, b, hc, k.1, k.2⟩
  · intro k
    simp at k

/-- A thread may make its stores. -/
theorem store_of {s : State} {th : Nat} {reqs : List StoreReq} {allow : Target → Bool}
    (k : (decide ((s.thread th).sb.length + reqs.length ≤ 2) && reqs.all fun r =>
      match s.checkAccess th r.ea true with
      | .ok t => allow t
      | _ => false) = true) : s.MayStore th reqs allow := by
  simp only [Bool.and_eq_true, decide_eq_true_eq, List.all_eq_true] at k
  refine ⟨k.1, fun r hr => ?_⟩
  have := k.2 r hr
  revert this
  split
  · rename_i t hc
    intro ht
    exact ⟨t, hc, ht⟩
  · intro hf
    simp at hf

/-- A load reads a word of the scratchpad, or has all its lanes from the youngest buffered store that shares one with it. -/
theorem gives_of {s : State} {th : Nat} {ea w : Word} {lanes : BitVec 8} {allow : Target → Bool}
    (k : (match s.checkAccess th ea false with
      | .ok tg => allow tg && (match (s.thread th).sb with
        | [e] => e.addr.toNat == ea.toNat && e.mask &&& lanes != 0 && e.mask &&& lanes == lanes && w == e.data
        | [] => match tg with
          | .spad p _ => mget 0 (s.grove (thG th)).secc p == 0 && w == mget 0 (s.grove (thG th)).scratch p
          | _ => false
        | _ => false)
      | _ => false) = true) : s.LoadGives th ea lanes allow w := by
  revert k
  split
  · rename_i tg hc
    intro k
    obtain ⟨ka, kb⟩ := Bool.and_eq_true_iff.mp k
    refine ⟨tg, hc, ka, ?_⟩
    revert kb
    split
    · rename_i e he
      intro kb
      simp only [Bool.and_eq_true, beq_iff_eq, bne_iff_ne] at kb
      exact .inr ⟨e, ⟨[], [], he, kb.1.1.1, kb.1.1.2, fun _ m => absurd m List.not_mem_nil⟩, kb.1.2, kb.2⟩
    · rename_i he
      split
      · rename_i p b
        intro kb
        simp only [Bool.and_eq_true, beq_iff_eq] at kb
        exact .inl ⟨by rw [he]; exact fun _ m => absurd m List.not_mem_nil, p, b, rfl, kb.1, kb.2⟩
      · exact fun kb => absurd kb Bool.false_ne_true
    · exact fun kb => absurd kb Bool.false_ne_true
  · exact fun k => absurd k Bool.false_ne_true

/-- A load meets the one buffered store, which holds a part of its lanes. -/
theorem meets_of {s : State} {th : Nat} {ea : Word} {lanes : BitVec 8} {allow : Target → Bool} {e : SbEntry}
    (k : (match s.checkAccess th ea false with
      | .ok tg => allow tg
      | _ => false) && ((s.thread th).sb == [e] && e.addr.toNat == ea.toNat && e.mask &&& lanes != 0 &&
        e.mask &&& lanes != lanes) = true) : s.LoadMeets th ea lanes allow e := by
  obtain ⟨k, m⟩ := Bool.and_eq_true_iff.mp k
  simp only [Bool.and_eq_true, beq_iff_eq, bne_iff_ne, decide_eq_true_eq] at m
  refine ⟨?_, ⟨[], [], m.1.1.1, m.1.1.2, m.1.2, fun _ h => absurd h List.not_mem_nil⟩, m.2⟩
  revert k
  split
  · rename_i tg hc
    exact fun k => ⟨tg, hc, k⟩
  · exact fun k => absurd k Bool.false_ne_true

/-- A load of a thread with an empty store buffer goes to a target outside the scratchpads. -/
theorem goes_of {s : State} {th : Nat} {ea : Word} {lanes : BitVec 8} {allow : Target → Bool} {tg : Target}
    (k : s.checkAccess th ea false = .ok tg ∧ allow tg = true ∧ tg.isSpad = false ∧ (s.thread th).sb = []) :
    s.LoadGoes th ea lanes allow tg :=
  ⟨k.1, k.2.1, k.2.2.1, by rw [k.2.2.2]; exact fun _ m => absurd m List.not_mem_nil⟩

/-- A thread's store to a register stands at the head of its buffer and takes effect now. -/
theorem writes_of {s : State} {x : Thid} {a : Nat} {d : BitVec 32}
    (k : (s.groveOn (thG x.toNat) && (s.thread x.toNat).pendSt.isNone && (s.thread x.toNat).sb.head?.any fun e =>
      e.sent && !e.acc && e.target == .window && e.mask == 0xFF && e.data.setWidth 32 == d &&
        windowReg x.toNat e.addr.toNat == some a && s.windowReady x.toNat e.addr.toNat true) = true) : s.ThreadWrites x a d := by
  simp only [Bool.and_eq_true, Option.isNone_iff_eq_none, Option.any_eq_true] at k
  obtain ⟨⟨kg, kp⟩, e, he, k⟩ := k
  obtain ⟨es, hs⟩ := List.head?_eq_some_iff.mp he
  simp only [beq_iff_eq, Bool.not_eq_true'] at k
  exact ⟨kg, kp, e, es, hs, k.1.1.1.1.1.1, k.1.1.1.1.1.2, k.1.1.1.1.2, k.1.1.1.2, k.1.1.2, k.1.2, k.2⟩

/-- A thread's load of a register waits for its answer, and the target answers now. -/
theorem reads_of {s : State} {x : Thid} {a r : Nat}
    (k : (s.groveOn (thG x.toNat) && (s.thread x.toNat).wait == .load && (s.thread x.toNat).outst.any fun o =>
      o.unit == .window && o.ans == none && o.dest == .land r 0 8 && windowReg x.toNat o.addr.toNat == some a &&
        s.windowReady x.toNat o.addr.toNat false) = true) : s.ThreadReads x a r := by
  simp only [Bool.and_eq_true, Option.any_eq_true, beq_iff_eq] at k
  obtain ⟨⟨kg, kw⟩, o, ho, k⟩ := k
  exact ⟨kg, kw, o, ho, k.1.1.1.1, k.1.1.1.2, k.1.1.2, k.1.2, k.2⟩

/-- A property that a copy of Block Time has wherever it may stand beside the master. -/
theorem copy_cases {s : State} {i : Nat} {P : Nat → Prop} (k : ∀ d, d < 5 → P (s.now + d - 2)) : P (s.copyOf i) := by
  obtain ⟨d, hd, e⟩ := s.copyOf_near i
  exact e ▸ k d hd

/-- No write of the word through the other port of its bank in this cycle. -/
theorem alone_of {s : State} {g phys : Nat} {portB : Bool}
    (k : ((s.grove g).dual.all fun y => y.word != phys || y.portB == portB || y.cycle != ((s.grove g).cyc, (s.beat g).begun)) = true) :
    s.WritesAlone g phys portB :=
  .inr fun y hy hw hb => by
    rw [hy] at k
    simpa [hw, hb] using k

/-- The last core of grove 0 stands before the last step of the grove's cycle, which began with these flags. -/
def lastCore (flags : BitVec 64) (s : State) : State :=
  { s with cores := s.cores ++ (List.range' 1 31).map (fun c => (c, { pos := 1 })), beats := [(0, { begun := 1, inCycle := true, flags := flags })] }

/-! ## Integer instructions -/

/-- g3 the largest signed number, g4 1, g5 72, C set. -/
def intT : Thread := { g := [(3, 0x7FFFFFFFFFFFFFFFFF), (4, 1), (5, 72)], status := 0x80000004 }

/-- Operands of the statement ArithmeticResults. -/
theorem test_arithmetic_meets :
    Runs (shortState 2 3 4 intT) .add ∧
    Runs (longState 16 3 4 32767 intT) .addi ∧
    Runs (longState 1 3 4 (3 * 1024) intT) .adc ∧
    Runs (longState 17 3 4 0 intT) .adci ∧
    Runs (shortState 3 3 4 intT) .sub ∧
    Runs (longState 18 3 4 2 intT) .subi ∧
    Runs (longState 3 3 4 (3 * 1024) intT) .sbc ∧
    Runs (longState 19 3 4 1 intT) .sbci ∧
    Runs (shortState 7 3 3 intT) .cmp ∧
    Runs (longState 28 0 4 1 intT) .cmpi ∧
    Runs (shortState 12 3 0 intT) .neg :=
  by and_intros <;> decide +kernel

/-- Operands of the statement LogicResults. -/
theorem test_logic_meets :
    Runs (shortState 4 3 4 intT) .and ∧
    Runs (longState 20 3 4 1 intT) .andi ∧
    Runs (shortState 5 3 4 intT) .or ∧
    Runs (longState 21 3 4 1 intT) .ori ∧
    Runs (shortState 6 3 3 intT) .xor ∧
    Runs (longState 22 3 4 1 intT) .xori ∧
    Runs (longState 7 3 4 (3 * 1024) intT) .andn ∧
    Runs (longState 23 3 4 1 intT) .andni ∧
    Runs (shortState 8 3 4 intT) .tst ∧
    Runs (longState 29 0 4 1 intT) .tsti ∧
    Runs (longState 14 3 4 (3 * 1024) intT) .mul :=
  by and_intros <;> decide +kernel

/-- Operands of the statement ShiftResults, with the amounts 0, 72 and 127. -/
theorem test_shift_meets :
    Runs (shortState 9 3 0 intT) .shl ∧
    Runs (longState 24 3 4 72 intT) .shli ∧
    Runs (shortState 10 3 5 intT) .shr ∧
    Runs (longState 25 3 4 127 intT) .shri ∧
    Runs (shortState 11 3 5 intT) .sar ∧
    Runs (longState 26 3 4 127 intT) .sari ∧
    Runs (longState 11 3 4 (5 * 1024) intT) .rol ∧
    Runs (longState 27 3 4 0 intT) .roli :=
  by and_intros <;> decide +kernel

/-- Operands of the statement MoveResults. -/
theorem test_move_meets :
    Runs (shortState 1 3 4 intT) .mov ∧
    Runs (longState 30 3 0 32767 intT) .movi ∧
    Runs (longState 31 3 4 32767 intT) .insi ∧
    Runs (longState 35 3 4 (3 * 1024 + 5) intT) .sel ∧
    Runs (shortState 0 0 0 intT) .nop ∧
    Runs (longState 36 0 0 0 intT) .pset :=
  by and_intros <;> decide +kernel

/-- Operands of the statement FieldResults: a field of the whole word, and one at the top. -/
theorem test_field_meets :
    Runs (longState 32 3 4 71 intT) .ext ∧
    Runs (longState 33 3 4 (71 * 128) intT) .ins ∧
    Runs (longState 34 3 4 0 intT) .clz :=
  by and_intros <;> decide +kernel

/-- ADD of the largest number and 1 overflows into the sign, without a carry (R184, R223). -/
theorem test_add_overflows :
    (match exec (.add 0) (shortState 2 3 4 intT) with
      | .next u => ((u.thread 0).greg 3, (u.thread 0).status)
      | _ => (0, 0)) = (0x800000000000000000, 0x8000000A) := by decide +kernel

/-- SAR by 127 gives the sign and takes it as the carry (R223, R224). -/
theorem test_sar_by_127 :
    (match exec (.sari 0) (longState 0x1A 3 4 127 { g := [(4, 0x800000000000000000)] }) with
      | .next u => ((u.thread 0).greg 3, bit (u.thread 0).status 2)
      | _ => (0, false)) = (0xFFFFFFFFFFFFFFFFFF, true) := by decide +kernel

/-! ## Encodings of the manual's examples -/

/-- R192: the fetch word of ADD g3, g4 and of LD g5, [g6 + 3] at parcel 2. -/
theorem test_fetch_example :
    let s := fun pc => runs 0x0505300030000010C8 2 { pc := pc }
    let f := instrAt (s 0) 0
    let g := instrAt (s 2) 0
    (f.mn, f.d, f.s, f.size, g.mn) = (.add, 3, 4, 1, .ld) ∧ (g.d, g.s, g.s2, g.size) = (5, 6, 3, 2) := by decide +kernel

/-- R191 and R202: parcel 3 of that word is the second half of a long instruction: ILLOP, with BADINS in R202's layout (log
entry 78). -/
theorem test_fetch_second_half :
    (match (runs 0x0505300030000010C8 2 { pc := 3 }).fetch 0 with
      | .fault c _ ins => (c, ins)
      | _ => (0, none)) = (causeILLOP, some 0x1050530003) := by decide +kernel

/-- R241 and R248: the parcel of DONE g20, and the encoding of CRCF g9, g0 with TOEND 1. -/
theorem test_decode_done_crcf :
    let f := instrAt (runs 0xB028 0 {}) 0
    let g := instrAt (runs 0x082900800 1 {}) 0
    (f.mn, f.s) = (.done, 20) ∧ (g.mn, g.d, g.s, bit g.s2 11) = (.crcf, 9, 0, true) := by decide +kernel

/-! ## Memory instructions -/

/-- A packet that a thread holds. -/
def dsc (k : Nat) : Desc :=
  { tag := 7 + k, dom := 1, seq := 3, cell := 2, len := 100, its := 0x123456789, err := false, ring := 0, src := 0, cls := 3, port := 4 }

/-- The same state with words in banks 0 and 1, which the core owns. -/
def withMem (s : State) : State :=
  s.modGrove 0 fun v => { v with scratch := [(5, 0x112233445566778899), (6, 7), (20, 9), (21, 11), (4095, 5), (4096, 3), (4097, 13)] }

/-- g3 and g4 as given, g31 the stack pointer 20, limits 10 and 30. -/
def memT (a b : Word) : Thread := { g := [(3, a), (4, b), (5, 0x5555AAAA5555AAAA55), (31, 20)], dsbase := 10, dslim := 30 }

/-- A short instruction over that memory. -/
def memShort (op d s : Nat) (t : Thread) : State := withMem (shortState op d s t)
/-- A long instruction over that memory. -/
def memLong (op d s s2 : Nat) (t : Thread) : State := withMem (longState op d s s2 t)

/-- Operands of LoadResults: the last word of a bank, an offset into the next bank, a stack at its base, and a symbol load up to
the end of a word. -/
theorem test_load_meets :
    Runs (memShort 13 3 4 (memT 0 4095)) .ldw ∧
    State.LoadGives (memShort 13 3 4 (memT 0 4095)) 0 4095 0xFF anyTarget 5 ∧
    Runs (memLong 40 5 3 2 (memT 4095 0)) .ld ∧
    ((memLong 40 5 3 2 (memT 4095 0)).thread 0).addrM (instrAt (memLong 40 5 3 2 (memT 4095 0)) 0) = some (4097, none) ∧
    State.LoadGives (memLong 40 5 3 2 (memT 4095 0)) 0 4097 0xFF anyTarget 13 ∧
    Runs (memShort 16 3 0 { memT 0 0 with dsbase := 20 }) .pop ∧
    State.LoadGives (memShort 16 3 0 { memT 0 0 with dsbase := 20 }) 0 20 0xFF anyTarget 9 ∧
    Runs (memLong 43 5 3 (3 * 4096 + 4) (memT 40 0)) .lds ∧
    (((memLong 43 5 3 (3 * 4096 + 4) (memT 40 0)).thread 0).symAddr (instrAt (memLong 43 5 3 (3 * 4096 + 4) (memT 40 0)) 0)) = (44, 4) ∧
    State.LoadGives (memLong 43 5 3 (3 * 4096 + 4) (memT 40 0)) 0 5 (lanesFrom 4 4) Target.symbols 0x112233445566778899 :=
  ⟨by unfold Runs State.Executes; decide +kernel,
   gives_of (by decide +kernel),
   by unfold Runs State.Executes; decide +kernel,
   by decide +kernel,
   gives_of (by decide +kernel),
   by unfold Runs State.Executes; decide +kernel,
   gives_of (by decide +kernel),
   by unfold Runs State.Executes; decide +kernel,
   by decide +kernel,
   gives_of (by decide +kernel)⟩

/-- A store of the word 0x77 that waits in the store buffer. -/
def held (ea : BitVec 40) (mask : BitVec 8) : SbEntry :=
  { addr := ea, data := 0x77, mask := mask, phys := none, ord := 4, sent := false, acc := false, since := 0 }

/-- A load at g3 or g4 of a thread with one store buffered to word 20, all of it or lane 0 only. -/
def fwdState (s : Thread → State) (mask : BitVec 8) : State := s { memT 18 20 with sb := [held 20 mask] }

/-- A load of an S-mode thread that holds a descriptor, with 2^20 words of external memory. -/
def farState (s : Thread → State) (a b : Word) : State :=
  (s { memT a b with descs := [dsc 0], status := 0x80000000 }).setReg 0xC0004 1

/-- Operands of LoadResults where the word is in the store buffer, partly in it, or in another unit. -/
theorem test_load_targets :
    Runs (fwdState (memShort 13 3 4) 0xFF) .ldw ∧
    State.LoadGives (fwdState (memShort 13 3 4) 0xFF) 0 20 0xFF anyTarget 0x77 ∧
    Runs (fwdState (memShort 13 3 4) 1) .ldw ∧
    State.LoadMeets (fwdState (memShort 13 3 4) 1) 0 20 0xFF anyTarget (held 20 1) ∧
    Runs (farState (memShort 13 3 4) 0 0x100001) .ldw ∧
    State.LoadGoes (farState (memShort 13 3 4) 0 0x100001) 0 0x100001 0xFF anyTarget (.packet 1) ∧
    Runs (farState (memLong 40 5 3 2) 0x8000000003 0) .ld ∧
    ((farState (memLong 40 5 3 2) 0x8000000003 0).thread 0).addrM (instrAt (farState (memLong 40 5 3 2) 0x8000000003 0) 0) = some
      (0x8000000005, none) ∧
    State.LoadGoes (farState (memLong 40 5 3 2) 0x8000000003 0) 0 0x8000000005 0xFF anyTarget (.ext 5) ∧
    Runs (farState (memShort 13 3 4) 0 0x300000) .ldw ∧
    State.LoadGoes (farState (memShort 13 3 4) 0 0x300000) 0 0x300000 0xFF anyTarget (.core 0) ∧
    Runs (fwdState (memLong 40 5 3 2) 0xFF) .ld ∧
    State.LoadGives (fwdState (memLong 40 5 3 2) 0xFF) 0 20 0xFF anyTarget 0x77 ∧
    State.LoadMeets (fwdState (memLong 40 5 3 2) 1) 0 20 0xFF anyTarget (held 20 1) ∧
    Runs (fwdState (memShort 16 3 0) 0xFF) .pop ∧
    State.LoadGives (fwdState (memShort 16 3 0) 0xFF) 0 20 0xFF anyTarget 0x77 ∧
    State.LoadMeets (fwdState (memShort 16 3 0) 1) 0 20 0xFF anyTarget (held 20 1) :=
  ⟨by unfold Runs State.Executes; decide +kernel,
   gives_of (by decide +kernel),
   by unfold Runs State.Executes; decide +kernel,
   meets_of (by decide +kernel),
   by unfold Runs State.Executes; decide +kernel,
   goes_of (by decide +kernel),
   by unfold Runs State.Executes; decide +kernel,
   by decide +kernel,
   goes_of (by decide +kernel),
   by unfold Runs State.Executes; decide +kernel,
   goes_of (by decide +kernel),
   by unfold Runs State.Executes; decide +kernel,
   gives_of (by decide +kernel),
   meets_of (by decide +kernel),
   by unfold Runs State.Executes; decide +kernel,
   gives_of (by decide +kernel),
   meets_of (by decide +kernel)⟩

/-- Operands of LoadResults for LDS of lanes 4 to 7: from the buffer, partly in it, and from the packet window. -/
theorem test_load_symbols :
    Runs (memLong 43 5 3 (3 * 4096 + 4) { memT 160 0 with sb := [held 20 0xF0] }) .lds ∧
    State.LoadGives (memLong 43 5 3 (3 * 4096 + 4) { memT 160 0 with sb := [held 20 0xF0] }) 0 20 (lanesFrom 4 4) Target.symbols
      0x77 ∧
    State.LoadMeets (memLong 43 5 3 (3 * 4096 + 4) { memT 160 0 with sb := [held 20 0x1F] }) 0 20 (lanesFrom 4 4) Target.symbols
      (held 20 0x1F) ∧
    Runs (farState (memLong 43 5 3 (3 * 4096 + 4)) 0x800008 0) .lds ∧
    ((farState (memLong 43 5 3 (3 * 4096 + 4)) 0x800008 0).thread 0).noStep ∧
    ((farState (memLong 43 5 3 (3 * 4096 + 4)) 0x800008 0).thread 0).symAddr (instrAt (farState (memLong 43 5 3 (3 * 4096 + 4))
      0x800008 0) 0) = (0x80000C, 4) ∧
    State.LoadGoes (farState (memLong 43 5 3 (3 * 4096 + 4)) 0x800008 0) 0 0x100001 (lanesFrom 4 4) Target.symbols (.packet 1) :=
  ⟨by unfold Runs State.Executes; decide +kernel,
   gives_of (by decide +kernel),
   meets_of (by decide +kernel),
   by unfold Runs State.Executes; decide +kernel,
   by unfold Thread.noStep; decide +kernel,
   by decide +kernel,
   goes_of (by decide +kernel)⟩

/-- Operands of SplitLoadSteps: 4 symbols from lane 5. -/
theorem test_split_load_meets :
    Runs (memLong 43 5 3 (3 * 4096 + 5) (memT 40 0)) .lds ∧
    State.LoadGives (memLong 43 5 3 (3 * 4096 + 5) (memT 40 0)) 0 5 (lanesFrom 5 3) Target.symbols 0x112233445566778899 ∧
    Runs (memLong 43 5 3 (3 * 4096 + 5) ({ memT 40 0 with latchV := true }.setProg 1)) .lds ∧
    ((memLong 43 5 3 (3 * 4096 + 5) ({ memT 40 0 with latchV := true }.setProg 1)).thread 0).prog = 1 ∧
    State.LoadGives (memLong 43 5 3 (3 * 4096 + 5) ({ memT 40 0 with latchV := true }.setProg 1)) 0 6 (lanesFrom 0 1) Target.symbols 7 ∧
    (((memLong 43 5 3 (3 * 4096 + 5) (memT 40 0)).thread 0).symAddr (instrAt (memLong 43 5 3 (3 * 4096 + 5) (memT 40 0)) 0)) = (45, 4) :=
  ⟨by unfold Runs State.Executes; decide +kernel,
   gives_of (by decide +kernel),
   by unfold Runs State.Executes; decide +kernel,
   by decide +kernel,
   gives_of (by decide +kernel),
   by decide +kernel⟩

/-- Operands of StoreResults, with a post-modified base, a full mask, a stack at its limit and a split STS. -/
theorem test_store_meets :
    Runs (memShort 14 3 4 (memT 4095 7)) .stw ∧
    State.MayStore (memShort 14 3 4 (memT 4095 7)) 0 ([{ ea := 4095, data := 7, mask := 0xFF }]) anyTarget ∧
    Runs (memLong 41 5 3 8193 (memT 5 0)) .st ∧
    ((memLong 41 5 3 8193 (memT 5 0)).thread 0).addrM (instrAt (memLong 41 5 3 8193 (memT 5 0)) 0) = some (5, some 6) ∧
    State.MayStore (memLong 41 5 3 8193 (memT 5 0)) 0 ([{ ea := 5, data := 0x5555AAAA5555AAAA55, mask := 0xFF }]) anyTarget ∧
    Runs (memLong 42 4 3 (128 * 255) (memT 5 7)) .stm ∧
    State.MayStore (memLong 42 4 3 (128 * 255) (memT 5 7)) 0 ([{ ea := 5, data := 7, mask := 0xFF }]) anyTarget ∧
    Runs (memShort 15 0 3 { memT 5 0 with dslim := 20 }) .push ∧
    State.MayStore (memShort 15 0 3 { memT 5 0 with dslim := 20 }) 0 ([{ ea := 19, data := 5, mask := 0xFF }]) anyTarget ∧
    Runs (memLong 44 5 3 (3 * 4096 + 5) (memT 40 0)) .sts ∧
    State.MayStore (memLong 44 5 3 (3 * 4096 + 5) (memT 40 0)) 0 (stsReqs 45 0x5555AAAA5555AAAA55 4) Target.symbols :=
  ⟨by unfold Runs State.Executes; decide +kernel,
   store_of (by decide +kernel),
   by unfold Runs State.Executes; decide +kernel,
   by decide +kernel,
   store_of (by decide +kernel),
   by unfold Runs State.Executes; decide +kernel,
   store_of (by decide +kernel),
   by unfold Runs State.Executes; decide +kernel,
   store_of (by decide +kernel),
   by unfold Runs State.Executes; decide +kernel,
   store_of (by decide +kernel)⟩

/-- Operands of BlockMoveStep: the only word, and the last word of two. -/
theorem test_block_move_meets :
    Runs (memLong 45 4 3 1 (memT 5 20)) .bmov ∧
    State.LoadGives (memLong 45 4 3 1 (memT 5 20)) 0 5 0xFF Target.symbols 0x112233445566778899 ∧
    State.MayStore (memLong 45 4 3 1 (memT 5 20)) 0 ([{ ea := 20, data := 0x112233445566778899, mask := 0xFF }]) Target.symbols ∧
    Runs (memLong 45 4 3 2 ((memT 4 20).setProg 1)) .bmov ∧
    ((memLong 45 4 3 2 ((memT 4 20).setProg 1)).thread 0).prog = 1 ∧
    State.LoadGives (memLong 45 4 3 2 ((memT 4 20).setProg 1)) 0 5 0xFF Target.symbols 0x112233445566778899 ∧
    State.MayStore (memLong 45 4 3 2 ((memT 4 20).setProg 1)) 0 ([{ ea := 21, data := 0x112233445566778899, mask := 0xFF }]) Target.symbols :=
  ⟨by unfold Runs State.Executes; decide +kernel,
   gives_of (by decide +kernel),
   store_of (by decide +kernel),
   by unfold Runs State.Executes; decide +kernel,
   by decide +kernel,
   gives_of (by decide +kernel),
   store_of (by decide +kernel)⟩

/-- Operands of MultiplyAccumulate: the last of 64 steps, and the two short forms. -/
theorem test_multiply_meets :
    Runs (memLong 61 3 4 (64 * 0 + 63) ((memT 5 4096).setProg 63)) .macx ∧
    State.SpadReads (memLong 61 3 4 (64 * 0 + 63) ((memT 5 4096).setProg 63)) 0 (5) (0x112233445566778899) ∧
    State.SpadReads (memLong 61 3 4 (64 * 0 + 63) ((memT 5 4096).setProg 63)) 0 (4096) (3) ∧
    ((memLong 61 3 4 (64 * 0 + 63) ((memT 5 4096).setProg 63)).thread 0).noStep ∧
    (((memLong 61 3 4 (64 * 0 + 63) ((memT 5 4096).setProg 63)).thread 0).macNext false 0 5 = some 6 ∧
      ((memLong 61 3 4 (64 * 0 + 63) ((memT 5 4096).setProg 63)).thread 0).prog = 63) ∧
    Runs (memShort 23 3 4 (memT 5 4096)) .macxI ∧
    State.SpadReads (memShort 23 3 4 (memT 5 4096)) 0 (5) (0x112233445566778899) ∧
    State.SpadReads (memShort 23 3 4 (memT 5 4096)) 0 (4096) (3) ∧
    ((memShort 23 3 4 (memT 5 4096)).thread 0).noStep ∧
    Runs (memShort 24 3 4 (memT 5 4096)) .macxC ∧
    State.SpadReads (memShort 24 3 4 (memT 5 4096)) 0 (5) (0x112233445566778899) ∧
    State.SpadReads (memShort 24 3 4 (memT 5 4096)) 0 (4096) (3) ∧
    ((memShort 24 3 4 (memT 5 4096)).thread 0).noStep :=
  ⟨by unfold Runs State.Executes; decide +kernel,
   spad_of (by decide +kernel),
   spad_of (by decide +kernel),
   by unfold Thread.noStep; decide +kernel,
   by decide +kernel,
   by unfold Runs State.Executes; decide +kernel,
   spad_of (by decide +kernel),
   spad_of (by decide +kernel),
   by unfold Thread.noStep; decide +kernel,
   by unfold Runs State.Executes; decide +kernel,
   spad_of (by decide +kernel),
   spad_of (by decide +kernel),
   by unfold Thread.noStep; decide +kernel⟩

/-- Operands of AtomicResults: offset -1, and the first word of bank 1. -/
theorem test_atomic_meets :
    Runs (memLong 46 3 4 (3 * 1024 + 1023) (memT 9 6)) .aadd ∧
    ((match (memLong 46 3 4 (3 * 1024 + 1023) (memT 9 6)).checkAccess 0 5 true with | .ok (.spad p _) => p | _ => 0) = 5 ∧
      ((memLong 46 3 4 (3 * 1024 + 1023) (memT 9 6)).thread 0).sb = []) ∧
    Runs (memLong 47 3 4 (3 * 1024) (memT 9 4096)) .aswp ∧
    ((match (memLong 47 3 4 (3 * 1024) (memT 9 4096)).checkAccess 0 4096 true with | .ok (.spad p _) => p | _ => 0) = 4096 ∧
      ((memLong 47 3 4 (3 * 1024) (memT 9 4096)).thread 0).sb = []) :=
  by and_intros <;> decide +kernel

/-- R231: a step of MACX over 3 and 2 adds 6 and moves both pointers (the first step of the manual's example). -/
theorem test_macx_step :
    let s := (longState 0x3D 4 5 3 { g := [(4, 5), (5, 4096)] }).modGrove 0 fun v => { v with scratch := [(5, 3), (4096, 2)] }
    (match exec (.macx 0) s with
      | .next u => ((u.thread 0).accl, (u.thread 0).greg 4, (u.thread 0).greg 5, (u.thread 0).prog)
      | _ => (0, 0, 0, 0)) = (6, 6, 4097, 1) := by decide +kernel

/-- R211: with MOD1 of length 8 bit-reversed, the offset after 4 is 2 and after 7 it is 0 (the manual's example). -/
theorem test_bit_reversed :
    let t : Thread := { modA := [(1, 2 ^ 71 + 8 * 2 ^ 40 + 0x5000)] }
    (t.modNext 1 0x5004 1, t.modNext 1 0x5007 1) = (some 0x5002, some 0x5000) := by decide +kernel

/-! ## Control transfers, control registers, TRAP and DONE -/

/-- A return stack with one entry of an exception over one of a call, to an S-mode caller; g4 a target. -/
def ctlT (rsp : Nat) : Thread :=
  { g := [(3, 5), (4, 0xF12345678)], rsp := rsp, rstack := [(0, 2 ^ 56 + 0x80000000 * 2 ^ 24 + 7), (1, 0x80000000 * 2 ^ 24 + 5)] }

/-- Operands of TransferResults: the lowest displacement, 14 entries, and one entry. -/
theorem test_transfer_meets :
    Runs (longState 56 0 0 16384 (ctlT 0)) .b ∧
    Runs (shortState 17 0 4 (ctlT 0)) .jr ∧
    Runs (longState 57 0 0 16384 (ctlT 14)) .call ∧
    ((longState 57 0 0 16384 (ctlT 14)).thread 0).rsp < 15 ∧
    Runs (shortState 18 0 4 (ctlT 14)) .callr ∧
    Runs (shortState 19 0 0 (ctlT 1)) .ret ∧
    (((shortState 19 0 0 (ctlT 1)).thread 0).rsp ≠ 0 ∧
      mget 0 ((shortState 19 0 0 (ctlT 1)).thread 0).ecc (47 + ((shortState 19 0 0 (ctlT 1)).thread 0).rsp) = 0) :=
  by and_intros <;> decide +kernel

/-- Operands of ReturnFromException, one for each of its three alternatives. -/
theorem test_return_meets :
    Runs (shortState 20 0 0 { ctlT 1 with tceilA := true }) .retx ∧
    (((shortState 20 0 0 { ctlT 1 with tceilA := true }).thread 0).tceilA = true ∧
      ((shortState 20 0 0 { ctlT 1 with tceilA := true }).thread 0).rsp ≠ 0 ∧
      ((shortState 20 0 0 { ctlT 1 with tceilA := true }).thread 0).ecc = []) ∧
    Runs (shortState 20 0 0 (ctlT 2)) .retx ∧
    ((shortState 20 0 0 (ctlT 2)).thread 0).inHandlerBelow = true ∧
    Runs (shortState 20 0 0 { ctlT 1 with rstack := [(0, 7)] }) .retx ∧
    (mget 0 ((shortState 20 0 0 { ctlT 1 with rstack := [(0, 7)] }).thread 0).rstack (((shortState 20 0 0 { ctlT 1 with rstack := [(0, 7)] }).thread 0).rsp - 1)).getLsbD 55 = false :=
  by and_intros <;> decide +kernel

/-- Operands of ControlRegisters: BTIME read, and TCEIL written with 0. -/
theorem test_control_register_meets :
    Runs (longState 59 3 0 33 (ctlT 0)) .mfc ∧
    ((instrAt (longState 59 3 0 33 (ctlT 0)) 0).s2.extractLsb' 0 6).toNat = 33 ∧
    Runs (longState 60 0 4 22 { ctlT 0 with tceilP := true }) .mtc ∧
    ((instrAt (longState 60 0 4 22 { ctlT 0 with tceilP := true }) 0).s2.extractLsb' 0 6).toNat = 22 ∧
    Runs (longState 60 0 4 0 (ctlT 0)) .mtc :=
  by and_intros <;> decide +kernel

/-- Operands of SyncAndTrap, with 15 entries on the return stack. -/
theorem test_sync_trap_meets :
    Runs (shortState 21 0 0 (ctlT 0)) .sync ∧
    ((shortState 21 0 0 (ctlT 0)).thread 0).sb = [] ∧
    Runs (longState 58 0 0 90 (ctlT 15)) .trap ∧
    ((longState 58 0 0 90 (ctlT 15)).thread 0).rsp < 16 :=
  by and_intros <;> decide +kernel

/-- A SYNC where the pending slot table and bank map of the core were written: slots 0 and 1 as given, bank 0. -/
def syncState (slots : BitVec 32) : State :=
  { (((shortState 21 0 0 (ctlT 0)).setReg (aCore 0 0 + 0x10) slots).setReg (aCore 0 0 + 0xC0) 3) with
    cores := [(0, { chosen := some mine, slotAct := [(0, 0x10)], slotDirty := true, bankDirty := true })] }

/-- Operands of SyncAndTrap where core-scope copies are pending: a table that R154 allows, and one it refuses. -/
theorem test_sync_copies :
    Runs (syncState 0x10) .sync ∧
    (slotTableOk ((syncState 0x10).slotPending 0 0) = true ∧ ((syncState 0x10).core 0).slotDirty = true ∧ ((syncState 0x10).core
      0).bankDirty = true) ∧
    Runs (syncState 0x1010) .sync ∧
    slotTableOk ((syncState 0x1010).slotPending 0 0) = false :=
  by and_intros <;> decide +kernel

/-- The step of DONE that reads list word p of two entries at word 50. -/
def doneState (p : Nat) : State :=
  (shortState 22 0 4 { ({} : Thread).setProg p with
    descs := [dsc 0], doneOp := 2 * 2 ^ 20 + 50, emits := (upto p).map (BitVec.ofNat 72) }).modGrove 0
      fun v => { v with scratch := [(50, 5), (51, 9), (52, 6), (53, 1)] }

/-- DONE of a resident thread without a descriptor, and of one that holds a descriptor and lists no copy. -/
def doneEmpty (l : List Desc) : State := shortState 22 0 4 { descs := l }

/-- The completion queue of grove 0 has no entry free. -/
def fullQueue (s : State) : State := s.modGrove 0 fun v => { v with cq := [{ comp := (dsc 0).completion [], left := 64 }] }

/-- Operands of DoneResults: no copies, the last list word, an earlier one, and no descriptor. -/
theorem test_done_meets :
    Runs (doneEmpty [dsc 0]) .done ∧
    (((doneEmpty [dsc 0]).thread 0).prog = 0 ∧ ((doneEmpty [dsc 0]).thread 0).sb = [] ∧
      ((((doneEmpty [dsc 0]).thread 0).greg 4).extractLsb' 20 5).toNat = 0 ∧ ((doneEmpty [dsc 0]).grove 0).cqOcc < 64) ∧
    Runs (doneState 3) .done ∧
    ((((doneState 3).thread 0).emits.length = ((doneState 3).thread 0).prog) ∧ ((doneState 3).thread 0).prog + 1 = 2 * 2 ∧
      ((doneState 3).grove 0).cqOcc + cqNeed 2 ≤ 64) ∧
    State.SpadReads (doneState 3) 0 (53) (1) ∧
    Runs (doneState 2) .done ∧
    (((doneState 2).thread 0).prog + 1 < 2 * 2 ∧ e0Ok 6 = true) ∧
    State.SpadReads (doneState 2) 0 (52) (6) ∧
    Runs (doneEmpty []) .done ∧
    ((doneEmpty []).hasShare 0 = false ∧ ((doneEmpty []).thread 0).parkReq = false ∧ ((doneEmpty []).thread 0).prog = 0) ∧
    ((doneEmpty []).thread 0).noStep :=
  ⟨by unfold Runs State.Executes; decide +kernel,
   by decide +kernel,
   by unfold Runs State.Executes; decide +kernel,
   by decide +kernel,
   spad_of (by decide +kernel),
   by unfold Runs State.Executes; decide +kernel,
   by decide +kernel,
   spad_of (by decide +kernel),
   by unfold Runs State.Executes; decide +kernel,
   by decide +kernel,
   by unfold Thread.noStep; decide +kernel⟩

/-- The first step of DONE with operand op, word w in the first place of the list. -/
def doneFirst (op w : Word) (sb : List SbEntry := []) : State :=
  (shortState 22 0 4 { g := [(4, op)], descs := [dsc 0], sb := sb }).modGrove 0 fun v => { v with scratch := [(50, w)] }

/-- Operands of DoneResults for the first step: an E0 word that is taken and one with a reserved bit, N of 17, and the attempts with
a store buffered, and with no entry of the queue free for N of 0 and at the last word. -/
theorem test_done_first :
    (let s := doneFirst 0x100032 6; Runs s .done ∧ (s.thread 0).prog = 0 ∧ (s.thread 0).sb = [] ∧
      (((s.thread 0).greg 4).extractLsb' 20 5).toNat = 1 ∧ e0Ok 6 = true) ∧
    State.SpadReads (doneFirst 0x100032 6) 0 50 6 ∧
    (Runs (doneFirst 0x1000032 0x10000000000) .done ∧ (((doneFirst 0x1000032 0).thread 0).greg 4).extractLsb' 20 5 = 16 ∧
      e0Ok 0x10000000000 = false ∧ ((doneFirst 0x1000032 0).thread 0).rsp < 16) ∧
    State.SpadReads (doneFirst 0x1000032 0x10000000000) 0 50 0x10000000000 ∧
    (let s := doneFirst 0x1100032 6; Runs s .done ∧ (((s.thread 0).greg 4).extractLsb' 20 5).toNat = 17) ∧
    (let s := doneFirst 0 6 [held 20 0xFF]; Runs s .done ∧ (s.thread 0).prog = 0 ∧ (s.thread 0).sb ≠ []) ∧
    (let s := fullQueue (doneEmpty [dsc 0]); Runs s .done ∧ 64 ≤ (s.grove 0).cqOcc) ∧
    (let s := fullQueue (doneState 3); Runs s .done ∧ 64 < (s.grove 0).cqOcc + cqNeed 2) ∧
    State.SpadReads (fullQueue (doneState 3)) 0 53 1 :=
  ⟨by and_intros <;> decide +kernel,
   spad_of (by decide +kernel),
   by and_intros <;> decide +kernel,
   spad_of (by decide +kernel),
   by and_intros <;> decide +kernel,
   by and_intros <;> decide +kernel,
   by and_intros <;> decide +kernel,
   by and_intros <;> decide +kernel,
   spad_of (by decide +kernel)⟩

/-! ## Units of a grove -/

/-- g3 names lock, flag or channel 5. -/
def unitT : Thread := { g := [(3, 5), (4, 9)] }

/-- UNLK of lock 6, which the thread holds and thread 1 waits for. -/
def unlkState : State := (longState 50 0 3 1 unitT).setLock 0 6 { holder := some 0, waiters := [1] }

/-- Operands of LockAndEventResults. -/
theorem test_lock_meets :
    (let s := longState 48 0 3 1 unitT; Runs s .lock ∧ ((s.openCycle 0).lock 0 6).holder = none ∧
      ((s.openCycle 0).lock 0 6).waiters = [] ∧ ∀ v ∈ s.heldLocks 0, v < 6) ∧
    (let s := longState 49 0 3 1 unitT; Runs s .tryl ∧ ((s.openCycle 0).lock 0 6).holder = none ∧
      ((s.openCycle 0).lock 0 6).waiters = []) ∧
    (let s := (longState 49 0 3 1 unitT).setLock 0 6 { holder := some 1 }; Runs s .tryl ∧ ((s.openCycle 0).lock 0 6).holder ≠ none) ∧
    (Runs unlkState .unlk ∧ (unlkState.thread 0).sb = [] ∧ (unlkState.lock 0 6).holder = some 0 ∧
      0 ∉ ((unlkState.openCycle 0).lock 0 6).waiters) ∧
    Runs (longState 53 0 3 1 unitT) .clre :=
  by and_intros <;> decide +kernel

/-- Flag 6 of grove 0 is as given; thread 3 waits for it and takes line 2 of its route. -/
def flagState (op : Nat) (flags : BitVec 64) : State :=
  (((longState op 0 3 1 unitT).modGrove 0 fun v => { v with flags := flags }).setThread 3 { wait := .event 6 }).setReg
    (aLocks 0 + 0x500 + 4 * 6) 0x80000062

/-- Operands of LockAndEventResults for the flags: WAITE and SIGE in the last step of a grove's cycle and in an earlier one. -/
theorem test_flag_meets :
    (let s := lastCore 0 (flagState 51 0x40); Runs s .waite ∧ s.LastOfCycle 0 ∧ bit (s.grove 0).flags 6 = true ∧
      (s.thread 0).parkReq = false) ∧
    (let s := flagState 51 0x40; Runs s .waite ∧ ¬ s.LastOfCycle 0) ∧
    (let s := flagState 51 0; Runs s .waite ∧ bit (s.grove 0).flags 6 = false) ∧
    (let s := lastCore 0 (flagState 52 0); Runs s .sige ∧ (s.thread 0).sb = [] ∧ s.LastOfCycle 0 ∧
      (s.thread 3).wait = .event 6 ∧ (s.thread 3).parkReq = false ∧ (s.beat 0).inCycle = true ∧ bit (s.beat 0).flags 6 = false ∧
      (s.reg (aLocks 0 + 0x500 + 4 * 6)).toNat / 2 ^ 31 % 2 = 1) :=
  by unfold State.LastOfCycle; and_intros <;> decide +kernel

/-- Operands of ChannelResults: a fourth word staged, a message of one word, and a message with one word left. -/
theorem test_channel_meets :
    Runs (longState 54 4 3 1 { unitT with staging := some (6, [1, 2, 3]) }) .send ∧
    (((longState 54 4 3 1 { unitT with staging := some (6, [1, 2, 3]) }).thread 0).staging = some (6, [1, 2, 3]) ∧
      ((longState 54 4 3 1 { unitT with staging := some (6, [1, 2, 3]) }).chan 0 6).readers = [] ∧
      ((longState 54 4 3 1 { unitT with staging := some (6, [1, 2, 3]) }).chan 0 6).writers = []) ∧
    Runs (longState 54 4 3 (16384 + 1) unitT) .send ∧
    (((longState 54 4 3 (16384 + 1) unitT).thread 0).staging = none ∧ (instrAt (longState 54 4 3 (16384 + 1) unitT) 0).s2.msb = true) ∧
    Runs ((longState 55 4 3 1 unitT).setChan 0 6 { msgs := [{ words := [8], reader := none }] }) .recv ∧
    (((longState 55 4 3 1 unitT).setChan 0 6 { msgs := [{ words := [8], reader := none }] }).chan 0 6).msgs = [{ words := 8 :: [], reader := none }] :=
  by and_intros <;> decide +kernel

/-- The thread that holds packet 2, with operand word op in g3. -/
def helpT (op : Word) : Thread := { g := [(3, op), (4, 0x12345)], descs := [dsc 0] }

/-- Operands of HelperRequests: the last symbol, the whole packet by each polynomial, and a stamp field up to its end. -/
theorem test_helper_meets :
    Runs (longState 0x40 4 3 0 (helpT 99)) .parse ∧
    Runs (longState 65 4 3 0 (helpT (1 * 65536 + 99))) .crcf ∧
    Runs (longState 65 4 3 4096 (helpT (100 * 65536))) .crcf ∧
    ((instrAt (longState 65 4 3 4096 (helpT 0)) 0).s2.toNat / 2 ^ 12 % 8 = 1 ∧ 2 ≤ (100 * 65536 / 2 ^ 16) % 2 ^ 14) ∧
    Runs (longState 66 4 3 2048 (helpT 0)) .csum ∧
    Runs (longState 67 4 3 0 (helpT 92)) .tscf ∧
    (((longState 0x40 4 3 0 (helpT 99)).thread 0).descs = [dsc 0] ∧
      ((longState 0x40 4 3 0 (helpT 99)).thread 0).pwStore = false ∧ 99 + 1 ≤ (dsc 0).len ∧ 92 + 8 ≤ (dsc 0).len) :=
  by and_intros <;> decide +kernel

/-- Symbol k of a frame with a VLAN tag and an HSR tag before an IPv4 header. -/
def tagged (k : Nat) : Nat := ((List.replicate 12 1 ++ [0x81, 0, 0, 5, 0x89, 0x2F, 0, 0, 0, 0, 8, 0, 0x45])[k]?).getD 0
/-- Symbol k of an IPv6 header with a hop-by-hop header and a fragment header, whose offset is given, before UDP. -/
def chained (off k : Nat) : Nat := ((0x60 :: List.replicate 39 0 ++ [44, 0, 0, 0, 0, 0, 0, 0, 17, 0, off / 256, off % 256])[k]?).getD 0

/-- Operands of HelperRequests for PARSE: both values of START, the tags of a frame, an IPv4 header, and an IPv6 header with its first
fragment, a later one and one whose header the packet cuts. -/
theorem test_parse_meets :
    (Runs (longState 0x40 4 3 8192 (helpT 99)) .parse ∧ (instrAt (longState 0x40 4 3 8192 (helpT 99)) 0).s2.toNat / 2 ^ 13 = 1 ∧
      (instrAt (longState 0x40 4 3 0 (helpT 99)) 0).s2.toNat / 2 ^ 13 = 0 ∧ (dsc 0).len < 2 ^ 14) ∧
    (let be := fun j => tagged j * 256 + tagged (j + 1)
     (0 + 14 ≤ min (100 - 4) (0 + 256)) ∧ be 12 = 0x8100 ∧ be 16 = 0x892F ∧ be 22 = 0x0800 ∧ 22 + 2 ≤ 96 ∧ tagged 24 / 16 = 4 ∧
      24 + 20 ≤ 96 ∧ 24 + 4 * (tagged 24 % 16) ≤ 96 ∧ (be (24 + 6)) % 8192 = 0) ∧
    (chained 0 0 / 16 = 6 ∧ chained 0 6 = 0 ∧ (chained 0 41 + 1) * 8 = 8 ∧ chained 0 40 = 44 ∧
      (chained 0 50 * 256 + chained 0 51) / 8 = 0 ∧ chained 0 48 = 17) ∧
    ((chained 185 50 * 256 + chained 185 51) / 8 ≠ 0 ∧ chained 185 48 = 17) ∧
    (min 50 (0 + 256) < 48 + 8 ∧ 0 + 40 ≤ min 50 (0 + 256)) :=
  by and_intros <;> decide +kernel

/-- CRCF over the last symbol of the packet, whose word holds an uncorrectable error. -/
def markedState : State :=
  { longState 65 4 3 0 (helpT (1 * 65536 + 99)) with trunk := { ecc := [(bufKey (State.reset.cellsOf 2) 12, 2)] } }

/-- Operands of HelperRequests where a word of the packet holds an error, and where none does. -/
theorem test_helper_marked :
    Runs markedState .crcf ∧
    (markedState.pktMark 2 100 12 = 2 ∧ 99 ≤ 8 * 12 + 7 ∧ 8 * 12 < 99 + 1) ∧
    (∀ k, (longState 65 4 3 0 (helpT (1 * 65536 + 99))).pktMark 2 100 k ≠ 2) :=
  ⟨by unfold Runs State.Executes; decide +kernel,
   by decide +kernel,
   fun k => by unfold State.pktMark; split <;> exact (by decide : (0 : Nat) ≠ 2)⟩

/-- An extension unit and exact-match table 0 enabled. -/
def withUnits (s : State) : State := (s.setReg (aExt 0) 0x80000000).setReg 0xA1000 0x80000000

/-- Operands of UnitRequests. -/
theorem test_unit_meets :
    Runs (withUnits (longState 68 4 3 0 unitT)) .lkup ∧
    (bit ((withUnits (longState 68 4 3 0 unitT)).reg (aTable 0)) 31 = true ∧
      bit ((withUnits (longState 68 4 3 0 unitT)).reg (aTable 0)) 30 = bit (instrAt (withUnits (longState 68 4 3 0 unitT)) 0).s2 6) ∧
    Runs (withUnits (longState 0x7E 4 3 77 unitT)) .xop ∧
    Runs (withUnits (longState 0x7F 4 3 0 unitT)) .xprobe ∧
    bit ((withUnits (longState 0x7E 4 3 77 unitT)).reg (aExt 0)) 31 = true :=
  by and_intros <;> decide +kernel

/-- The same with an older request of the grove, transferred or not. -/
def olderState (op : Nat) (x : Bool) (since : Option Nat) : State :=
  (withUnits (longState op 4 3 0 unitT)).modGrove 0 fun v =>
    { v with xreqs := [{ th := 5, op := 0, imm := 0, a := 0, b := 0, xfer := x, since := since }] }

/-- Operands of UnitRequests for a request behind an older one: one that was transferred, and one that is presented. -/
theorem test_unit_behind :
    Runs (olderState 0x7E true (some 4)) .xop ∧
    (∀ r ∈ ((olderState 0x7E true (some 4)).grove 0).xreqs, r.xfer = true) ∧
    Runs (olderState 0x7F false (some 4)) .xprobe ∧
    (∀ r ∈ ((olderState 0x7F false (some 4)).grove 0).xreqs, r.xfer = false → r.since.isSome = true) ∧
    (∃ r ∈ ((olderState 0x7F false (some 4)).grove 0).xreqs, r.xfer = false) :=
  by and_intros <;> decide +kernel

/-! ## Exceptions and core events -/

/-- A thread that finds a NOP. -/
def nopState (t : Thread) : State := shortState 0 0 0 t

/-- The select stage has seen what is due for the thread. -/
def told (d : Due) (s : State) : State := s.modCore 0 fun k => { k with chosen := some { mine with due := some d } }

/-- Breakpoint 1 at the PC makes an entry (R279). -/
def breakState : State := told (.breakEntry 1) <| ((nopState {}).setReg (aCore 0 0 + 0x80 + 8) 0).setReg (aCore 0 0 + 0x84 + 8) 0xC0000001

/-- States of ExceptionEntries: each event due, and a fetch beyond the store. -/
theorem test_exception_meets :
    State.Chosen (told .chabrt (nopState { chabp := true, chabch := 63, rsp := 15 })) 0 ∧
    (told .chabrt (nopState { chabp := true, chabch := 63, rsp := 15 })).dueNow 0 = some .chabrt ∧
    State.Chosen (told .nmiext (nopState { nmip := true })) 0 ∧
    (told .nmiext (nopState { nmip := true })).dueNow 0 = some .nmiext ∧
    State.Chosen (told (.line 7) (nopState { lines := 0x80, status := 0xFFC00000 })) 0 ∧
    (told (.line 7) (nopState { lines := 0x80, status := 0xFFC00000 })).dueNow 0 = some (.line 7) ∧
    State.NoRise (told (.line 7) (nopState { lines := 0x80, status := 0xFFC00000 })) 0 ∧
    State.Chosen (breakState) 0 ∧
    (breakState).dueNow 0 = some (.breakEntry 1) ∧
    State.Chosen (nopState { pc := 0x10000 }) 0 ∧
    ((nopState { pc := 0x10000 }).dueNow 0 = none ∧
      (match (nopState { pc := 0x10000 }).fetch 0 with | .fault c _ _ => c | _ => 0) = causeDACC) ∧
    State.Chosen (nopState { pc := 0x10000, rsp := 16 }) 0 ∧
    ((nopState { pc := 0x10000, rsp := 16 }).dueNow 0 = none ∧ ((nopState { pc := 0x10000, rsp := 16 }).thread 0).rsp = 16 ∧
      (match (nopState { pc := 0x10000, rsp := 16 }).fetch 0 with | .fault c _ _ => c | _ => 0) = causeDACC) :=
  by unfold State.NoRise; and_intros <;> decide +kernel

/-- A thread that a release has let make its entry anew. -/
def retryState (k : EntryKind) : State :=
  told .retry (nopState { retryDue := true, ocause := 0x11, retry := { kind := k, bad := some 5 } })

/-- States of ExceptionEntries for an entry that a release makes anew: of a line, of an NMI and of a fault. -/
theorem test_retry_meets :
    (State.Chosen (retryState (.line 3)) 0 ∧ State.Chosen (retryState (.nmi 5)) 0 ∧ State.Chosen (retryState .fault) 0) ∧
    (∀ k ∈ [EntryKind.line 3, .nmi 5, .fault], (retryState k).dueNow 0 = some .retry ∧ ((retryState k).thread 0).rsp < 16) :=
  by and_intros <;> decide +kernel

/-- Thread 0, the recovery thread of grove 0, with the grove's NMI conditions; thread 5 is HELD for the reason given. -/
def recState0 (v : Grove → Grove) (reason : BitVec 2) : State :=
  ((nopState { rsp := 15 }).setThread 5 { held := true, hreason := reason }).modGrove 0 v

/-- A held thread that the recovery thread has not been told of. -/
def newHold (v : Grove) : Grove := { v with holdQ := [{ th := 5, reported := false }] }

/-- States of ExceptionEntries for the NMIs of the recovery thread, and a fetch with one entry of the return stack free. -/
theorem test_nmi_meets :
    State.Chosen (told (.hold 5 2) (recState0 newHold 2)) 0 ∧
    (told (.hold 5 2) (recState0 newHold 2)).dueNow 0 = some (.hold 5 2) ∧
    State.Chosen (told (.hold 5 1) (recState0 newHold 1)) 0 ∧
    (told (.hold 5 1) (recState0 newHold 1)).dueNow 0 = some (.hold 5 1) ∧
    State.Chosen (told .stall (recState0 (fun v => { v with nmiStall := true }) 0)) 0 ∧
    (told .stall (recState0 (fun v => { v with nmiStall := true }) 0)).dueNow 0 = some .stall ∧
    State.Chosen (told .wdog (recState0 (fun v => { v with nmiWdog := true }) 0)) 0 ∧
    (told .wdog (recState0 (fun v => { v with nmiWdog := true }) 0)).dueNow 0 = some .wdog ∧
    State.Chosen (nopState { pc := 0x10000, rsp := 15 }) 0 ∧
    (nopState { pc := 0x10000, rsp := 15 }).dueNow 0 = none :=
  by and_intros <;> decide +kernel

/-- The return stack of thread 0 is full. -/
def fullStack (s : State) : State := s.modThread 0 fun t => { t with rsp := 16 }

/-- An event that the select stage saw for a thread whose return stack is full. -/
abbrev Overflown (d : Due) (s : State) : Prop :=
  State.Chosen (fullStack (told d s)) 0 ∧ (fullStack (told d s)).dueNow 0 = some d ∧ 16 ≤ ((fullStack (told d s)).thread 0).rsp

/-- States of FullStackHolds for each event that is due at a boundary. -/
theorem test_full_stack_due :
    Overflown .chabrt (nopState { chabp := true }) ∧
    Overflown .nmiext (nopState { nmip := true }) ∧
    Overflown (.hold 5 2) (recState0 newHold 2) ∧
    Overflown (.hold 5 1) (recState0 newHold 1) ∧
    Overflown .stall (recState0 (fun v => { v with nmiStall := true }) 0) ∧
    Overflown .wdog (recState0 (fun v => { v with nmiWdog := true }) 0) ∧
    Overflown (.line 7) (nopState { lines := 0x80, tsrc := 0x80, status := 0xFFC00000 }) ∧
    Overflown (.line 0) (nopState { lines := 1, status := 0xFFC00000 }) ∧
    Overflown (.breakEntry 1) breakState :=
  by and_intros <;> decide +kernel

/-- An UNLK of a lock that nobody holds. -/
def noHolder : State := fullStack (longState 50 0 3 1 unitT)

/-- States of FullStackHolds for faults of an execution. -/
theorem test_full_stack_faults :
    Runs (fullStack (longState 58 0 0 90 (ctlT 0))) .trap ∧
    (Runs (fullStack (memShort 13 3 4 (memT 0 (2 ^ 40)))) .ldw ∧
      (fullStack (memShort 13 3 4 (memT 0 (2 ^ 40)))).checkAccess 0 (2 ^ 40) false = .dacc) ∧
    (Runs (fullStack (memShort 14 3 4 (memT (2 ^ 40) 7))) .stw ∧
      (fullStack (memShort 14 3 4 (memT (2 ^ 40) 7))).checkAccess 0 (2 ^ 40) true = .dacc ∧
      ((fullStack (memShort 14 3 4 (memT (2 ^ 40) 7))).thread 0).sb = []) ∧
    Runs noHolder .unlk ∧
    (∀ k, (noHolder.lock 0 k).holder ≠ some 0) :=
  ⟨by and_intros <;> decide +kernel,
   by and_intros <;> decide +kernel,
   by and_intros <;> decide +kernel,
   by and_intros <;> decide +kernel,
   fun k => by
     have e : (noHolder.lock 0 k).holder = none := rfl
     rw [e]
     exact nofun⟩

/-- Core 0 of grove 0 with a thread that executes nothing. -/
def idleState (t : Thread) (c : Core := {}) (v : Grove := {}) : State := { svc with threads := [(0, t)], cores := [(0, c)], groves := [(0, v)] }

/-- States of CoreEventResults, an idle slot in the last step of a grove's cycle and in an earlier one, the watchdog at its limit. -/
theorem test_core_event_meets :
    ((idleState {}).coreRuns 0 0 = true ∧ ((idleState {}).choice 0 0).t = none ∧ ¬ (idleState {}).LastOfCycle (thid 0 0 0)) ∧
    (let s := lastCore 0 (idleState {}); s.coreRuns 0 0 = true ∧ (s.choice 0 0).t = none ∧ s.LastOfCycle (thid 0 0 0)) ∧
    ((idleState {} { slotNext := some [(0, 0x11)] }).groveOn 0 = true ∧
      ((idleState {} { slotNext := some [(0, 0x11)] }).core (coreKey 0 0)).slotNext = some [(0, 0x11)]) ∧
    ((idleState {} { mreq := true }).shareParked 0 0 = true ∧ ((idleState {} { mreq := true }).core (coreKey 0 0)).mreq = true) ∧
    (((idleState {} { maintReq := true, service := true }).core (coreKey 0 0)).maintReq = true ∧
      ((idleState {} { maintReq := true, service := true }).core (coreKey 0 0)).pos = 0) ∧
    (idleState { haltReq := true, wait := .ready }).due 0 = some .halt ∧
    ((((idleState {} {} { wdCount := 5 }).setReg (aExc 0 + 0x18) 5).reg (aExc 0 + 0x18)).toNat % 65536 ≤ (((idleState {} {} { wdCount := 5 }).setReg (aExc 0 + 0x18) 5).grove 0).wdCount ∧
      (((idleState {} {} { wdCount := 5 }).setReg (aExc 0 + 0x18) 5).reg (aExc 0 + 0x18)).toNat % 65536 ≠ 0) :=
  by unfold State.LastOfCycle; and_intros <;> decide +kernel

/-- An outstanding load or request of thread 0. -/
def outLoad (u : Unit') (d : Dest) (a : Option Answer) : Outst :=
  { unit := u, dest := d, pc := 9, addr := 0x100005, since := 0, undo := none, ans := a, ansP := none }

/-- A thread that waits for it, with answers at the helper and the extension unit, 4,096 cycles later. -/
def waitState (w : Wait) (o : Outst) : State :=
  idleState { wait := w, outst := some o, rsp := 15 } {}
    { cyc := 4096, parseQ := [{ th := 0, ans := .word 7, p := some true }],
      xreqs := [{ th := 0, op := 0, imm := 0, a := 0, b := 0, xfer := true, since := some 0 }] }

/-- States of AnswersReachThreads: a returned word, a helper, an extension unit at its limit, and a load at its limit. -/
theorem test_answer_meets :
    ((waitState .load (outLoad .external (.land 31 0 8) (some (.word 7)))).groveOn 0 = true ∧
      ((waitState .load (outLoad .external (.land 31 0 8) (some (.word 7)))).thread 0).outst = some (outLoad .external (.land 31 0 8) (some (.word 7))) ∧
      ((waitState .load (outLoad .external (.land 31 0 8) (some (.word 7)))).thread 0).wait = .load) ∧
    (((waitState .load (outLoad .helper (.result 7) none)).grove 0).parseQ = [{ th := 0, ans := .word 7, p := some true }] ∧
      ((waitState .load (outLoad .helper (.result 7) none)).thread 0).outst = some (outLoad .helper (.result 7) none)) ∧
    (∃ r ∈ ((waitState .xunit (outLoad .extension (.result 31) none)).grove 0).xreqs, r.th = 0 ∧ r.xfer = true ∧ ∃ c ∈ r.since,
      c + (waitState .xunit (outLoad .extension (.result 31) none)).xTmo 0 ≤ ((waitState .xunit (outLoad .extension (.result 31) none)).grove 0).cyc) ∧
    ((outLoad .packet (.land 5 0 8) none).since + 4096 ≤ ((waitState .load (outLoad .packet (.land 5 0 8) none)).grove 0).cyc ∧
      ((waitState .load (outLoad .packet (.land 5 0 8) none)).thread 0).landing = none ∧
      ((waitState .load (outLoad .packet (.land 5 0 8) none)).thread 0).rsp < 16) :=
  by and_intros <;> decide +kernel

/-- States of FullStackHolds for a load whose answer is an error. -/
theorem test_full_stack_load :
    ∀ a ∈ [Answer.dacc, .eccu], let s := fullStack (waitState .load (outLoad .external (.land 31 0 8) (some a)))
      s.groveOn 0 = true ∧ (s.thread 0).wait = .load ∧ (s.thread 0).outst = some (outLoad .external (.land 31 0 8) (some a)) ∧
        16 ≤ (s.thread 0).rsp :=
  by decide +kernel

/-- A store to the last packet window word. -/
def sbE (p : Option (Nat × Bool)) (sent acc : Bool) : SbEntry :=
  { addr := 0x1007FF, data := 0x123456789ABCDEF012, mask := 0x5A, phys := p, ord := 0, sent := sent, acc := acc, since := 0 }

/-- A write of lanes of the last word of packet 2. -/
def pwWrite : PwReq := { th := 0, cell := 2, len := 100, write := true, word := 12, data := 3, mask := 0x5A }

/-- Packet 2 of 100 symbols in cells 2 and 9. -/
def pkt2 : Packet :=
  { cells := [2, 9], len := 100, its := 0x123456789, err := false, ring := 0, src := 0, cls := 3, port := 4, live := 0 }

/-- A thread with a buffered store, 4,096 cycles after it was sent. -/
def drainState (e : SbEntry) : State :=
  { idleState { sb := [e] } {} { cyc := 4096, abandQ := [(0, dsc 0), (0, dsc 1)], cq := [{ comp := (dsc 0).completion [], left := 63 }],
                                 xreqs := [{ th := 0, op := 0, imm := 0, a := 0, b := 0, xfer := false, since := some 0 }] } with
    links := [(144, { buf := [.window pwWrite] })], trunk := { pkts := [(2, pkt2)] } }

/-- States of DrainResults: a store to scratchpad, one accepted, one at its limit, the last window word, and a queue with one
entry free. -/
theorem test_drain_meets :
    ((drainState (sbE (some (6, false)) false false)).groveOn 0 = true ∧ (drainState (sbE (some (6,
      false)) false false)).nextToSend 0 = some (sbE (some (6, false)) false false) ∧ ((drainState (sbE (some (6,
      false)) false false)).thread 0).pendSt = none) ∧
    (sbE none true true).acc = true ∧
    ((sbE none true false).addr.toNat < 0x100800 ∧
      (sbE none true false).since + 4096 ≤ ((drainState (sbE none true false)).grove 0).cyc) ∧
    ((drainState (sbE (some (6, false)) false false)).islandUp 3 = true ∧ ((drainState (sbE (some (6,
      false)) false false)).link 144).buf = [.window pwWrite] ∧ pwWrite.word + 1 = wordsOf pwWrite.len ∧
      (mfind (drainState (sbE (some (6, false)) false false)).trunk.pkts 2).isSome = true) ∧
    (((drainState (sbE (some (6, false)) false false)).grove 0).cqOcc < 64 ∧ ((drainState (sbE (some (6,
      false)) false false)).grove 0).abandQ = [(0, dsc 0), (0, dsc 1)] ∧ ((drainState (sbE (some (6,
      false)) false false)).grove 0).xreqs.length = 1) :=
  by and_intros <;> decide +kernel

/-- Grove 0 of a store to the first word of bank 30, which its other port wrote in an earlier cycle. -/
def dualState : State :=
  (drainState (sbE (some (122880, true)) false false)).modGrove 0 fun v =>
    { v with dual := some { word := 122880, portB := false, old := 0, cycle := (4095, 0) } }

/-- States of DrainResults for a store to a bank with one port and to one with two. -/
theorem test_drain_alone :
    State.WritesAlone (drainState (sbE (some (6, false)) false false)) 0 6 false ∧
    dualState.nextToSend 0 = some (sbE (some (122880, true)) false false) ∧
    dualState.WritesAlone 0 122880 true :=
  ⟨.inl (by decide),
   by decide +kernel,
   alone_of (by decide +kernel)⟩

/-- A state of DrainResults where a request waits behind the one that is transferred. -/
theorem test_transfer_next :
    (let r : XReq := { th := 5, op := 0, imm := 0, a := 0, b := 0, xfer := false, since := none };
      let s := (drainState (sbE none true true)).modGrove 0 fun v => { v with xreqs := v.xreqs ++ [r] }; s.groveOn 0 = true ∧
      (s.grove 0).xreqs.map (fun r => (r.th, r.xfer, r.since)) = [(0, false, some 0), (5, false, none)]) :=
  by decide +kernel

/-! ## Register writes of threads, cores and groves -/

/-- The host reaches the registers of threads, cores and groves. -/
def regState (t : Thread) (c : Core := {}) : State := idleState t c { holdQ := [{ th := 0, reported := true }] }

/-- States of ThreadCommands: a parked thread, a ready one, and the registers of the last thread of the block. -/
theorem test_thread_command_meets :
    State.HostReaches (regState {}) .mgmt (aThread 0 + 0x10) ∧
    ((regState {}).thcmdOk 0 = true ∧ ((regState {}).thread 0).wait = .parked ∧ ((regState {}).thread 0).outst = none) ∧
    (((regState { wait := .ready }).thread 0).wait = .ready ∧ (regState { wait := .ready }).thcmdOk 0 = true ∧
      ((regState { wait := .ready }).thread 0).halted = false) ∧
    State.HostReaches (regState {}) .mgmt (aThread 4095 + 8) ∧
    State.HostReaches (regState {}) .mgmt (aThread 0 + 0x18) ∧
    State.HostReaches (regState {}) .tap (aThread 4095 + 0x14) :=
  ⟨reaches_of (by decide) (by decide +kernel),
   by decide +kernel,
   by decide +kernel,
   reaches_of (by decide) (by decide +kernel),
   reaches_of (by decide) (by decide +kernel),
   reaches_of (by decide) (by decide +kernel)⟩

/-- Thread x has sent a store of d to a window word, which waits to be accepted. -/
def storing (x : Nat) (w : BitVec 40) (d : BitVec 32) (s : State) : State :=
  s.modThread x fun t => { t with
    sb := [{ addr := w, data := d.setWidth 72, mask := 0xFF, phys := none, ord := 0, sent := true, acc := false, since := 0 }] }

/-- Thread x waits for the answer to a load of a window word into register r. -/
def loading (x r : Nat) (w : BitVec 40) (s : State) : State :=
  s.modThread x fun t => { t with
    wait := .load
    outst := some { dest := .land r 0 8, addr := w, unit := .window, since := 5, pc := 0, undo := none, ans := none, ansP := none } }

/-- ThreadCommands for stores through the core window, of thread 5 and of the thread itself; at a boundary and inside an
instruction. -/
theorem test_thread_command_from_thread :
    State.Writes (storing 5 0x300044 1 (regState {})) (.thread 5) (aThread 0 + 0x10) 1 ∧
    State.Writes (storing 0 0x300044 2 (regState { wait := .ready })) (.thread 0) (aThread 0 + 0x10) 2 ∧
    (regState { wait := .ready }).atBoundary 0 = true ∧
    State.Writes (storing 5 0x300044 2 (regState { wait := .ready, tried := true })) (.thread 5) (aThread 0 + 0x10) 2 ∧
    (storing 5 0x300044 2 (regState { wait := .ready, tried := true })).atBoundary 0 = false ∧
    State.Writes (storing 5 0x300042 0xFFFFFFFF (regState {})) (.thread 5) (aThread 0 + 8) 0xFFFFFFFF ∧
    State.Writes (storing 5 0x300046 0x80 (regState {})) (.thread 5) (aThread 0 + 0x18) ((0x80 : BitVec 8).setWidth 32) ∧
    State.Writes (storing 5 0x300046 0x10000 (regState {})) (.thread 5) (aThread 0 + 0x18) 0x10000 ∧
    State.Writes (storing 5 0x300045 0x80 (regState {})) (.thread 5) (aThread 0 + 0x14) ((0x80 : BitVec 8).setWidth 32) :=
  ⟨.inr ⟨_, rfl, writes_of (by decide +kernel)⟩,
   .inr ⟨_, rfl, writes_of (by decide +kernel)⟩,
   by decide +kernel,
   .inr ⟨_, rfl, writes_of (by decide +kernel)⟩,
   by decide +kernel,
   .inr ⟨_, rfl, writes_of (by decide +kernel)⟩,
   .inr ⟨_, rfl, writes_of (by decide +kernel)⟩,
   .inr ⟨_, rfl, writes_of (by decide +kernel)⟩,
   .inr ⟨_, rfl, writes_of (by decide +kernel)⟩⟩

/-- States of CoreRegisterWrites, at the first and the last core. -/
theorem test_core_register_meets :
    State.HostReaches (regState {}) .mgmt (aCore 7 31 + 0x10 + 4 * 3) ∧
    State.HostReaches (regState {}) .mgmt (aCore 7 31 + 0xC0 + 4 * 7) ∧
    State.HostReaches (regState { tceilP := true }) .mgmt (aCore 0 0 + 0x100 + 0x40 * 15) ∧
    ((regState { tceilP := true }).thread 0).tceilP = true ∧
    State.HostReaches (regState {} { slotDirty := true, bankDirty := true }) .mgmt (aCore 0 0 + 8) ∧
    (((regState {} { slotDirty := true, bankDirty := true }).core (coreKey 0 0)).slotDirty = true ∧
      slotTableOk ((regState {} { slotDirty := true, bankDirty := true }).slotPending 0 0) = true) ∧
    (let s := (regState {} { slotDirty := true, bankDirty := true }).setReg (aCore 0 0 + 0x10) 0x1111;
      slotTableOk (s.slotPending 0 0) = false) ∧
    State.HostReaches (regState {}) .mgmt (aCore 0 0) ∧
    ((regState {} { service := true }).core (coreKey 0 0)).service = true ∧
    State.HostReaches (regState {}) .mgmt (aIstore 0 + 0xC) ∧
    (regState {}).allMaint 0 = true ∧
    State.HostReaches (regState {}) .mgmt (aIstore 7 + 4) :=
  ⟨reaches_of (by decide) (by decide +kernel),
   reaches_of (by decide) (by decide +kernel),
   reaches_of (by decide) (by decide +kernel),
   by decide +kernel,
   reaches_of (by decide) (by decide +kernel),
   by decide +kernel,
   by decide +kernel,
   reaches_of (by decide) (by decide +kernel),
   by decide +kernel,
   reaches_of (by decide) (by decide +kernel),
   by decide +kernel,
   reaches_of (by decide) (by decide +kernel)⟩

/-- CoreRegisterWrites for stores of thread 5 through its core window, and the instruction store, which the host alone reaches. -/
theorem test_core_register_from_thread :
    State.Writes (storing 5 0x300007 0xFFFFFFFF (regState {})) (.thread 5) (aCore 0 0 + 0x10 + 4 * 3) 0xFFFFFFFF ∧
    State.Writes (storing 5 0x300037 0xFFFFFFFF (regState {})) (.thread 5) (aCore 0 0 + 0xC0 + 4 * 7) 0xFFFFFFFF ∧
    State.Writes (storing 5 0x300130 0xFFFFFFFF (regState {})) (.thread 5) (aCore 0 0 + 0x100 + 0x40 * 15) 0xFFFFFFFF ∧
    State.Writes (storing 5 0x300002 0x10000 (regState {})) (.thread 5) (aCore 0 0 + 8) 0x10000 ∧
    State.Writes (storing 5 0x300002 0xFFFF (regState {})) (.thread 5) (aCore 0 0 + 8) 0xFFFF ∧
    State.Writes (storing 5 0x300000 1 (regState {})) (.thread 5) (aCore 0 0) 1 ∧
    State.Writes (storing 5 0x300000 0 (regState {} { service := true })) (.thread 5) (aCore 0 0) 0 ∧
    State.HostReaches (regState {}) .tap (aIstore 0 + 0xC) ∧
    State.HostReaches (regState {}) .tap (aIstore 0 + 4) ∧
    mget 0 ((regState {}).grove 0).iecc 0 ≠ 2 :=
  ⟨.inr ⟨_, rfl, writes_of (by decide +kernel)⟩,
   .inr ⟨_, rfl, writes_of (by decide +kernel)⟩,
   .inr ⟨_, rfl, writes_of (by decide +kernel)⟩,
   .inr ⟨_, rfl, writes_of (by decide +kernel)⟩,
   .inr ⟨_, rfl, writes_of (by decide +kernel)⟩,
   .inr ⟨_, rfl, writes_of (by decide +kernel)⟩,
   .inr ⟨_, rfl, writes_of (by decide +kernel)⟩,
   reaches_of (by decide) (by decide +kernel),
   reaches_of (by decide) (by decide +kernel),
   by decide +kernel⟩

/-- A held thread, its return stack full, that a line would have entered. -/
def heldState : State := regState { held := true, rsp := 16, lcrpc := 77, ocause := 0x11, retry := { kind := .line 3, bad := some 5 } }

/-- States of GroveExceptionRegisters: a held thread. -/
theorem test_grove_exception_meets :
    State.HostReaches heldState .mgmt (aExc 0 + 0x14) ∧
    State.HostReaches heldState .mgmt (aExc 7) ∧
    heldState.hasShare (0 * 512 + 511) = false ∧
    State.HostReaches heldState .mgmt (aExc 0 + 0x10) ∧
    ((heldState.thread 0).held = true ∧ heldState.hasShare 0 = false ∧ (heldState.thread 0).haltReq = false) ∧
    State.HostReaches heldState .mgmt (aExc 0 + 0x1C) ∧
    State.HostReaches heldState .mgmt (aExc 0 + 0x20) ∧
    heldState.start.phase = .service :=
  ⟨reaches_of (by decide) (by decide +kernel),
   reaches_of (by decide) (by decide +kernel),
   by decide +kernel,
   reaches_of (by decide) (by decide +kernel),
   by decide +kernel,
   reaches_of (by decide) (by decide +kernel),
   reaches_of (by decide) (by decide +kernel),
   by decide +kernel⟩

/-- States of GroveExceptionRegisters for HREL.ACT 1: a held thread that is ready, and one whose core has left service mode and that the
host has told to halt. -/
theorem test_release_retry_meets :
    (let s := heldState.modThread 0 fun t => { t with wait := .ready }; State.HostReaches s .mgmt (aExc 0 + 0x10) ∧
      (s.thread 0).held = true ∧ (s.thread 0).wait ≠ .parked ∧ s.hrelOk .mgmt 0 0 = true) ∧
    (let s := heldState.modThread 0 fun t => { t with wait := .parked, haltReq := true }; State.HostReaches s .mgmt (aExc 0 + 0x10) ∧
      (s.thread 0).held = true ∧ (s.thread 0).wait = .parked ∧ (s.thread 0).haltReq = true ∧ (s.thread 0).halted = false) :=
  ⟨⟨reaches_of (by decide) (by decide +kernel), by decide +kernel⟩, reaches_of (by decide) (by decide +kernel), by decide +kernel⟩

/-- GroveExceptionRegisters for stores of thread 0, the recovery thread, while thread 5 is HELD. -/
theorem test_grove_exception_from_thread :
    State.Writes (storing 0 0x40D005 5 (regState {})) (.thread 0) (aExc 0 + 0x14) 5 ∧
    State.Writes (storing 0 0x40D000 511 (regState {})) (.thread 0) (aExc 0) 511 ∧
    ((regState {}).hasShare (0 * 512 + (511 : BitVec 32).toNat % 512) = false ∧ (regState {}).hasShare 5 = false) ∧
    ((regState {}).hrelOk (.thread 0) 0 5 = true ∧ (regState {}).hrelOk .mgmt 0 0 = true) ∧
    (((regState {}).setThread 5 { held := true }).thread 5).held = true ∧
    State.Writes (storing 0 0x40D004 5 ((regState {}).setThread 5 { held := true })) (.thread 0) (aExc 0 + 0x10) ((5 : Thid).setWidth 32) ∧
    State.Writes (storing 0 0x40D004 0x10005 ((regState {}).setThread 5 { held := true })) (.thread 0) (aExc 0 + 0x10) ((5 : Thid).setWidth 32 + 0x10000) ∧
    State.Writes (storing 0 0x40D007 1 (regState {})) (.thread 0) (aExc 0 + 0x1C) 1 ∧
    (regState {}).recSrc (.thread 0) 0 = true ∧
    State.Writes (storing 0 0x40D008 0x800000FF (regState {})) (.thread 0) (aExc 0 + 0x20) 0x800000FF :=
  ⟨.inr ⟨_, rfl, writes_of (by decide +kernel)⟩,
   .inr ⟨_, rfl, writes_of (by decide +kernel)⟩,
   by decide +kernel,
   by decide +kernel,
   by decide +kernel,
   .inr ⟨_, rfl, writes_of (by decide +kernel)⟩,
   .inr ⟨_, rfl, writes_of (by decide +kernel)⟩,
   .inr ⟨_, rfl, writes_of (by decide +kernel)⟩,
   by decide +kernel,
   .inr ⟨_, rfl, writes_of (by decide +kernel)⟩⟩

/-- A halted thread with a staged message for channel 63. -/
def stoppedState : State := regState { halted := true, staging := some (63, [1]) }

/-- States of DebugRegisters: a thread that is ready, parked, and halted with a staged message, and a selected register. -/
theorem test_debug_register_meets :
    State.HostReaches (regState { wait := .ready }) .mgmt (aThread 0 + 0x24) ∧
    (((regState { wait := .ready }).thread 0).wait = .ready ∧ ((regState { wait := .ready }).thread 0).halted = false) ∧
    State.HostReaches (regState {}) .tap (aThread 0 + 0x24) ∧
    (((regState {}).thread 0).halted = false ∧ ((regState {}).thread 0).wait = .parked ∧ ((regState {}).thread 0).held = false) ∧
    State.HostReaches stoppedState .mgmt (aThread 0 + 0x24) ∧
    ((stoppedState.thread 0).halted = true ∧ (stoppedState.thread 0).staging = some (63, [1])) ∧
    State.HostReaches (regState {}) .mgmt (aCore 0 0 + 0xB0) ∧
    State.HostReaches stoppedState .mgmt (aCore 0 0 + 0xB0) ∧
    bit (1 : BitVec 16) 0 = true ∧
    State.HostReaches stoppedState .mgmt (aCore 0 0 + 0xA0) ∧
    ((BitVec.ofNat 32 31).toNat % 128 = 31 ∧ ((BitVec.ofNat 32 31).toNat / 2 ^ 16) % 16 = 0 ∧ mget 0 (stoppedState.thread 0).ecc 31 ≠ 2) ∧
    State.HostReaches (stoppedState.setReg (aCore 0 0 + 0xA0) 31) .mgmt (aCore 0 0 + 0xAC) ∧
    (stoppedState.core (coreKey 0 0)).service = false :=
  ⟨reaches_of (by decide) (by decide +kernel),
   by decide +kernel,
   reaches_of (by decide) (by decide +kernel),
   by decide +kernel,
   reaches_of (by decide) (by decide +kernel),
   by decide +kernel,
   reaches_of (by decide) (by decide +kernel),
   reaches_of (by decide) (by decide +kernel),
   by decide,
   reaches_of (by decide) (by decide +kernel),
   by decide +kernel,
   reaches_of (by decide) (by decide +kernel),
   by decide +kernel⟩

/-! ## The trunk -/

/-- Port 0 with 2 reserved cells, a frame as given and a word on its link; dispatch runs. -/
def ingState (m : IngressMsg) (f : Option Frame) (st : PortSt := .up) : State :=
  { (((svc.setReg 0x83000 0xFF00002).setReg 0x83008 9000).setReg 0x80000 0x00FF0001) with
    links := [(0, { buf := [.ingress m] })], ports := [(0, { frame := f, st := st })] }

/-- A frame of n words whose last one is w. -/
def frm (n : Nat) (w : Word) : Frame := { cells := [5, 6], nwords := n, its := 77, last := w, dead := false }

/-- A last word of three symbols. -/
def lastW : Word := ofLanes [1, 2, 3, 0x1FD, 5, 6, 7, 8]

/-- A packet that has ended, in a domain at its last number. -/
def endedState : State := { svc.setReg 0x80000 0x00FF0001 with trunk := { ended := [2], pkts := [(2, pkt2)], doms := [(0, { head := 0, next := 65535 })] } }

/-- States of IngressAndNumbering: the longest frame, a first word, an end of three symbols, and the last number. -/
theorem test_ingress_meets :
    (((ingState (.word 5 55 true) (some (frm 1125 5))).link 0).buf = [.ingress (.word 5 55 true)] ∧
      ((ingState (.word 5 55 true) (some (frm 1125 5))).port 0).frame = some (frm 1125 5) ∧ 1125 % 8 ≠ 0 ∧
      8 * 1125 ≤ (ingState (.word 5 55 true) (some (frm 1125 5))).maxLen 0) ∧
    (((ingState (.word 5 55 true) none).port 0).frame = none ∧ (ingState (.word 5 55 true) none).inService = true ∧
      (ingState (.word 5 55 true) none).cellOk 0 = true ∧ ((ingState (.word 5 55 true) none).port 0).st = .up) ∧
    (((ingState (.auto 3) (some (frm 9 lastW))).link 0).buf = [.ingress (.auto 3)] ∧ lowK (frm 9 lastW).last = 3 ∧
      lane (frm 9 lastW).last 3 = 0x1FD ∧ 0 < 8 * (9 - 1) + 3 ∧
      8 * (9 - 1) + 3 ≤ (ingState (.auto 3) (some (frm 9 lastW))).maxLen 0) ∧
    (endedState.dispOn = true ∧ endedState.trunk.ended = [2] ∧ mfind endedState.trunk.pkts 2 = some pkt2 ∧
      endedState.trunk.slots.length < 16384) :=
  by and_intros <;> decide +kernel

/-- The port has all the cells that its limit allows. -/
def fullPort (s : State) : State := s.modPort 0 fun q => { q with used := 0xFF00 }

/-- States of IngressAndNumbering: a frame one word over its length, no cell for the next word, no service, and a port that is
not UP. -/
theorem test_ingress_discards :
    (let s := ingState (.word 5 55 true) (some (frm 1126 5)); (s.link 0).buf = [.ingress (.word 5 55 true)] ∧
      (s.port 0).frame = (some (frm 1126 5)) ∧ s.maxLen 0 < 8 * 1126) ∧
    (let s := fullPort (ingState (.word 5 55 true) (some (frm 8 5))); (s.port 0).frame = some (frm 8 5) ∧ 8 * 8 ≤ s.maxLen 0 ∧
      s.cellOk 0 = false) ∧
    (let s := { ingState (.word 5 55 true) none with start := { phase := .init1 } }; (s.port 0).frame = none ∧ s.inService = false) ∧
    (let s := ingState (.word 5 55 false) none; (s.port 0).frame = none ∧ s.inService = true ∧ (s.port 0).st = .up ∧
      (s.link 0).buf = [.ingress (.word 5 55 false)]) ∧
    (((ingState (.word 5 55 true) none .draining).port 0).frame = none ∧ ((ingState (.word 5 55 true) none .draining).port 0).st ≠ .up) ∧
    (lowK (frm 1 0).last = 8 ∧ 8 * (1126 - 1) + lowK lastW > (ingState (.auto 3) (some (frm 1126 lastW))).maxLen 0 ∧
      lowK (ofLanes [0x1FD, 0, 0, 0, 0, 0, 0, 0x1FD]) = 0) :=
  by and_intros <;> decide +kernel

/-- States of IngressAndNumbering for ends from FIN: each abort, VL of 8 and 0, and BCNT in an open or a new cell. -/
theorem test_ingress_fin :
    (let s := ingState (.fin 0x200 0 0) (some (frm 9 lastW)); (s.link 0).buf = [.ingress (.fin 0x200 0 0)] ∧
      (s.port 0).frame = some (frm 9 lastW) ∧ bit (0x200 : BitVec 10) 9 = true) ∧
    (let s := ingState (.fin 0x11 0 8) (some (frm 9 lastW)); (s.link 0).buf = [.ingress (.fin 0x11 0 8)] ∧
      (s.port 0).frame = some (frm 9 lastW) ∧ bit (0x11 : BitVec 10) 4 = true ∧ (0x11 : BitVec 10).toNat % 16 ≠ 0) ∧
    (let s := ingState (.fin 9 0 0) (some (frm 9 lastW)); (s.link 0).buf = [.ingress (.fin 9 0 0)] ∧
      (s.port 0).frame = some (frm 9 lastW) ∧ 8 < (9 : BitVec 10).toNat % 16) ∧
    (let s := ingState (.fin 0x168 0 0) (some (frm 9 lastW)); (s.link 0).buf = [.ingress (.fin 0x168 0 0)] ∧
      (s.port 0).frame = some (frm 9 lastW) ∧ (0x168 : BitVec 10).toNat % 16 = 8 ∧ bit (0x168 : BitVec 10) 4 = false ∧
      bit (0x168 : BitVec 10) 8 = true ∧ 8 * (9 - 1) + 8 ≤ s.maxLen 0) ∧
    (let s := ingState (.fin 0xE0 0 0) (some (frm 9 lastW)); (s.link 0).buf = [.ingress (.fin 0xE0 0 0)] ∧
      (s.port 0).frame = some (frm 9 lastW) ∧ (0xE0 : BitVec 10).toNat % 16 = 0 ∧ bit (0xE0 : BitVec 10) 4 = false) ∧
    (let s := ingState (.fin 0x10 7 7) (some (frm 8 lastW)); (s.link 0).buf = [.ingress (.fin 0x10 7 7)] ∧
      (s.port 0).frame = some (frm 8 lastW) ∧ bit (0x10 : BitVec 10) 4 = true ∧ min 8 (7 / 8) = 0) ∧
    (let s := ingState (.fin 0x10 7 9) (some (frm 9 lastW)); (s.link 0).buf = [.ingress (.fin 0x10 7 9)] ∧
      (s.port 0).frame = some (frm 9 lastW) ∧ min 8 (9 / 8) ≠ 0 ∧ 9 % 8 ≠ 0 ∧ 8 * 9 + 1 ≤ s.maxLen 0) ∧
    (let s := ingState (.fin 0x10 7 72) (some (frm 8 lastW)); (s.link 0).buf = [.ingress (.fin 0x10 7 72)] ∧
      (s.port 0).frame = some (frm 8 lastW) ∧ min 8 (72 / 8) = 8 ∧ 8 % 8 = 0 ∧ s.cellOk 0 = true ∧ 8 * 8 + 8 ≤ s.maxLen 0) ∧
    (let s := (ingState (.fin 0x10 7 8) (some (frm 8 lastW))).setReg 0x83008 64; (s.port 0).frame = some (frm 8 lastW) ∧
      s.cellOk 0 = true ∧ s.maxLen 0 < 8 * 8 + 1) ∧
    (let s := fullPort (ingState (.fin 0x10 7 8) (some (frm 8 lastW))); (s.port 0).frame = some (frm 8 lastW) ∧
      s.cellOk 0 = false) :=
  by and_intros <;> decide +kernel

/-- A numbered packet that waits for dispatch, with one credit of grove 0, and a descriptor that arrives there. -/
def dispState (share : Nat) : State :=
  { ((svc.setReg 0x80000 0x00FF0001).setReg (aDisp 0) (BitVec.ofNat 32 share)) with
    trunk := { issueQ := [7], slots := [(7, { dom := 1, seq := 3, cell := 2, done := none })], pkts := [(2, pkt2)], credits := [(0, 1)] }
    links := [(128, { buf := [.desc (dsc 0)] }), (136, { buf := [.credit] })]
    threads := [(0, { wait := .desc })], cores := [(0, { service := true })], groves := [(0, { free := 5, service := true })] }

/-- States of DescriptorFlow: one credit, a static share, and no share. -/
theorem test_descriptor_meets :
    ((dispState 5).dispOn = true ∧ ((dispState 5).pickGrove []).map Prod.fst = some 0 ∧ ((dispState 5).descOf 7).isSome = true) ∧
    ((dispState 5).link 136).buf = .credit :: [] ∧
    ((dispState 5).groveOn 0 = true ∧ ((dispState 5).link 128).buf = [.desc (dsc 0)] ∧ ((dispState 5).grove 0).poolQ = [] ∧
      (dispState 5).staticFor 0 = some 0) ∧
    ((dispState 0).staticFor 0 = none ∧ (dispState 0).dynamicFor 0 = none) :=
  by and_intros <;> decide +kernel

/-- States of DescriptorFlow with link credits and without, and with a packet whose timeout came before its issue. -/
theorem test_descriptor_credits :
    (((dispState 5).link 128).wait = [] ∧
      (Message.desc (((dispState 5).descOf 7).getD (dsc 0))).size ≤ ((dispState 5).link 128).credit) ∧
    (let s := { dispState 5 with links := [(128, { credit := 0 }), (136, { buf := [.credit] })] }; (s.link 128).wait = [] ∧
      (s.link 128).credit < (Message.desc ((s.descOf 7).getD (dsc 0))).size ∧ s.trunk.lost = [] ∧
      (s.pickGrove []).map Prod.fst = some 0) ∧
    (let s := { dispState 5 with trunk := { pkts := [(2, pkt2)], alloc := [2, 9], lost := [2] } }; s.dispOn = true ∧
      s.trunk.lost = [2] ∧ s.trunk.issueQ = [] ∧ mfind s.trunk.pkts 2 = some pkt2) :=
  by and_intros <;> decide +kernel

/-- The slot of packet 2, done as given, at the head of its domain. -/
def slt (d : Option (List Emit)) : Slot := { dom := 1, seq := 3, cell := 2, done := d }
/-- A copy for port 0 in class 1. -/
def emt (skip trim : Nat) : Emit := { port := 0, cls := 1, tsupd := false, oven := false, skip := skip, trim := trim, ovoff := 0, e1 := 0 }
/-- The completion of packet 2. -/
def cmp2 : Completion := { tag := 7, dom := 1, seq := 3, cell := 2, emits := [emt 0 0] }
/-- That slot in the collector, 128 heartwood cycles after it became the head; a timeout of one unit. -/
def collState (d : Option (List Emit)) : State :=
  { ((svc.setReg 0x8000C 1).setReg (aEgress 0 + 0x14) 0x30001) with
    trunk := { slots := [(7, slt d)], doms := [(1, { head := 3, next := 4, since := 10 })], pkts := [(2, pkt2)] }
    hw := 138, ports := [(0, { st := .up })], groves := [(0, { cq := [{ comp := cmp2, left := 1 }], lane := 1 })] }

/-- States of CollectorResults: a completion, a drop, a copy of one symbol, and the timeout at its limit. -/
theorem test_collector_meets :
    (((collState none).grove 0).cq = [{ comp := cmp2, left := 1 }] ∧ mfind (collState none).trunk.slots 7 = some (slt none) ∧
      (slt none).dom = cmp2.dom ∧ (slt none).seq = cmp2.seq ∧ ((collState none).grove 0).lane = 1) ∧
    ((collState (some [])).trunk.slots = [(7, slt (some []))] ∧ (slt (some [])).seq = ((collState (some [])).trunk.dom 1).head ∧
      mfind (collState (some [])).trunk.pkts 2 = some pkt2) ∧
    ((emt 50 49).skip + (emt 50 49).trim < pkt2.len ∧ ((collState (some [emt 50 49])).port 0).st = .up ∧
      (((collState (some [emt 50 49])).port 0).queue 1).length < (collState (some [emt 50 49])).qlim 0 1) ∧
    ((collState none).trunk.headSlot 1 = some (7, slt none) ∧
      ((collState none).trunk.dom 1).since + ((collState none).reg 0x8000C).toNat % 65536 * 128 ≤ (collState none).hw) :=
  by and_intros <;> decide +kernel

/-- The completion of packet 2 in the lane of the collector, with the slot given for its tag. -/
def staleState (slots : SMap Slot) (pkts : SMap Packet) : State :=
  { collState none with trunk := { slots := slots, pkts := pkts, alloc := [2, 9] } }

/-- States of CollectorResults: a completion of which a word is to come, one whose slot is free, with its packet and without, and
one whose slot holds another domain or number. -/
theorem test_collector_stale :
    (let s := (collState none).modGrove 0 fun v => { v with cq := [{ comp := cmp2, left := 2 }], lane := 2 };
      (s.grove 0).cq = [{ comp := cmp2, left := 2 }] ∧ 1 ≤ (s.grove 0).lane) ∧
    (let s := staleState [] [(2, pkt2)]; (s.grove 0).cq = [{ comp := cmp2, left := 1 }] ∧ 1 ≤ (s.grove 0).lane ∧
      mfind s.trunk.slots cmp2.tag = none ∧ mfind s.trunk.pkts cmp2.cell = some pkt2) ∧
    mfind (staleState [] []).trunk.pkts cmp2.cell = none ∧
    (let s := staleState [(7, { slt none with dom := 2 })] [(2, pkt2)];
      (mfind s.trunk.slots 7).any (fun l => decide (l.dom ≠ cmp2.dom)) = true) ∧
    (let s := staleState [(7, { slt none with seq := 4 })] [(2, pkt2)];
      (mfind s.trunk.slots 7).any (fun l => decide (l.seq ≠ cmp2.seq)) = true) :=
  by and_intros <;> decide +kernel

/-- States of CollectorResults: timeouts of a head that was issued and of one that was not. -/
theorem test_collector_timeouts :
    ((∀ x ∈ (collState none).trunk.slots, x.2.done = none) ∧ ((collState none).reg 0x8000C).toNat % 65536 ≠ 0 ∧
      7 ∉ (collState none).trunk.issueQ) ∧
    (let s := { collState none with trunk := { (collState none).trunk with issueQ := [7, 9] } }; s.trunk.headSlot 1 = some (7,
      slt none) ∧ 7 ∈ s.trunk.issueQ) :=
  by and_intros <;> decide +kernel

/-- Three packets that are done: two of domain 1 in sequence, the second a drop, and one of domain 2, with two copies; the
queues of classes 1 and 3 hold n; domain 1 was served last. -/
def retireState (n : Nat) : State :=
  { ((svc.setReg (aEgress 0 + 0x14) (BitVec.ofNat 32 (n * 2 ^ 16))).setReg (aEgress 0 + 0x18) (BitVec.ofNat 32 (n * 2 ^ 16))) with
    trunk := { slots := [(7, slt (some [emt 0 0, { emt 0 0 with cls := 3 }])), (8, { dom := 1, seq := 4, cell := 20, done := some [] }),
                         (9, { dom := 2, seq := 65535, cell := 30, done := some [emt 0 0, emt 5 5] })]
               doms := [(1, { head := 3, next := 5 }), (2, { head := 65535, next := 0 })], rot := 1, alloc := [2, 9, 20, 30]
               pkts := [(2, pkt2), (20, { pkt2 with cells := [20] }), (30, { pkt2 with cells := [30] })] }
    ports := [(0, { st := .up })] }

/-- States of CollectorResults for a trunk cycle in which several packets retire: domain 2 first, then the two of domain 1 in sequence, with
room for all their copies and without; and a cycle that retires 8 of 9. -/
theorem test_collector_several :
    (let s := retireState 3; s.beatReady 8 = true ∧ s.trunk.retiring.map (·.1) = [9, 7, 8] ∧
      (∀ x ∈ s.trunk.slots, ∀ y ∈ s.trunk.slots, x.1 = y.1 → x = y) ∧ (s.trunk.retiring.map (fun x => x.2.1.cell)).Nodup ∧
      (∀ x ∈ s.trunk.retiring, (mfind s.trunk.pkts x.2.1.cell).isSome = true) ∧
      (s.trunk.retiring.flatMap s.handed).map (fun y => (y.emit.cls, y.cell)) = [(1, 30), (1, 30), (1, 2), (3, 2)]) ∧
    ((retireState 2).qlim 0 1 = 2 ∧ (retireState 3).qlim 0 1 = 3 ∧ (retireState 3).qlim 0 3 = 3) ∧
    ({ slots := (upto 9).map fun i => (i, { slt (some []) with seq := i }) : Trunk }.inRow 1 0 9).length = 9 ∧
    ({ slots := (upto 9).map fun i => (i, { slt (some []) with seq := i }) : Trunk }.retiring).length = 8 :=
  by and_intros <;> decide +kernel

/-- States of TrunkRegisters: the last registers of each group, and a held thread. -/
theorem test_trunk_register_meets :
    State.HostReaches (regState { held := true }) .mgmt (aDisp 0 + 0x1008) ∧
    ((regState { held := true }).thread (0 * 512 + 0)).held = true ∧
    State.HostReaches (svc) .mgmt (0x81000 + 8 * 127 + 4 * 1) ∧
    State.HostReaches (svc) .mgmt (0x83000 + 16 * 127) ∧
    State.HostReaches (svc) .mgmt (aDisp 7 + 4 * 511) ∧
    State.HostReaches (svc) .mgmt (aDisp 7 + 0x1000) ∧
    (svc.allMaint 7 = true ∧ (svc.setReg (aDisp 7 + 4 * 511) (5 &&& 0xF)).capacity 7 ≤ 2048) ∧
    State.HostReaches (svc) .tap (0x80014) :=
  ⟨reaches_of (by decide) (by decide +kernel),
   by decide +kernel,
   reaches_of (by decide) (by decide +kernel),
   reaches_of (by decide) (by decide +kernel),
   reaches_of (by decide) (by decide +kernel),
   reaches_of (by decide) (by decide +kernel),
   by decide +kernel,
   reaches_of (by decide) (by decide +kernel)⟩

/-- The same with a full completion queue. -/
def noRoom : State :=
  (regState { held := true, descs := [dsc 0, dsc 1] }).modGrove 0 fun v => { v with cq := [{ comp := cmp2, left := 64 }] }

/-- States of TrunkRegisters: a held thread with two descriptors, and room for them or none. -/
theorem test_dabandon_meets :
    (let s := regState { held := true, descs := [dsc 0, dsc 1] }; (s.grove 0).abandQ = [] ∧
      (s.grove 0).cqOcc + (s.thread 0).descs.length ≤ 64) ∧
    State.HostReaches noRoom .mgmt (aDisp 0 + 0x1008) ∧
    64 ≤ (noRoom.grove 0).cqOcc :=
  ⟨by decide +kernel,
   reaches_of (by decide) (by decide +kernel),
   by decide +kernel⟩

/-! ## Egress, ports and rings -/

/-- A copy in class 1 of cell k. -/
def cpy (k : Nat) : Copy := { emit := emt 0 0, cell := k, len := 100, its := 0, iport := 3, dom := 0, seq := k, cls := 3, bad := 0 }

/-- Port 0 UP with strict classes, one copy waiting in class 1, classes 0 and 7 held since cycle 10. -/
def egrState (hold : BitVec 8) : State :=
  { (((svc.setReg (aEgress 0) 0xFF000).setReg (aEgress 0 + 0x24) 1).setReg 0x80000 0x00FF0001) with
    hw := 139, ports := [(0, { st := .up, queues := [(1, [cpy 1])], hold := hold, holdAt := [(0, 10), (7, 10)],
                               etsq := [{ ets := 5, dom := 3, seq := 4 }] })] }

/-- Port 0 with two banks of three gate entries, the second one armed as given. -/
def gateState (bt : Nat) (arm : Option Nat) : State :=
  { (((svc.setReg (aEgress 0) 0xFF002).setReg (aEgress 0 + 0x0C) 0).setReg 0x8C000 0x1001) with
    time := { bt := bt }
    ports := [(0, { st := .up, glen := [(0, 3), (1, 3)], gcycle := [(0, 1000), (1, 300)], garm := arm,
                    gents := [(0, 0x100000040), (1, 0x200000040), (2, 0x300000040), (1024, 0x100000040), (1025, 0x200000040), (1026, 0x300000040)],
                    gbase := [(0, 5000000000), (1, 10000000000)] })] }

/-- States of EgressResults: the highest class, a hold at its limit, the last moment before BASE, an armed bank at its time, and
free and locked banks. -/
theorem test_egress_meets :
    ((egrState 0).inService = true ∧ (egrState 0).strict 0 1 = true ∧ bit ((egrState 0).egcfg 0) 2 = false ∧
      bit ((egrState 0).gates 0) 1 = true) ∧
    (((egrState 0).port 0).queue 1 = [cpy 1] ∧ ((egrState 0).port 0).queues = [(1, [cpy 1])] ∧ (cpy 1).bad = 0 ∧
      ((egrState 0).port 0).offer = none ∧ ((egrState 0).port 0).lane = []) ∧
    (mfind ((egrState 0x81).port 0).holdAt 7 = some 10 ∧ bit ((egrState 0x81).port 0).hold 7 = true ∧
      10 + ((egrState 0x81).reg (aEgress 0 + 0x24)).toNat % 65536 * 128 < (egrState 0x81).hw) ∧
    (let s := gateState 4999999997 none; s.gateEn 0 = true ∧ s.portOn 0 = true ∧ (s.port 0).gact = 0 ∧
      (s.port 0).gbas 0 = 5000000000 ∧ (s.port 0).glen' 0 = 3 ∧ (s.port 0).gcyc 0 = 1000) ∧
    (let s := gateState 10000000002 (some 0); (s.port 0).garm = some 0 ∧ (s.port 0).gact = 0 ∧ (s.port 0).gbas 1 = 10000000000) ∧
    State.HostReaches (gateState 0 none) .mgmt (0x8C020) ∧
    (let q := (gateState 0 none).port 0; q.glen' 1 ≠ 0 ∧ q.gcyc 1 ≠ 0 ∧ 1 ≠ q.gact ∧ ∀ i, i < q.glen' 1 →
      64 ≤ (q.gent 1 i).toNat % 2 ^ 32) ∧
    (((gateState 0 none).port 0).bankLocked 1 = false ∧ ((gateState 0 (some 0)).port 0).bankLocked 1 = true ∧
      ((gateState 0 none).reg 0x8C000).toNat / 2 ^ 16 % 128 = 0) ∧
    State.HostReaches (gateState 0 none) .mgmt (0x8C004) ∧
    State.HostReaches (gateState 0 none) .mgmt (0x8C008) ∧
    State.HostReaches (gateState 0 none) .mgmt (0x8C00C) ∧
    State.HostReaches (gateState 0 none) .mgmt (0x8C010) ∧
    State.HostReaches (gateState 0 none) .mgmt (gateReg .base2) ∧
    State.HostReaches (egrState 0) .mgmt (aIsland 0 + 0xE000 + 16 * (0 % 32)) ∧
    (((egrState 0).port 0).etsq = [{ ets := 5, dom := 3, seq := 4 }] ∧ (egrState 0).portOn 0 = true ∧ (egrState 0).pinMode 0 = false) :=
  ⟨by decide +kernel,
   by decide +kernel,
   by decide +kernel,
   by decide +kernel,
   by decide +kernel,
   reaches_of (by decide) (by decide +kernel),
   by decide +kernel,
   by decide +kernel,
   reaches_of (by decide) (by decide +kernel),
   reaches_of (by decide) (by decide +kernel),
   reaches_of (by decide) (by decide +kernel),
   reaches_of (by decide) (by decide +kernel),
   reaches_of (by decide) (by decide +kernel),
   reaches_of (by decide) (by decide +kernel),
   by decide +kernel⟩

/-- Port 0 with no strict class, copies of 100 symbols in classes 1 and 3, and the turn of class 7 or that of class 1. -/
def fairState (inTurn : Bool) (turn deficit : Nat) : State :=
  { (svc.setReg (aEgress 0 + 4) 0x640000).setReg 0x80000 0x00FF0001 with
    ports := [(0,
      { st := .up, queues := [(1, [cpy 1]), (3, [cpy 2, cpy 3])], inTurn := inTurn, turn := turn, deficit := [(1, deficit)] })] }

/-- An express frame in a lane. -/
def exp (words : List Word) (started : Bool) : XFrame :=
  { words := words, started := started, frag := false, ring := 0, dir := true, seq := 0, syms := 16, ets := 0 }

/-- Port 0 with express frames in its lane, the first one started or not, and a copy on offer or not. -/
def laneState (started : Bool) (tail : Bool) : State :=
  (egrState 0).modPort 0 fun q =>
    { q with lane := [exp [3, 4] started, exp [5] false], tail := tail, txl := some 9 }

/-- States of EgressResults for the gates of port 0: its island's copy stands just before BASE, in the second entry, in the last
one, and at the instant of the swap, wherever it is beside the master. -/
theorem test_gate_copies :
    (gateState 4999999997 none).copyOf 6 < 5000000000 ∧
    (let c := (gateState 5000000430 none).copyOf 6; 5000000000 ≤ c ∧ 64 ≤ (c - 5000000000) * 10 ^ 9 / 2 ^ 32 % 1000 ∧
      (c - 5000000000) * 10 ^ 9 / 2 ^ 32 % 1000 < 128) ∧
    (let c := (gateState 5000003000 none).copyOf 6; 5000000000 ≤ c ∧ 128 ≤ (c - 5000000000) * 10 ^ 9 / 2 ^ 32 % 1000) ∧
    (let c := (gateState 10000000002 (some 0)).copyOf 6; 10000000000 ≤ c ∧ 0 ≤ nsOf (c - 10000000000)) :=
  ⟨copy_cases (P := fun c => c < 5000000000) (by decide +kernel),
   copy_cases (P := fun c => 5000000000 ≤ c ∧ 64 ≤ (c - 5000000000) * 10 ^ 9 / 2 ^ 32 % 1000 ∧
     (c - 5000000000) * 10 ^ 9 / 2 ^ 32 % 1000 < 128) (by decide +kernel),
   copy_cases (P := fun c => 5000000000 ≤ c ∧ 128 ≤ (c - 5000000000) * 10 ^ 9 / 2 ^ 32 % 1000) (by decide +kernel),
   copy_cases (P := fun c => 10000000000 ≤ c ∧ 0 ≤ nsOf (c - 10000000000)) (by decide +kernel)⟩

/-- States of EgressResults: a class that keeps its turn with a deficit of one copy, and the class after the last one with a
quantum of one copy; gates inside an entry and at the end of the list. -/
theorem test_fair_turn :
    (let s := fairState true 1 100; s.strict 0 1 = false ∧ (s.port 0).inTurn = true ∧ (s.port 0).turn = 1 ∧
      (cpy 1).len ≤ mget 0 (s.port 0).deficit 1 ∧ bit (s.gates 0) 1 = true) ∧
    (let s := fairState false 7 0; (s.port 0).inTurn = false ∧ 1 = ((s.port 0).turn + 1 + 1) % 8 ∧ (∀ j, j < 1 →
      (s.port 0).queue (((s.port 0).turn + 1 + j) % 8) = []) ∧ (cpy 1).len ≤ 0 + fld (s.reg (aEgress 0 + 4)) 16 16) ∧
    (let q := (gateState 0 none).port 0; ((upto 1).map (fun j => (q.gent 0 j).toNat % 2 ^ 32)).sum = 64 ∧
      ((upto 3).map (fun j => (q.gent 0 j).toNat % 2 ^ 32)).sum = 192) ∧
    State.HostReaches (gateState 0 none) .mgmt (gateReg .base0) ∧
    State.HostReaches (gateState 0 none) .mgmt (gateReg .base1) ∧
    (((laneState true true).port 0).lane.map (·.started) = [true, false] ∧ ((laneState false false).port 0).sending = false ∧
      ((laneState false true).port 0).sending = true ∧ (laneState false true).portOn 0 = true ∧
      (laneState false true).pinMode 0 = false) :=
  ⟨by decide +kernel,
   by decide +kernel,
   by decide +kernel,
   reaches_of (by decide) (by decide +kernel),
   reaches_of (by decide) (by decide +kernel),
   by decide +kernel⟩

/-- Port 0 in a state, with its link up, a copy waiting as given and its drain begun in tick 3; now it is tick 5. -/
def portState (st : PortSt) (qs : SMap (List Copy)) : State :=
  { svc with ports := [(0, { st := st, link := true, queues := qs, drain := 3, pend := true })], time := { tick := 5 } }

/-- States of PortStateChanges. -/
theorem test_port_state_meets :
    State.HostReaches (portState .up []) .mgmt (aPort 0) ∧
    (((portState .starting []).port 0).st = .starting ∧ ((portState .starting []).port 0).link = true ∧
      (portState .starting []).portOn 0 = true) ∧
    (let q := (portState .draining [(1, [cpy 2])]).port 0; q.queuesEmpty = false ∧ q.drain + max 1 0 + 1 ≤ 5) ∧
    (let s := portState .draining []; (s.port 0).infl = 0 ∧ (s.port 0).queuesEmpty = true ∧ (s.port 0).txIdle = true ∧
      s.portOn 0 = true) :=
  ⟨reaches_of (by decide) (by decide +kernel),
   by and_intros <;> decide +kernel⟩

/-- A state of PortStateChanges in which EN is written while the port is DRAINING. -/
theorem test_port_pending :
    State.HostReaches (portState .draining []) .mgmt (aPort 0) ∧
    ((portState .draining []).port 0).st = .draining :=
  ⟨reaches_of (by decide) (by decide +kernel),
   by decide +kernel⟩

/-- Ring 0 enabled over ports 0 and 1 of station 0:0:0:0:0:7. -/
def ringState : State :=
  { (((svc.setReg (aRing 0) 0x80010000).setReg (aRing 0 + 8) 7).setReg 0x80000 1) with
    ports := [(0, { st := .up }), (1, { st := .up })], rings := [(0, { lane := true, attach := .high })] }

/-- An HSR frame from station 8 to station 9 of 72 symbols after its start word. -/
def ringFrame : List Word :=
  let l : List (BitVec 9) := ([0, 0, 0, 0, 0, 9, 0, 0, 0, 0, 0, 8, 0x89, 0x2F] ++ upto 58).map (BitVec.ofNat 9)
  ofLanes [0x1FB, 0x55, 0x55, 0x55, 0x55, 0x55, 0x55, 0xD5] :: (upto 9).map (fun k => ofLanes ((l.drop (8 * k)).take 8)) ++ [ofLanes [0x1FD]]

/-- A copy that waits for duplicate discard, with its key in the stash of table 3. -/
def dupState : State :=
  { ((svc.setReg (aRing 0 + 0x10) 0x8003).setReg (0xA1000 + 0x20 * 3) 0x80000000) with
    rings := [(0, { ddq := [{ port := 4, key := 5, cell := 2 }] })], trunk := { pkts := [(2, pkt2)] }
    lookup := { ready := true, tables := [(3, { slots := [(3, { keyl := 5, keyh := 0, result := 3, static := false, plen := 144, user := 0, lasthit := 0 })] })] } }

/-- States of RingResults: a ring that may be enabled, a pair that may not, a ring that is closed, a frame that passes, and a
duplicate. -/
theorem test_ring_meets :
    State.HostReaches (svc) .mgmt (aRing 15) ∧
    (svc.ringOk 0 (0x80010000 &&& 0xF87F7FFF) = true ∧ svc.ringEn 0 = false ∧ svc.start.phase = .service) ∧
    svc.ringOk 0 (0x80000000 &&& 0xF87F7FFF) = false ∧
    State.HostReaches (ringState) .mgmt (aRing 0) ∧
    ringState.ringEn 0 = true ∧
    ((upto 16).find? (fun i => ringState.laneActive i && (ringState.portA i = 0 || ringState.portB i = 0)) = some 0 ∧
      (readX ringFrame).isSome = true ∧ ringState.portA 0 = 0 ∧ ringState.portB 0 ≠ 0 ∧ (ringState.ring 0).breakB = false) ∧
    (readX ringFrame).any (fun x => addrOf x.da ≠ some (ringState.ringAddr 0) && x.typeOk && addrOf x.sa ≠ some (ringState.ringAddr 0)) = true ∧
    ((dupState.ring 0).ddq = [{ port := 4, key := 5, cell := 2 }] ∧ dupState.lookup.ready = true ∧ dupState.lookup.cmds = [] ∧
      dupState.tblEn 3 = true ∧ dupState.tblLpm 3 = false ∧
      ((dupState.stash 3).find? (fun c => c.2.matchAt 5 144)).isSome = true) :=
  ⟨reaches_of (by decide) (by decide +kernel),
   by decide +kernel,
   by decide +kernel,
   reaches_of (by decide) (by decide +kernel),
   by and_intros <;> decide +kernel⟩

/-- Ring 0 for frames that port 0 takes into 4 cells at most: copies in class 5, the duplicate check as RINGDD says, a line break of
PORTB or none. -/
def ringIn (brk : Bool) (dd : BitVec 32) : State :=
  { ((((ringState.setReg (aRing 0) 0xA8010000).setReg 0x83000 0xFF00004).setReg 0x83008 72).setReg (aRing 0 + 0x10) dd) with
    rings := [(0, { lane := true, attach := .high, breakB := brk })] }

/-- An HSR frame of 72 symbols with its FCS, from the station to the one whose addresses end and begin as given, of the type given. -/
def ringFrameOf (group last sa ty : Nat) : List Word :=
  let l : List (BitVec 9) := ([group, 0, 0, 0, 0, last, 0, 0, 0, 0, 0, sa, 0x89, ty] ++ upto 54).map (BitVec.ofNat 9)
  let crc := crc32 (l.map (fun x => x.setWidth 8))
  let l := l ++ (upto 4).map (fun i => BitVec.ofNat 9 (crc / 256 ^ i % 256))
  ofLanes [0x1FB, 0x55, 0x55, 0x55, 0x55, 0x55, 0x55, 0xD5] :: (upto 9).map (fun k => ofLanes ((l.drop (8 * k)).take 8)) ++ [ofLanes [0x1FD]]

/-- What the express clauses of RingResults ask of ring 0, port 0 and a frame, and that a copy of it finds its cells. -/
def inRing (s : State) (words : List Word) (q : XIn → Bool) : Bool :=
  (upto 16).find? (fun i => s.laneActive i && (s.portA i = 0 || s.portB i = 0)) == some 0 && s.portOn 0 && s.start.phase != .safe &&
    s.portA 0 == 0 && s.portB 0 != 0 && (readX words).any (fun x => q x && decide (0 < x.syms.length) && decide (x.syms.length ≤ s.maxLen 0) &&
      decide ((s.port 0).used + (x.syms.length + 63) / 64 ≤ s.resv 0)) && s.dispOn && decide (s.trunk.alloc.length + 2 ≤ 524288)

/-- States of RingResults for express frames: for a group, with and without the duplicate check, for the own address with its fragment,
cut off for its type and for its source, and at a line break. -/
theorem test_ring_express :
    inRing (ringIn false 0x8003) (ringFrameOf 1 9 8 0x2F) (fun x => x.typeOk && x.fcsOk && !x.errEnd &&
      addrOf x.da != some 7 && addrOf x.sa == some 8 && (x.da.head?.map fun y => bit y 0 && !bit y 8) == some true) = true ∧
    inRing (ringIn false 0) (ringFrameOf 1 9 8 0x2F) (fun x => x.fcsOk) = true ∧
    (let s := ringIn false 0x8003; inRing s (ringFrameOf 0 7 8 0x2F) (fun x => x.fcsOk && addrOf x.da == some (s.ringAddr 0)) = true ∧
      s.rate10 0 < 250 ∧ (s.port 1).lane = [] ∧ (s.port 1).sending = false) ∧
    (2 < (ringFrameOf 2 9 8 0x30).length ∧ inRing (ringIn false 0) (ringFrameOf 2 9 8 0x30) (fun x => !x.typeOk && addrOf x.da != some 7) = true) ∧
    inRing (ringIn false 0) (ringFrameOf 2 9 7 0x2F) (fun x => x.typeOk && addrOf x.sa == some 7 && addrOf x.da != some 7) = true ∧
    (((ringIn true 0).ring 0).breakB = true ∧
      inRing (ringIn true 0) (ringFrameOf 1 9 8 0x2F) (fun x => addrOf x.da != some 7) = true ∧
      inRing (ringIn true 0) (ringFrameOf 0 7 8 0x2F) (fun x => addrOf x.da == some 7) = true) :=
  by and_intros <;> decide +kernel

/-- States of RingResults for a duplicate check that ends: as OK, with EXISTS, and with an error. -/
theorem test_ring_check_ends :
    ∀ rc ∈ [0, 2, 4], (let s := dupState.modCmd 129 fun c => { c with busy := true, ran := true, rcN := rc };
      (s.ring 0).ddq = [{ port := 4, key := 5, cell := 2 }] ∧ (s.cmd (129 + 0)).complete = true ∧ (s.cmd 129).rcN = rc) :=
  by decide +kernel

/-- The stash entry of RingResults that a duplicate check finds: the table is not being cleared, the entry is whole and its time is not due. -/
theorem test_ring_exists :
    (dupState.tbl 3).clr = none ∧ ((dupState.stash 3).find? (fun c => c.2.matchAt 5 144)).any (fun c => dupState.entry 3 c.1 == some c.2 &&
      mget 0 dupState.lookup.ecc (eccKey 3 c.1) == 0 && !dupState.hitDue 3 c.2) = true :=
  by decide +kernel

/-- A ring in service at the end of a tick, its ports as they were in it; one fault and one break stand with the given clean count. -/
def judgedState (a b : Obs) (clean : Nat) : State :=
  { ringState.setReg (aRing 0) 0x80010002 with
    time := { acq := true, tick := 99, closed := 100, bt := 100 * 2 ^ 20 * 2 ^ 32 / 10 ^ 9 + 5, begun := (List.range 18).map fun i => (i, 100) }
    ports := [(0, { st := .up, last := a }), (1, { st := .up, last := b })]
    rings := [(0, { lane := true, attach := .low, faultA := true, cleanFA := clean, breakB := true, cleanBB := clean })] }

/-- States of RingResults at a tick boundary: two clean observations, a port that was down and one that had errors, and the last
clean tick. -/
theorem test_ring_judged :
    (let s := judgedState { down := false, link := false } { down := false, link := false } 0; s.ringEn 0 = true ∧
      (∀ i, i < 18 → s.islTick i ≤ s.time.begunBy i ∧ s.time.closed ≤ s.time.begunBy i) ∧ s.time.acq = true ∧
      s.time.tick < s.time.closed ∧ s.start.phase = .service) ∧
    (let s := judgedState { down := true } { down := false, err := true, link := false, bad := 1 } 0;
      (s.treg (aRing 0 + 4)).toNat % 65536 < (s.port (s.portB 0)).last.bad ∧ (s.port (s.portA 0)).last.down = true) ∧
    (let s := judgedState { down := false, link := false } { down := false, link := false } 1;
      max 1 ((s.treg (aRing 0)).toNat % 256) ≤ (s.ring 0).cleanFA + 1 ∧ (s.ring 0).attach ≠ .z) :=
  by and_intros <;> decide +kernel

/-! ## Port engines -/

/-- Engine 3 of port 0, at PC 5 of the range 0 to 47, finds word w; in word mode or in pin mode with pin 3 its own. -/
def engState (w : Nat) (pin : Bool) (x : Engine := {}) : State :=
  { ((svc.setReg (aEngine 0 3) 0xBC0).setReg (aIsland 0 + 0xC0) (if pin then 0x8003C000 + 0xC0 * 2 ^ 14 else 0xC000000)) with
    ports := [(0, { st := .up, store := [(5, BitVec.ofNat 24 w)], pinIn := 0xA, engines := [(3, { x with st := .running, pc := 5 })] })] }

/-- States of EngineFlowResults. -/
theorem test_engine_flow_meets :
    State.EngineRuns (engState 0x8800 false) 0 3 .mov 0x8800 ∧
    State.EngineRuns (engState 0x130400 true) 0 3 .shin 0x130400 ∧
    State.EngineRuns (engState 0x230400 true) 0 3 .shout 0x230400 ∧
    State.EngineRuns (engState 0x360000 false) 0 3 .wait 0x360000 ∧
    State.EngineRuns (engState 0x3C0000 false) 0 3 .wait 0x3C0000 ∧
    State.EngineRuns (engState 0x4C0005 false) 0 3 .jmp 0x4C0005 :=
  by and_intros <;> decide +kernel

/-- The same with every endpoint owned by the engine, and TXL as given. -/
def ownState (w : Nat) (txl : Option Word) : State :=
  ((engState w false).setReg (aIsland 0 + 0xC0) 0xFC00000).modPort 0 fun q => { q with txl := txl, inOpen := true }

/-- EngineFlowResults: MOV to and from every place, with each JM, TXL taken or free, and TRKR without an offer. -/
theorem test_engine_mov_meets :
    (∀ w ∈ [0x0, 0x8000, 0x10000, 0x18000, 0x20000, 0x28000, 0x40000, 0x48000, 0x50000, 0x60000, 0x70000, 0x78000, 0x8400,
      0x8800, 0x8c00, 0x9000, 0x9400, 0x9800, 0xb000, 0xb400, 0xb800, 0xbc00, 0xc000, 0x2c7ff, 0x993f, 0x9a3f, 0x9b3f],
      State.EngineRuns (engState w false) 0 3 .mov (BitVec.ofNat 24 w)) ∧
    (∀ w ∈ [0x68800], State.EngineRuns (engState w true) 0 3 .mov (BitVec.ofNat 24 w)) ∧
    (∀ w ∈ [0x38800, 0x50800, 0x49800, 0xac00], State.EngineRuns (ownState w none) 0 3 .mov (BitVec.ofNat 24 w)) ∧
    (∀ w ∈ [0x38800, 0x39a05], State.EngineRuns (ownState w (some 3)) 0 3 .mov (BitVec.ofNat 24 w)) ∧
    ((ownState 0x8800 none).port 0).offer = none ∧ ((ownState 0x8800 none).port 0).inOpen = true ∧
    (let s := (ownState 0xac00 none).modPort 0 fun q => { q with
        offer := some { copy := { emit := emt 0 0, cell := 2, len := 100, its := 0, iport := 3, dom := 0, seq := 1, cls := 3, bad := 0 },
                        pos := 3, there := 3, ets := none, cut := false } };
      State.EngineRuns s 0 3 .mov 0xac00 ∧ (s.port 0).offer.all (fun o => !o.cut && decide (o.there ≤ o.pos)) = true) :=
  by and_intros <;> first | decide +kernel | (unfold State.EngineRuns; decide +kernel)

/-- Port 0 in word mode or in pin mode offers a copy of n symbols of packet 2, of which one word has an uncorrectable error or none. -/
def copyState (pin : Bool) (o : Offer) (n live : Nat) (ecc : SMap Nat) : State :=
  { (((if pin then (engState 0xac00 true).setReg (aIsland 0 + 0xC0) 0x8FC00000 else ownState 0xac00 none)).modPort 0 fun q =>
      { q with offer := some o, eoc := false }) with
    trunk := { pkts := [(2, { pkt2 with len := n, live := live })], alloc := [2, 9], ecc := ecc } }

/-- A copy on offer, 92 of 100 symbols, at a word of it. -/
def offerAt (pos there : Nat) (cut : Bool) : Offer :=
  { copy := { cpy 1 with emit := emt 3 5, cell := 2 }, pos := pos, there := there, ets := some 77, cut := cut }

/-- States of EngineFlowResults for a MOV from TRKR: a word within the copy, its last word with one copy of its packet left and with two,
the first word in pin mode, a copy that was cut off, an uncorrectable word of the packet, and a destination that is full. -/
theorem test_engine_trkr_meets :
    (let s := copyState false (offerAt 3 10 false) 100 1 []; State.EngineRuns s 0 3 .mov 0xac00 ∧
      (s.port 0).offer = some (offerAt 3 10 false) ∧ (offerAt 3 10 false).pos < (offerAt 3 10 false).there ∧
      (offerAt 3 10 false).copy.length = 92 ∧ s.pinMode 0 = false ∧ s.copyBad (offerAt 3 10 false).copy 3 = false) ∧
    (let s := copyState false (offerAt 11 12 false) 100 1 []; State.EngineRuns s 0 3 .mov 0xac00 ∧
      (mfind s.trunk.pkts 2).any (fun y => y.live ≤ 1) = true) ∧
    (let s := copyState false (offerAt 11 12 false) 100 2 []; State.EngineRuns s 0 3 .mov 0xac00 ∧
      (mfind s.trunk.pkts 2).any (fun y => 1 < y.live) = true) ∧
    (let s := copyState true (offerAt 0 1 false) 100 1 []; State.EngineRuns s 0 3 .mov 0xac00 ∧ s.pinMode 0 = true) ∧
    (let s := copyState false (offerAt 3 3 true) 100 1 []; State.EngineRuns s 0 3 .mov 0xac00 ∧
      (s.port 0).offer = some (offerAt 3 3 true)) ∧
    (let s := copyState false (offerAt 3 10 false) 100 1 [(19, 2)]; State.EngineRuns s 0 3 .mov 0xac00 ∧
      s.copyBad (offerAt 3 10 false).copy ((3 + 24) / 8) = true) ∧
    (let s := (ownState 0x3ac00 (some 3)).modPort 0 fun q => { q with offer := some (offerAt 3 10 false) }; State.EngineRuns s 0 3 .mov 0x3ac00 ∧
      (s.port 0).txl.isSome = true) :=
  by and_intros <;> decide +kernel

/-- Two engines of port 0 in one cycle: engine e has run in the cycle that began with the shared values now and wrote LINK. -/
def pairState (w e : Nat) : State :=
  let s := ownState w none
  s.modPort 0 fun q =>
    let c : PortCycle := { hw := 0, ran := [e], seen := q.shared, left := { q.shared with link := true }, linkBy := some e, holdBy := some e }
    { q with link := true, cyc := some c }

/-- States of EngineFlowResults for a cycle that is under way, in which engine 2 has written LINK before engine 3 does; one that is over, since
engine 3 has run in it itself; and none. -/
theorem test_engine_cycle_meets :
    (let s := pairState 0x78400 2; State.EngineRuns s 0 3 .mov 0x78400 ∧ (s.portCycle 0 3).linkBy = some 2 ∧
      (s.portCycle 0 3).seen.link = false ∧ (s.portCycle 0 3).ran = [2]) ∧
    (let s := pairState 0x70400 3; State.EngineRuns s 0 3 .mov 0x70400 ∧ (s.portCycle 0 3).holdBy = none ∧
      (s.portCycle 0 3).ran = []) ∧
    ((ownState 0x78400 none).port 0).cyc = none :=
  by and_intros <;> decide +kernel

/-- EngineFlowResults: every form of SHIN and SHOUT at its longest, every kind of WAIT and every condition of JMP. -/
theorem test_engine_branches_meet :
    (∀ w ∈ [0x130400, 0x134400, 0x138400, 0x142000, 0x146000, 0x180400, 0x182000, 0x184400, 0x186000, 0x188400, 0x18a000],
      State.EngineRuns (engState w true) 0 3 .shin (BitVec.ofNat 24 w)) ∧
    (∀ w ∈ [0x230400, 0x234400, 0x282000, 0x286000], State.EngineRuns (engState w true) 0 3 .shout (BitVec.ofNat 24 w)) ∧
    (∀ w ∈ [0x242000, 0x240400], State.EngineRuns (ownState w none) 0 3 .shout (BitVec.ofNat 24 w)) ∧
    (∀ w ∈ [0x242000], State.EngineRuns (ownState w (some 3)) 0 3 .shout (BitVec.ofNat 24 w)) ∧
    (∀ w ∈ [0x300000, 0x310000, 0x320000, 0x340000, 0x360000, 0x380000, 0x3a0000, 0x3b0000, 0x3c0000, 0x3e0000, 0x3f0000],
      State.EngineRuns (engState w false) 0 3 .wait (BitVec.ofNat 24 w)) ∧
    (∀ w ∈ [0x400005, 0x410005, 0x420005, 0x430005, 0x440005, 0x450005, 0x460005, 0x470005, 0x480005, 0x490005, 0x4a0005,
      0x4b0005, 0x4c0005, 0x4d0005, 0x4e0005, 0x4f0005], State.EngineRuns (engState w false) 0 3 .jmp (BitVec.ofNat 24 w)) :=
  by and_intros <;> first | decide +kernel | (unfold State.EngineRuns; decide +kernel)

/-- States of EngineUnitResults. -/
theorem test_engine_unit_meets :
    State.EngineRuns (engState 0x5FFFF0 true) 0 3 .setp 0x5FFFF0 ∧
    State.EngineRuns (engState 0x600000 false) 0 3 .push 0x600000 ∧
    State.EngineRuns (engState 0x740000 false { pullf := true }) 0 3 .pull 0x740000 ∧
    ((engState 0x740000 false { pullf := true }).eng 0 3).pullf = true ∧
    State.EngineRuns (engState 0x810005 false) 0 3 .cnt 0x810005 ∧
    State.EngineRuns (engState 0x900000 false) 0 3 .mark 0x900000 :=
  by and_intros <;> decide +kernel

/-- EngineUnitResults: PUSH and PULL with the place free and taken, blocking and not, CNT and MARK in every form. -/
theorem test_engine_unit_forms :
    (∀ w ∈ [0x600000, 0x620000, 0x610000, 0x608000, 0x640000, 0x660000, 0x650000, 0x648000, 0x680000, 0x6a0000, 0x690000,
      0x688000, 0x6c0000, 0x6e0000, 0x6d0000, 0x6c8000],
      State.EngineRuns (engState w false { pushf := true }) 0 3 .push (BitVec.ofNat 24 w)) ∧
    (∀ w ∈ [0x6f8000], State.EngineRuns (engState w false) 0 3 .push (BitVec.ofNat 24 w)) ∧
    (∀ w ∈ [0x700000, 0x720000, 0x740000, 0x760000, 0x780000, 0x7a0000, 0x7c0000, 0x7e0000],
      State.EngineRuns (engState w false { pullf := true }) 0 3 .pull (BitVec.ofNat 24 w)) ∧
    (∀ w ∈ [0x700000, 0x720000], State.EngineRuns (engState w false) 0 3 .pull (BitVec.ofNat 24 w)) ∧
    (∀ w ∈ [0x80ffff, 0x81ffff, 0x82ffff, 0x83ffff, 0x84ffff, 0x85ffff, 0x86ffff, 0x87ffff, 0x88ffff, 0x89ffff, 0x8affff],
      State.EngineRuns (engState w false) 0 3 .cnt (BitVec.ofNat 24 w)) ∧
    (∀ w ∈ [0x900000, 0x940000, 0x980000, 0x990000, 0x9a0000, 0x9b0000],
      State.EngineRuns (engState w false) 0 3 .mark (BitVec.ofNat 24 w)) :=
  by and_intros <;> first | decide +kernel | (unfold State.EngineRuns; decide +kernel)

/-- Port 0 in pin mode or word mode, every engine running, with a signal on the link to grove 0. -/
def evState (pin : Bool) (w : Nat) : State := { engState w pin { new := true } with links := [(152, { buf := [.signal 0 7] })] }

/-- States of EngineEvents: a reserved word, an unread word, a pin that changes, and a signal. -/
theorem test_engine_event_meets :
    ((evState false 0xA00000).portOn 0 = true ∧ ((evState false 0xA00000).eng 0 3).st ≠ .halted ∧
      engDecode ((evState false 0xA00000).engFetch 0 3) = none) ∧
    ((evState false 0).pinMode 0 = false ∧ (evState false 0).ine 0 = 3 ∧ ((evState false 0).eng 0 3).new = true) ∧
    ((evState true 0).pinMode 0 = true ∧ bit ((evState true 0).port 0).pinIn 3 = true) ∧
    ((evState true 0).groveOn 0 = true ∧ ((evState true 0).link 152).buf = [.signal 0 7]) :=
  by and_intros <;> decide +kernel

/-- Port 0 OFF, its engines halted; engine 3 has the range 0 to 47. -/
def haltState (x : Engine) : State := { svc.setReg (aEngine 0 3) 0xBC0 with ports := [(0, { engines := [(3, x)] })] }

/-- States of EngineRegisters: a halted engine at the end of its range, and the last registers. -/
theorem test_engine_register_meets :
    State.HostReaches (haltState { pc := 47 }) .mgmt (aEngine 0 3 + 4) ∧
    State.HostReaches (haltState { pc := 47 }) .mgmt (aEngine 0 3) ∧
    (((haltState { pc := 47 }).eng 0 3).st = .halted ∧ bit ((haltState { pc := 47 }).reg (aEngine 0 3 + 8)) 29 = false ∧
      ((haltState { pc := 47 }).eng 0 3).pc.toNat = 47) ∧
    State.HostReaches (haltState { pc := 47 }) .mgmt (aEngine 127 3 + 8) ∧
    State.HostReaches (haltState { pc := 47 }) .mgmt (aEngine 127 3 + 0x10) ∧
    State.HostReaches (haltState { pc := 47 }) .mgmt (aEngine 127 3 + 0x10 + 4) ∧
    State.HostReaches (haltState { pc := 47 }) .mgmt (aEngine 127 3 + 0x10 + 8) ∧
    State.HostReaches (haltState { pc := 47 }) .mgmt (aEngine 127 3 + 0x1C) ∧
    State.HostReaches (haltState { pc := 47 }) .mgmt (aEngine 127 3 + 0x1C + 4) ∧
    State.HostReaches (haltState { pc := 47 }) .mgmt (aEngine 127 3 + 0x1C + 8) ∧
    State.HostReaches (haltState { pc := 47 }) .mgmt (aEngine 127 3 + 0xC) ∧
    State.HostReaches (haltState { pc := 47 }) .mgmt (aEngine 127 3 + 0x34) ∧
    State.HostReaches (haltState { pc := 47 }) .mgmt (aEngine 127 3 + 0x34 + 4) ∧
    State.HostReaches (haltState { pc := 47 }) .mgmt (aEngine 127 3 + 0x34 + 8) ∧
    State.HostReaches (haltState { pc := 47 }) .mgmt (aEngine 127 3 + 0x28) ∧
    State.HostReaches (haltState { pc := 47 }) .mgmt (aIsland 0 + 0x400 * (0 % 32) + 4 * 47) ∧
    (∀ j, j < 4 → ((haltState { pc := 47 }).eng 0 j).st = .halted) ∧
    State.HostReaches (haltState { pc := 47 }) .mgmt (aIsland 127 + 0x400 * (127 % 32) + 0xC0) :=
  ⟨reaches_of (by decide) (by decide +kernel),
   reaches_of (by decide) (by decide +kernel),
   by decide +kernel,
   reaches_of (by decide) (by decide +kernel),
   reaches_of (by decide) (by decide +kernel),
   reaches_of (by decide) (by decide +kernel),
   reaches_of (by decide) (by decide +kernel),
   reaches_of (by decide) (by decide +kernel),
   reaches_of (by decide) (by decide +kernel),
   reaches_of (by decide) (by decide +kernel),
   reaches_of (by decide) (by decide +kernel),
   reaches_of (by decide) (by decide +kernel),
   reaches_of (by decide) (by decide +kernel),
   reaches_of (by decide) (by decide +kernel),
   reaches_of (by decide) (by decide +kernel),
   reaches_of (by decide) (by decide +kernel),
   by decide +kernel,
   reaches_of (by decide) (by decide +kernel)⟩

/-- States of EngineRegisters for a port with pin pads and one without, OFF and UP. -/
theorem test_pecfg_pads :
    (let s := { haltState {} with ties := { (haltState {}).ties with pinpads := 2 } }; bit s.ties.pinpads 0 = false ∧
      bit s.ties.pinpads 1 = true ∧ (s.port 1).st = .off) ∧
    State.HostReaches (portState .up []) .mgmt (aIsland 0 + 0x400 * (0 % 32) + 0xC0) ∧
    (bit (0x7FFFFFFF : BitVec 32) 31 = false ∧ ((portState .up []).port 0).st ≠ .off ∧ fld (0x50000000 : BitVec 32) 28 3 = 5) :=
  ⟨by decide +kernel,
   reaches_of (by decide) (by decide +kernel),
   by decide +kernel⟩

/-- States of EngineRegisters for a ring whose PORTA is OFF: PECFG in pin mode, at another rate, and as it stands. -/
theorem test_pecfg_breaks :
    (let s := ringState.setPort 0 {}; (s.port 0).st = .off ∧ s.ringEn 0 = true ∧ s.portA 0 = 0 ∧ s.portB 0 = 1 ∧ s.pinMode 0 = false ∧
      bit s.ties.pinpads 0 = true ∧ (s.pecfg 0).toNat / 2 ^ 28 % 8 = 0 ∧ (s.pecfg 1).toNat / 2 ^ 28 % 8 = 0) ∧
    (bit (0x80000000 : BitVec 32) 31 = true ∧ (0x40000000 : BitVec 32).toNat / 2 ^ 28 % 8 = 4 ∧ bit (0x0FFFC000 : BitVec 32) 31 = false) ∧
    State.HostReaches (ringState.setPort 0 {}) .mgmt (aIsland 0 + 0x400 * (0 % 32) + 0xC0) :=
  ⟨by decide +kernel, by decide +kernel, reaches_of (by decide) (by decide +kernel)⟩

/-! ## Grove memory, DMA and the lock unit -/

/-- Grove 0 with bank ports 1 and 33 in handover, bank 31 clearing since cycle 904, and word 4103 marked as given; the host owns every
bank port and selects word w. -/
def bankState (e w : Nat) : State :=
  { ((((((svc.setReg (aBanks 0) 0xE0800000).setReg (aBanks 0 + 4) 0xE0800000).setReg (aBanks 0 + 4 * 30) 0xE0000000).setReg (aBanks 0 + 0x200)
        0x80000003).setReg (aBanks 0 + 0x210) (BitVec.ofNat 32 w))) with
    groves := [(0, { bpend := [29, 33], bclr := [(31, 904)], cyc := 5000, scratch := [(4103, 9)], wback := [131071],
                     secc := if e = 0 then [] else [(4103, e)], scrubAt := [(1, 7)] })] }

/-- States of GroveMemoryResults: the last bank port of the clause, a handover, a clear at its limit, the last word, a marked
word, and the window. -/
theorem test_grove_memory_meets :
    State.HostReaches (bankState 0 4103) .mgmt (aBanks 7 + 4 * 29) ∧
    ((bankState 0 4103).groveOn 0 = true ∧ ((bankState 0 4103).grove 0).bpend.contains 33 = true ∧
      (bankState 0 4103).portBusy 0 33 = false) ∧
    (mfind ((bankState 0 4103).grove 0).bclr 31 = some 904 ∧ 904 + 4096 ≤ ((bankState 0 4103).grove 0).cyc) ∧
    ((bankState 0 4103).grove 0).wback.contains 131071 = true ∧
    (let s := bankState 1 4103; bit (s.reg (aBanks 0 + 0x200)) 31 = true ∧ bit (s.reg (aBanks 0 + 4 * 1)) 31 = true ∧
      mfind (s.grove 0).bclr 1 = none ∧ mget 0 (s.grove 0).scrubT 1 ≤ (s.grove 0).cyc ∧ mget 0 (s.grove 0).secc (4096 + 7) = 1) ∧
    State.HostReaches (bankState 0 4103) .mgmt (aBanks 0 + 0x214) ∧
    (bit ((bankState 0 4103).reg (aBanks 0 + 0x210)) 17 = false ∧
      bit ((bankState 0 4103).reg (aBanks 0 + 4 * (4103 / 4096))) 31 = true ∧
      mget 0 ((bankState 0 4103).grove 0).secc 4103 = 0) ∧
    State.HostReaches (bankState 0 4103) .mgmt (aBanks 0 + 0x21C) ∧
    (((bankState 0 4103).reg (aBanks 0 + 4 * 1)).toNat / 2 ^ 29 % 4 = 3 ∧
      ((bankState 0 4103).reg (aBanks 0 + 4 * 2)).toNat / 2 ^ 29 % 4 ≠ 3) :=
  ⟨reaches_of (by decide) (by decide +kernel),
   by decide +kernel,
   by decide +kernel,
   by decide +kernel,
   by decide +kernel,
   reaches_of (by decide) (by decide +kernel),
   by decide +kernel,
   reaches_of (by decide) (by decide +kernel),
   by decide +kernel⟩

/-- The same with bank 5 off, bank 6 on and not owned, and the window at the last word of port B of bank 30. -/
def ownerState : State := (bankState 0 0x3EFFF).setReg (aBanks 0 + 4 * 6) 0x80000000

/-- States of GroveMemoryResults for ownership: refused for a handover, for an owner of a bank that is off and for an owned bank;
and a bank that is switched on or off. -/
theorem test_bank_owner :
    ((ownerState.bownSource 0 5 .mgmt = true ∧ ownerState.bownSource 0 6 .mgmt = true) ∧
      (ownerState.grove 0).bpend.contains 29 = true ∧ (ownerState.grove 0).bpend.contains 6 = false) ∧
    (bit (0x20000000 : BitVec 32) 31 = false ∧ (0x20000000 : BitVec 32).toNat / 2 ^ 29 % 4 ≠ 0) ∧
    (bit (ownerState.reg (aBanks 0)) 31 = true ∧ (ownerState.reg (aBanks 0)).toNat / 2 ^ 29 % 4 ≠ 0) ∧
    (bit (ownerState.reg (aBanks 0 + 4 * 5)) 31 = false ∧ bit (ownerState.reg (aBanks 0 + 4 * 6)) 31 = true ∧
      (ownerState.reg (aBanks 0 + 4 * 6)).toNat / 2 ^ 29 % 4 = 0) ∧
    State.Writes (storing 0 0x409005 0x80000000 ownerState) (.thread 0) (aBanks 0 + 4 * 5) 0x80000000 ∧
    State.Writes (storing 0 0x409087 0xFF ownerState) (.thread 0) (aBanks 0 + 0x21C) 0xFF ∧
    (bit (ownerState.reg (aBanks 0 + 0x210)) 17 = true ∧ 30 ≤ (ownerState.reg (aBanks 0 + 0x210)).toNat % 2 ^ 17 / 4096) ∧
    State.ThreadReads (loading 5 31 0x409085 (bankState 0 4103)) 5 (aBanks 0 + 0x214) 31 ∧
    ((ownerState.grove 0).bwHeld = none ∧ ((bankState 0 122880).reg (aBanks 0 + 4 * 30)).toNat / 2 ^ 29 % 4 = 3 ∧
      bit ((bankState 0 122880).reg (aBanks 0 + 4 * 30)) 31 = true) ∧
    State.WritesAlone (bankState 0 4103) 0 4103 false ∧
    State.WritesAlone (bankState 0 122880) 0 122880 false :=
  ⟨by decide +kernel,
   by decide +kernel,
   by decide +kernel,
   by decide +kernel,
   .inr ⟨_, rfl, writes_of (by decide +kernel)⟩,
   .inr ⟨_, rfl, writes_of (by decide +kernel)⟩,
   by decide +kernel,
   reads_of (by decide +kernel),
   by decide +kernel,
   .inl (by decide),
   alone_of (by decide +kernel)⟩

/-- A DMA channel of grove 0, which owns banks 0, 1 and 31. -/
def dmaState (q : Dma) : State :=
  (((({ svc with groves := [(0, { scratch := [(131071, 9)] })] }).setReg (aBanks 0) 0xC0000000).setReg (aBanks 0 + 4) 0xC0000000).setReg
    (aBanks 0 + 4 * 31) 0xC0000000).setDma 0 0 q

/-- States of DmaResults: a copy that ends at the last word, none, a busy channel, and its last word. -/
theorem test_dma_meets :
    State.HostReaches (dmaState { src := 131071, dst := 0, cnt := 1 }) .mgmt (aDma 0 + 0x40 * 7 + 0x14) ∧
    (let q := (dmaState { src := 131071, dst := 0, cnt := 1 }).dma 0 0; q.busy = false ∧ q.cnt ≠ 0 ∧ q.src.toNat + q.cnt.toNat = 2 ^ 17) ∧
    ((dmaState {}).dma 0 0).cnt = 0 ∧
    (((dmaState { src := 131070, dst := 0, cnt := 2, busy := true, left := 1 }).dma 0 0).busy = true ∧
      ((dmaState { src := 131070, dst := 0, cnt := 2, busy := true, left := 1 }).dma 0 0).data = none ∧
      ((dmaState { src := 131070, dst := 0, cnt := 2, busy := true, left := 1 }).dma 0 0).ext = false ∧
      (dmaState { src := 131070, dst := 0, cnt := 2, busy := true, left := 1 }).groveOn 0 = true) ∧
    (let q := (dmaState { src := 131070, dst := 0, cnt := 2, busy := true, left := 1 }).dma 0 0;
      q.src.toNat + (q.cnt.toNat - q.left) = 131071 ∧
      ((dmaState { src := 131070, dst := 0, cnt := 2, busy := true, left := 1 }).dmaPort 0 31).isSome = true ∧
      ((dmaState { src := 131070, dst := 0, cnt := 2, busy := true, left := 1 }).dmaPort 0 0).isSome = true ∧
      ((dmaState { src := 131070, dst := 0, cnt := 2, busy := true, left := 1 }).grove 0).bpend = [] ∧
      ((dmaState { src := 131070, dst := 0, cnt := 2, busy := true, left := 1 }).grove 0).bclr = []) :=
  ⟨reaches_of (by decide) (by decide +kernel),
   by and_intros <;> decide +kernel⟩

/-- States of DmaResults: a thread that writes DMACTL, a channel stopped with a word in hand, the first and the last turn, and a
word whose port was lost. -/
theorem test_dma_turn :
    State.Writes (storing 5 0x40B005 0x80000000 (dmaState { src := 131071, dst := 0, cnt := 1 })) (.thread 5) (aDma 0 + 0x40 * 0 + 0x14) 0x80000000 ∧
    State.Writes (storing 5 0x40B005 0x40000000 (dmaState { cnt := 1, busy := true, left := 1, data := some 7 })) (.thread 5) (aDma 0 + 0x40 * 0 + 0x14) 0x40000000 ∧
    (let s := (dmaState { src := 131070, dst := 0, cnt := 2, busy := true, left := 1 }).modGrove 0 fun v => { v with dmaTurn := 0 };
      0 = ((s.grove 0).dmaTurn + 1 + 7) % 8 ∧ (∀ j, j < 7 → (s.dma 0 (((s.grove 0).dmaTurn + 1 + j) % 8)).busy = false) ∧
      (s.dma 0 0).busy = true ∧ (s.dma 0 0).pres = none ∧ (s.dma 0 0).lost = false) ∧
    (let s := dmaState { src := 131070, dst := 0, cnt := 2, busy := true, left := 1 }; 0 = ((s.grove 0).dmaTurn + 1 + 0) % 8 ∧
      (s.dma 0 0).pres = none) ∧
    (let s := dmaState { src := 131070, dst := 0, cnt := 2, busy := true, left := 1, data := some 7, lost := true };
      s.dmaNow 0 = some 0 ∧ (s.dma 0 0).data = some 7 ∧
      (s.dma 0 0).dst.toNat + ((s.dma 0 0).cnt.toNat - (s.dma 0 0).left) < 2 ^ 39) ∧
    (∀ bp, (dmaState { busy := true }).dmaPort 0 0 = some bp → (dmaState { busy := true }).WritesAlone 0 0 (isPortB bp)) ∧
    (∀ bp, (dmaState { busy := true }).dmaPort 0 31 = some bp → (dmaState { busy := true }).WritesAlone 0 131071 (isPortB bp)) :=
  ⟨.inr ⟨_, rfl, writes_of (by decide +kernel)⟩,
   .inr ⟨_, rfl, writes_of (by decide +kernel)⟩,
   by decide +kernel,
   by decide +kernel,
   by decide +kernel,
   fun _ _ => .inl (by decide),
   fun _ _ => alone_of rfl⟩

/-- Lock 255 with a waiter, flag 63 awaited and routed, a message on channel 63, and a stall since cycle 5. -/
def lockState : State :=
  { ((svc.setReg (aLocks 0 + 0x5FC) 0x80000007).setReg (aLocks 0 + 0x4A8) 0x80000002) with
    threads := [(2, { wait := .event 62 })]
    groves := [(0,
      { locks := [(255, { holder := some 0, waiters := [1] })], chans := [(63, { msgs := [{ words := [1], reader := none }] })],
                     cyc := 517 })]
    stalls := [(0, { since := some 5 })] }

/-- States of LockRegisters: the last lock, a number above it, the last flag and channel, and a stall at its window. -/
theorem test_lock_register_meets :
    State.HostReaches (lockState) .mgmt (aLocks 0 + 0x4A0) ∧
    ((lockState.lock 0 255).holder.isSome = true ∧ (255 : BitVec 12).toNat < 256 ∧ 256 ≤ (256 : BitVec 12).toNat ∧
      2 ∉ (lockState.lock 0 255).waiters) ∧
    State.HostReaches (lockState) .mgmt (aLocks 0 + 0x488 + 4 * 1) ∧
    State.HostReaches (lockState) .mgmt (aLocks 0 + 0x490 + 4 * 1) ∧
    State.HostReaches (lockState) .mgmt (aLocks 0 + 0x4A4) ∧
    ((lockState.chan 0 63).readers = [] ∧ (lockState.chan 0 63).writers = []) ∧
    (lockState.stall 0 = { since := some 5, raised := false } ∧ lockState.isStalled 0 = true ∧
      5 + max 1 ((lockState.reg (aLocks 0 + 0x4A8)).toNat % 65536) * 256 ≤ (lockState.grove 0).cyc) :=
  ⟨reaches_of (by decide) (by decide +kernel),
   by decide +kernel,
   reaches_of (by decide) (by decide +kernel),
   reaches_of (by decide) (by decide +kernel),
   reaches_of (by decide) (by decide +kernel),
   by decide +kernel,
   by decide +kernel⟩

/-- LockRegisters for stores of thread 0, the recovery thread, and of thread 5 to the event registers. -/
theorem test_lock_register_from_thread :
    (lockState.recSrc (.thread 0) 0 = true ∧ lockState.recSrc .mgmt 0 = true) ∧
    State.Writes (storing 0 0x408128 255 lockState) (.thread 0) (aLocks 0 + 0x4A0) ((255 : BitVec 12).setWidth 32) ∧
    State.Writes (storing 0 0x408128 256 lockState) (.thread 0) (aLocks 0 + 0x4A0) ((256 : BitVec 12).setWidth 32) ∧
    State.Writes (storing 0 0x408128 0x10000 lockState) (.thread 0) (aLocks 0 + 0x4A0) ((0 : Thid).setWidth 32 + 0x10000) ∧
    State.Writes (storing 5 0x408123 0x80000000 lockState) (.thread 5) (aLocks 0 + 0x488 + 4 * 1) 0x80000000 ∧
    (bit (lockState.grove 0).flags 63 = false ∧ bit (lockState.reg (aLocks 0 + 0x500 + 4 * 63)) 31 = true ∧
      (lockState.thread 2).wait = .event 62 ∧ (lockState.beat 0).inCycle = false) ∧
    State.Writes (storing 5 0x408123 0x80000000 { lockState with beats := [(0, { begun := 1, inCycle := true })] }) (.thread 5)
      (aLocks 0 + 0x488 + 4 * 1) 0x80000000 ∧
    State.Writes (storing 5 0x408125 1 lockState) (.thread 5) (aLocks 0 + 0x490 + 4 * 1) 1 ∧
    State.Writes (storing 0 0x408129 63 lockState) (.thread 0) (aLocks 0 + 0x4A4) (BitVec.ofNat 32 63) :=
  ⟨by decide +kernel,
   .inr ⟨_, rfl, writes_of (by decide +kernel)⟩,
   .inr ⟨_, rfl, writes_of (by decide +kernel)⟩,
   .inr ⟨_, rfl, writes_of (by decide +kernel)⟩,
   .inr ⟨_, rfl, writes_of (by decide +kernel)⟩,
   by decide +kernel,
   .inr ⟨_, rfl, writes_of (by decide +kernel)⟩,
   .inr ⟨_, rfl, writes_of (by decide +kernel)⟩,
   .inr ⟨_, rfl, writes_of (by decide +kernel)⟩⟩

/-! ## The lookup engine -/

/-- A key, a stash entry of it, and a command for it in slot k on table 3, whose 1,024 slots stand on chip; mode and kind from cfg. -/
def key1 : BitVec 144 := 0xDEADBEEF0123456789
/-- An entry of that key. -/
def ent1 (lh : BitVec 32) : Entry :=
  { keyl := key1.setWidth 72, keyh := (key1 >>> 72).setWidth 72, result := 3, static := false, plen := 144, user := 0, lasthit := lh }
/-- A command on it. -/
def cmd1 (op : BitVec 4) (live : Bool) (plen pos : Nat) : Cmd :=
  { keyl := key1.setWidth 72, keyh := (key1 >>> 72).setWidth 72, res := 9, ent := wordOf (2 ^ 70 + plen * 2 ^ 62), busy := true, op := op,
    table := 3, live := live, pos := BitVec.ofNat 37 pos }
/-- The state of both. -/
def lkState (cfg : BitVec 32) (es : SMap Entry) (c : Cmd) : State :=
  { ((svc.setReg (aTable 3) cfg).setReg (aTable 3 + 4) 0x1000) with
    lookup := { ready := true, seed := 5, tables := [(3, { slots := es })], cmds := [(0, c)] }, time := { tick := 99, bt := 446000000 } }

/-- States of LookupCommands: a table that is off, a key that is refused, an undefined OP, an entry in the last stash slot, none,
and a scan at the last position. -/
theorem test_lookup_command_meets :
    (let s := lkState 0xA0A00000 [] (cmd1 1 false 144 0); s.cmdReady 0 = true ∧ (s.cmd 0).live = false ∧ (s.cmd 0).wleft = 0) ∧
    (let s := lkState 0xA0A00000 [] (cmd1 1 true 145 0); s.cmdReady 0 = true ∧ s.badKey 3 (s.cmd 0) = true ∧ s.tblLpm 3 = false) ∧
    (lkState 0xA0A00000 [] (cmd1 9 true 144 0)).cmdReady 0 = true ∧
    (let s := lkState 0xA0A00000 [(2047, ent1 4)] (cmd1 2 true 144 0); s.cmdReady 0 = true ∧
      (s.locate 0 3 144 key1).1 = .here 2047 (ent1 4) ∧ s.badKey 3 (s.cmd 0) = false ∧ (s.cmd 0).plen = 144 ∧
      (s.cmd 0).key = key1 ∧ s.slotFree 3 2047 = true) ∧
    (let s := lkState 0xA0A00000 [] (cmd1 1 true 144 0); (s.locate 0 3 144 key1).1 = .absent ∧
      s.entry 3 (s.slotPair 3 144 key1).1 = none ∧ s.slotFree 3 (s.slotPair 3 144 key1).1 = true ∧
      s.slotFree 3 (s.slotPair 3 144 key1).2 = true) ∧
    (let s := lkState 0xA0A00000 [(2047, ent1 4)] (cmd1 6 true 144 2047); s.tblPositions 3 = 2048 ∧
      (s.cmdHas 0 3 2047).1 = .hit ∧ s.entry 3 2047 = some (ent1 4)) ∧
    ((lkState 0xA0A00000 [] (cmd1 6 true 144 2048)).tblPositions 3 ≤ 2048 ∧
      (lkState 0xA0A00000 [] (cmd1 7 true 144 0)).cmdReady 0 = true) ∧
    (let s := lkState 0xE0A00000 [] (cmd1 8 true 144 0); s.tblLpm 3 = true ∧ s.cmdReady 0 = true ∧ s.tblMode 3 = 2 ∧
      s.lookup.ecc = [] ∧ s.tblPositions 3 ≤ (s.cmd 0).cur + 4096) ∧
    (let s := lkState 0xE0D00000 [] (cmd1 8 true 144 0); s.tblLpm 3 = true ∧ s.cmdReady 0 = true ∧ s.tblMode 3 = 2 ∧
      (s.cmd 0).cur + 4096 < s.tblPositions 3) :=
  by and_intros <;> decide +kernel

/-- The premise of LookupCommands on the writes of other commands: no other slot has a command. -/
theorem test_lookup_alone (cfg : BitVec 32) (es : SMap Entry) (c : Cmd) (x : Nat) :
    (lkState cfg es c).unaccepted 3 (some 0) x = false := by
  simp [State.unaccepted, lkState]

/-- An entry of another key. -/
def entK (k : Nat) : Entry := { ent1 4 with keyl := wordOf k, keyh := 0 }

/-- Both slots of the key are taken, by entries whose other slots are 528 and 367. -/
def takenState (op : BitVec 4) (es : SMap Entry) : State := lkState 0xA0A00000 es (cmd1 op true 144 0)

/-- Entries at n positions from a on. -/
def rowOf (e : Entry) (a n : Nat) : SMap Entry := (List.range' a n).map fun x => (x, e)

/-- Each of them is found. -/
theorem rowOf_find (e : Entry) (n : Nat) : ∀ a j, j < n → mfind (rowOf e a n) (a + j) = some e := by
  induction n with
  | zero => exact fun a j h => absurd h (Nat.not_lt_zero j)
  | succ n ih =>
    intro a j h
    simp only [rowOf, List.range'_succ, List.map_cons, mfind]
    split
    · rfl
    · have := ih (a + 1) (j - 1) (by omega)
      rwa [show a + 1 + (j - 1) = a + j by omega] at this

/-- The entries of a table whose chains come back to themselves: from 992 to 528 and back, from 159 to 367 and back. -/
def deadSlots : SMap Entry := [(159, entK 8), (367, entK 8), (528, entK 7), (992, entK 7)]

/-- The same with a full stash. -/
def fullState : State := takenState 1 (deadSlots ++ rowOf (entK 9) 1024 1024)

/-- States of LookupCommands: a slot that must be read first, a chain of one move, chains that end nowhere with the stash free,
and an entry that is met by TESTINS. -/
theorem test_lookup_places :
    (let s := lkState 0x80A00000 [] (cmd1 1 true 144 0); s.cmdReady 0 = true ∧ s.badKey 3 (s.cmd 0) = false ∧
      (s.locate 0 3 144 key1).1 = .need 992) ∧
    (let s := takenState 1 [(159, entK 8), (992, entK 7)]; s.slotPair 3 144 key1 = (992, 159) ∧
      s.otherSlot 3 992 (entK 7) = 528 ∧ s.otherSlot 3 159 (entK 8) = 367 ∧ s.entry 3 528 = none ∧ s.entry 3 367 = none ∧
      s.moveOk 3 = true ∧ s.slotFree 3 528 = true ∧ s.slotFree 3 367 = true ∧ (s.locate 0 3 144 key1).1 = .absent ∧
      s.lookup.ecc = [] ∧ s.tblMode 3 = 2) ∧
    (let s := takenState 1 deadSlots; (s.locate 0 3 144 key1).1 = .absent ∧ (s.chain 0 3 8 992 []).1 = .dead ∧
      (s.chain 0 3 8 159 []).1 = .dead ∧ s.entry 3 (2 ^ s.tblSz 3 + 0) = none ∧ ∀ j, j < 1024 →
      s.slotFree 3 (2 ^ s.tblSz 3 + j) = true) ∧
    (let s := takenState 5 [(992, ent1 4)]; (s.locate 0 3 144 key1).1 = .here 992 (ent1 4) ∧ s.cmdReady 0 = true ∧
      (s.cmd 0).missed = false ∧ s.tblLpm 3 = false ∧ s.twin 3 992 (ent1 4) = none) ∧
    (let s := takenState 5 []; (s.locate 0 3 144 key1).1 = .absent ∧ s.cmdReady 0 = true ∧ (s.cmd 0).missed = false ∧
      s.cmdClear 0 { s.cmd 0 with missed := true } = true) :=
  by and_intros <;> decide +kernel

/-- The state of LookupCommands in which neither a chain nor the stash has a place. -/
theorem test_lookup_full :
    ((fullState.locate 0 3 144 key1).1 = .absent ∧ (fullState.chain 0 3 8 992 []).1 = .dead ∧
      (fullState.chain 0 3 8 159 []).1 = .dead) ∧
    (∀ j, j < 1024 → fullState.entry 3 (2 ^ fullState.tblSz 3 + j) ≠ none) :=
  ⟨by decide +kernel,
   fun j h => by
     have e : fullState.entry 3 (1024 + j) = mfind (deadSlots ++ rowOf (entK 9) 1024 1024) (1024 + j) := rfl
     rw [show 2 ^ fullState.tblSz 3 = 1024 from by decide +kernel, e]
     simp only [deadSlots, List.cons_append, List.nil_append, mfind, if_neg (show ¬ 159 = 1024 + j by omega),
       if_neg (show ¬ 367 = 1024 + j by omega), if_neg (show ¬ 528 = 1024 + j by omega),
       if_neg (show ¬ 992 = 1024 + j by omega), rowOf_find (entK 9) 1024 1024 j h]
     exact Option.some_ne_none _⟩

/-- A write of an INSERT that is outstanding at port 2: it has placed the entry of slot 5 there. -/
def failState : State :=
  { lkState 0xA0A00000 [(5, entK 7)] { cmd1 1 true 144 0 with ran := true, undo := [{ pos := 5, old := none, sure := true }], wleft := 1 } with
    mems := [(2, { tags := [(7, { cls := 1, write := true, ea := 5, mask := 0xFF, data := 0, src := .cmd 0, since := 10 })] })] }

/-- A state of LookupCommands in which the memory refuses a write of a command. -/
theorem test_lookup_memory_error :
    (failState.islandUp 5 = true ∧ 2 < failState.ties.memports ∧ (mfind (failState.mem 2).tags 7).map (fun q => (q.write,
      q.src)) = some (true, .cmd 0) ∧ (failState.cmd 0).rcN ≠ 6 ∧ (failState.cmd 0).op ≠ 7 ∧
      (failState.cmd 0).undo = [{ pos := 5, old := none, sure := true }] ∧
      ∀ e ∈ failState.lookup.cmds, e.1 ≠ 0 → e.2.plan = []) :=
  by decide +kernel

/-- A request for that key on the link of grove 0. -/
def rq1 (t : Nat) (l : Bool) : LkReq := { th := 0, since := 5, table := t, lpm := l, key := key1 }
/-- A lookup in flight. -/
def fl1 (m : Option (Nat × Nat)) (r : Option (Option Word)) : Lkp :=
  { th := 0, since := 5, table := 3, lpm := false, key := key1, todo := [], best := none, mem := m, left := 0, fail := none, moves := 0,
    rerun := false, result := r, bad := none }
/-- Table 3 with entries, a request, a lookup in flight, an ended command and a waiting thread. -/
def flowState (es : SMap Entry) (q : LkReq) (f : Lkp) (o : Outst) : State :=
  let s := ((lkState 0xA0A00000 es {}).setReg (aTable 3 + 0xC) 50).setReg 0xA0000 0x80000002
  { s with
    tregs := s.regs, links := [(168, { buf := [.lookup q] })], threads := [(0, { wait := .load, outst := some o })]
    lookup := { s.lookup with flight := [(7, f)], flNext := 8, cmds := [(0, { busy := true, ran := true })], sweepT := 3, sweepP := 2047,
                              swept := 511 } }
/-- The thread's load of the status of LKCMD 15, or its lookup. -/
def lkOut (d : Dest) (u : Unit') : Outst :=
  { dest := d, addr := 0x50007C, unit := u, since := 5, pc := 0, undo := none, ans := none, ansP := none }

/-- States of LookupFlow: a table that is off, a stash entry, both slots empty, a probe, a result, an ended command, a load of
LKCMD 15 and the sweeper at its last visit. -/
theorem test_lookup_flow_meets :
    (let s := flowState [] (rq1 63 false) (fl1 none none) (lkOut (.result 5) .lookup); s.lookup.ready = true ∧
      s.tblEn 63 = false ∧ (s.link 168).buf = [.lookup (rq1 63 false)]) ∧
    (let s := flowState [(2047, ent1 4)] (rq1 3 false) (fl1 (some (144, 2047)) none) (lkOut (.land 5 0 8) .window);
      s.tblEn 3 = true ∧ s.tblLpm 3 = false ∧ s.stashBest 3 false key1 145 = some (2047, ent1 4) ∧
      s.entry 3 2047 = some (ent1 4)) ∧
    (let s := flowState [] (rq1 3 false) (fl1 none (some none)) (lkOut (.result 5) .lookup); s.stashBest 3 false key1 145 = none ∧
      s.tblMode 3 = 2 ∧ s.lookup.ecc = [] ∧ s.entry 3 (s.slotPair 3 144 key1).1 = none ∧
      s.entry 3 (s.slotPair 3 144 key1).2 = none) ∧
    (let s := flowState [(2047, ent1 4)] (rq1 3 false) (fl1 (some (144, 2047)) none) (lkOut (.land 5 0 8) .window);
      (s.lookup.flight.find? (fun x => x.2.th = 0 && x.2.mem.isSome && x.2.left = 0)).map Prod.fst = some 7 ∧
      s.entry 3 2047 = some (ent1 4) ∧ (ent1 4).matchAt key1 144 = true) ∧
    (let s := flowState [] (rq1 3 false) (fl1 none (some none)) (lkOut (.result 5) .lookup);
      (s.lookup.flight.find? (fun x => x.2.th = 0 && (x.2.result.isSome || x.2.bad.isSome))).map Prod.fst = some 7 ∧
      (s.thread 0).outst = some (lkOut (.result 5) .lookup) ∧ (s.thread 0).wait = .load) ∧
    (((flowState [(2047, ent1 4)] (rq1 3 false) (fl1 (some (144,
      2047)) none) (lkOut (.land 5 0 8) .window)).cmd (lkKey .host)).complete = true ∧
      (lkOut (.land 5 0 8) .window).addr.toNat = 0x500004 + 8 * 15) ∧
    (let s := flowState [(2047, ent1 4)] (rq1 3 false) (fl1 none none) (lkOut (.land 5 0 8) .window);
      bit (s.reg 0xA0000) 31 = true ∧ s.lookup.swept < max 1 ((s.treg 0xA0000).toNat % 65536) * 256 ∧ s.sweepNext = some (3,
      2047) ∧ (s.cmdHas sweepKey 3 2047).1 = .hit ∧ (s.treg (aTable 3 + 0xC)).toNat < (s.tick32 - (ent1 4).lasthit).toNat ∧
      s.sweepClear 3 2047 (ent1 4) = true) :=
  by and_intros <;> decide +kernel

/-- A request at table 3 of the given configuration, with its entries, the cache, and its filters of lengths 96 and 8. -/
def probeState (cfg : BitVec 32) (es : SMap Entry) (cache : List (Nat × Nat)) (lpm : Bool) : State :=
  let s := lkState cfg [] {}
  { s with
    links := [(168, { buf := [.lookup (rq1 3 lpm)] })]
    lookup := { s.lookup with
      flNext := 8, cache := cache
      tables := [(3, { slots := es, rows := [(4096, 2 ^ 96 + 2 ^ 8)], plf := mput false [(s.plfKey 3 8 key1, true)] (s.plfKey 3 96 key1) true })] } }

/-- The entry of the prefix of length l of the key. -/
def entP (l : Nat) : Entry :=
  let k := maskKey key1 l
  { ent1 4 with keyl := k.setWidth 72, keyh := (k >>> 72).setWidth 72, plen := l }

/-- States of LookupFlow in MODE 0 and MODE 1 with nothing in the cache, and a hit in a slot in MODE 2. -/
theorem test_lookup_modes :
    (let s := probeState 0x80A00000 [] [] false; s.tblMode 3 = 0 ∧ s.tblEn 3 = true ∧ s.slotPair 3 144 key1 = (992, 159) ∧
      s.stashBest 3 false key1 145 = none ∧ s.isPinned 3 992 = false ∧ s.isPinned 3 159 = false ∧ (3, 992) ∉ s.lookup.cache) ∧
    (let s := probeState 0x90A00000 [] [] false; s.tblMode 3 = 1 ∧ s.tblEn 3 = true ∧ (3, 159) ∉ s.lookup.cache ∧
      s.isPinned 3 159 = false) ∧
    (let s := probeState 0xA0A00000 [(992, ent1 4)] [] false; s.tblMode 3 = 2 ∧ s.entry 3 992 = some (ent1 4) ∧
      (ent1 4).matchAt key1 144 = true) :=
  by and_intros <;> decide +kernel

/-- States of LookupFlow for longest-prefix lookups: the longer of two prefixes, one of the stash, and none. -/
theorem test_lookup_prefixes :
    (let s := probeState 0xE0A00000 [(17, entP 96), (432, entP 8)] [] true; s.tblLpm 3 = true ∧ s.tblMode 3 = 2 ∧
      s.slotPair 3 96 key1 = (17, 549) ∧ s.slotPair 3 8 key1 = (432, 527) ∧ (entP 96).matchAt key1 96 = true ∧
      (entP 8).matchAt key1 8 = true ∧ s.lookup.ecc = []) ∧
    (let s := probeState 0xE0A00000 [(17, entP 96)] [] true;
      let row := mget 0 (s.tbl 3).rows (fld key1 (fld (s.tblCfg 3) 0 8) 12) ||| mget 0 (s.tbl 3).rows 4096; bit row 96 = true ∧
      mget false (s.tbl 3).plf (s.plfKey 3 96 key1) = true ∧ (s.stashBest 3 true key1 145).isNone = true ∧ ∀ l, l ≤ 144 → 96 < l →
      bit row l = false) ∧
    ((probeState 0xE0A00000 [(17, entP 96), (2047, entP 8)] [] true).stashBest 3 true key1 145 = some (2047, entP 8) ∧
      (entP 8).plen < 96) ∧
    ((probeState 0xE0A00000 [(2047, entP 96)] [] true).stashBest 3 true key1 145 = some (2047, entP 96) ∧ 96 = (entP 96).plen) ∧
    (let s := probeState 0xE0A00000 [] [] true; s.stashBest 3 true key1 145 = none) :=
  by and_intros <;> decide +kernel

/-- The sweeper stands before slot 5 of a table in MODE 0, which is in the cache. -/
def sweepState (es : SMap Entry) : State :=
  let s := (flowState es (rq1 3 false) (fl1 none none) (lkOut (.land 5 0 8) .window)).setReg (aTable 3) 0x80A00000
  { s with tregs := s.regs, lookup := { s.lookup with sweepP := 5, cache := [(3, 5)] } }

/-- States of LookupFlow for the sweeper at a slot in the cache: none there, a static entry, one within its limit and one that
aged. -/
theorem test_sweep_cached :
    ((sweepState []).sweepNext = some (3, 5) ∧ (sweepState []).entry 3 5 = none ∧ (3, 5) ∈ (sweepState []).lookup.cache ∧
      (let c := (sweepState []).cmd sweepKey; c.rleft = 0 ∧ c.wleft = 0 ∧ c.ran = false)) ∧
    ((sweepState [(5, { entK 7 with static := true })]).entry 3 5).map (·.static) = some true ∧
    (let s := sweepState [(5, { entK 7 with lasthit := (sweepState []).tick32 - 50 })];
      (s.tick32 - ((sweepState []).tick32 - 50)).toNat = (s.treg (aTable 3 + 0xC)).toNat) ∧
    (let s := sweepState [(5, entK 7)]; (s.treg (aTable 3 + 0xC)).toNat < (s.tick32 - (entK 7).lasthit).toNat ∧
      s.sweepClear 3 5 (entK 7) = true ∧ (entK 7).static = false) :=
  by and_intros <;> decide +kernel

/-- The premises of LookupCommands for TESTINS: no hit and no other command waits to write, and one entry has the key. -/
theorem test_lookup_quiet :
    (∀ c : Cmd, let s := lkState 0xA0A00000 [] c; s.lookup.hits = [] ∧ ∀ y ∈ s.lookup.cmds, y.1 ≠ 0 → y.2.plan = []) ∧
    (let s := takenState 5 [(159, entK 8), (992, ent1 4)]; s.slotFree 3 992 = true ∧
      ∀ y ∈ (s.tbl 3).slots, y.2.key = (ent1 4).key → y.2.plen = (ent1 4).plen → y = (992, ent1 4)) :=
  ⟨fun c => ⟨rfl, fun y h n => by simp [lkState] at h; exact absurd (congrArg Prod.fst h) n⟩, by decide +kernel⟩

/-- The sweeper has read slot 5 of table 3, which has been disabled meanwhile and has no age limit any more. -/
def lastVisit : State :=
  let s := ((sweepState [(5, entK 7)]).setReg (aTable 3 + 0xC) 0).setReg (aTable 3) 0x00A00000
  { s with tregs := s.regs, lookup := { s.lookup with cmds := [(sweepKey, { busy := true, table := 3, rpos := 5, got := [5] })] } }

/-- States of LookupFlow for a table that is being cleared, longest-prefix tables whose entries do not match or stand in the stash, a probe
of a longest-prefix lookup that returns its longest match, and a visit of the sweeper to a table without an age limit. -/
theorem test_lookup_held :
    (let s := flowState [(2047, ent1 4)] (rq1 3 false) (fl1 none none) (lkOut (.result 5) .lookup);
      let s := { s with lookup := { s.lookup with tables := [(3, { slots := [], clr := some 5 })] } };
      s.tblEn 3 = true ∧ s.tblLpm 3 = false ∧ (s.tbl 3).clr.isSome = true) ∧
    (let s := probeState 0xE0A00000 [(17, entP 96), (432, entP 8), (2047, entP 144)] [] true;
      (∀ y ∈ (s.tbl 3).slots, s.entry 3 y.1 = some y.2) ∧ (∀ y ∈ (s.tbl 3).slots,
        y.2.key.toNat / 2 ^ (144 - y.2.plen) = key1.toNat / 2 ^ (144 - y.2.plen)) ∧
      (∀ z ∈ (s.tbl 3).slots, z.2.plen < 144 ∨ z = (2047, entP 144))) ∧
    (let s := probeState 0xE0A00000 [(5, entK 3)] [] true; (∀ y ∈ (s.tbl 3).slots, s.entry 3 y.1 = some y.2) ∧
      ∀ y ∈ (s.tbl 3).slots, y.2.key.toNat / 2 ^ (144 - y.2.plen) ≠ key1.toNat / 2 ^ (144 - y.2.plen)) ∧
    (let s := flowState [(17, entP 96), (432, entP 8)] (rq1 3 true) { fl1 (some (96, 17)) none with lpm := true } (lkOut (.result 5) .lookup);
      (s.lookup.flight.find? (fun x => x.2.th = 0 && x.2.mem.isSome && x.2.left = 0)).map Prod.fst = some 7 ∧
      s.entry 3 17 = some (entP 96) ∧ (entP 96).matchAt key1 96 = true ∧
      ∀ y ∈ (s.tbl 3).slots, y.2.matchAt key1 y.2.plen = true → y.2.plen ≤ 96) ∧
    (let s := lastVisit; (s.treg (aTable 3 + 0xC)).toNat = 0 ∧ s.tblEn 3 = false ∧ s.sweepNext = some (3, 5) ∧
      (3, 5) ∈ s.lookup.cache ∧ s.entry 3 5 = some (entK 7) ∧ (s.cmd sweepKey).ran = false) :=
  by and_intros <;> decide +kernel

/-- A write of the clear of table 3 is outstanding at port 2. -/
def clearState (pos : Nat) : State :=
  { lkState 0xA0A00000 [] {} with
    lookup := { ready := true, tables := [(3, { slots := [], clr := some pos })] }
    mems := [(2, { tags := [(7, { cls := 0, write := true, ea := 5, mask := 0xFF, data := 0, src := .clear 3, since := 10 })] })] }

/-- States of TableRegisters for the clear of a table: its last position but one, and its last. -/
theorem test_table_clear_meets :
    (∀ pos ∈ [2046, 2047], (let s := clearState pos; s.islandUp 5 = true ∧ 2 < s.ties.memports ∧ (s.tbl 3).clr = some pos ∧
      (mfind (s.mem 2).tags 7).map (fun q => (q.write, q.src)) = some (true, .clear 3))) ∧
    (clearState 0).tblPositions 3 = 2048 :=
  by decide +kernel

/-- States of TableRegisters: a table that may be enabled, one that may not, and one that is enabled. -/
theorem test_table_register_meets :
    State.HostReaches (svc) .mgmt (aTable 63) ∧
    (bit (0xA0A00000 : BitVec 32) 31 = true ∧ bit (svc.reg (aTable 63)) 31 = false ∧ svc.flBusy 63 = false ∧
      (svc.setReg (aTable 63) 0xA0A00000).tblOk 63 = true) ∧
    (svc.setReg (aTable 63) 0x80900000).tblOk 63 = false ∧
    State.HostReaches (lkState 0xA0A00000 [] {}) .mgmt (aTable 3) ∧
    (bit ((lkState 0xA0A00000 [] {}).reg (aTable 3)) 31 = true ∧ (0x20A00000 ^^^ 0xA0A00000 : BitVec 32) &&& 0x73F000FF = 0 ∧
      (0xA1A00000 ^^^ 0xA0A00000 : BitVec 32) &&& 0x73F000FF ≠ 0) :=
  ⟨reaches_of (by decide) (by decide +kernel),
   by decide +kernel,
   by decide +kernel,
   reaches_of (by decide) (by decide +kernel),
   by decide +kernel⟩

/-! ## Time, recorder and timers -/

/-- The block in service with register a at v. -/
def svcReg (a v : Nat) (s : State := svc) : State := s.setReg a (BitVec.ofNat 32 v)

/-- The block in service with a Block Time, a TIMECTL, a present cycle and the staged halves of TSET and TMADJ. -/
def timeState (v : Time) (ctl hw adj : Nat) : State :=
  { svcReg 0x10028 ctl with time := v, hw := hw, stag := [(0x10014, 77), (0x10020, BitVec.ofNat 32 adj)] }
/-- Thread 5 with a store to mirror word n sent, TIMECTL naming it as SERVO thread. -/
def mirrorState (n : Nat) (d : Word) : State :=
  { timeState { acq := true } 0xC0000005 5 0 with
    threads := [(5,
      { sb := [{ addr := BitVec.ofNat 40 (0x407000 + 0x240 + n), data := d, mask := 0xFF, phys := none, ord := 0, sent := true,
                               acc := false, since := 0 }] })] }

/-- States of TimeResults: both registers, steps forward and none, a slew, mirror writes of the first and
last register, an edge out of the window, one in it, and a lock that times out. -/
theorem test_time_meets :
    State.HostReaches (timeState { acq := true, bt := 2 ^ 32 } 0x80000000 200000 0xFFFFFFFF) .mgmt (0x1001C) ∧
    State.HostReaches (timeState { acq := true, bt := 2 ^ 32 } 0x80000000 200000 0xFFFFFFFF) .mgmt (0x10024) ∧
    State.HostReaches (timeState { acq := true, bt := 2 ^ 32 } 0x80000000 200000 0xFFFFFFFF) .mgmt (0x10018) ∧
    (let s := timeState { acq := true, bt := 2 ^ 32 } 0x80000000 200000 0xFFFFFFFF; bit s.timectl 31 = true ∧
      0 < (BitVec.ofNat 64 ((mget 0 s.stag 0x10020).toNat + (0 : BitVec 32).toNat * 2 ^ 32)).toInt ∧
      (BitVec.ofNat 64 ((mget 0 s.stag 0x10020).toNat + (0x80000000 : BitVec 32).toNat * 2 ^ 32)).toInt ≤ 0) ∧
    (bit (timeState {} 0 0 0).timectl 31 = false ∧ (timeState {} 0 0 0).time.adjrem = 0) ∧
    (let s := mirrorState 3 0x80000000; s.groveOn 0 = true ∧ (s.thread 5).pendSt = none ∧ s.timectl.toNat % 2 ^ 12 = 5 ∧
      ((s.thread 5).sb.map fun e => (e.sent, e.acc, e.mask, e.phys.isNone, e.addr.toNat, e.data.setWidth 32)) = [(true, false,
      0xFF, true, 0x407000 + (0x900 + 4 * 3) / 4, (0x80000000 : BitVec 32))]) ∧
    (((mirrorState 0 7).thread 5).sb.map (fun e => (e.addr.toNat, e.data.setWidth 32)) = [(0x407000 + (0x900 + 4 * 0) / 4,
      (7 : BitVec 32))] ∧ (mirrorState 0 7).timectl.toNat % 2 ^ 12 ≠ 6) ∧
    (let s := timeState { acq := true, ppsAt := some 500000000, ppsGood := 1, locked := true, bt := 2 ^ 31 } 0x40010000 700000000 0;
      bit s.timectl 30 = true ∧ bit s.timectl 28 ≠ true ∧ s.time.locked = true ∧
      ¬ min (2 ^ 31) (2 ^ 32 - 2 ^ 31) * 1000000 ≤ s.timectl.toNat / 2 ^ 16 % 2 ^ 12 * 2 ^ 32) ∧
    (let s := svcReg 0x1002C 0x20000 (timeState { acq := true, ppsAt := some 500000000, ppsGood := 1 } 0x40010000 700200000 0);
      s.time.ppsAt = some 500000000 ∧ 500000000 + 199800000 ≤ s.hw ∧ s.hw ≤ 500000000 + 200200000 ∧
      max 1 ((s.reg 0x1002C).toNat / 2 ^ 16 % 16) ≤ s.time.ppsGood + 1 ∧ s.time.bt = 0) ∧
    (let s := timeState { acq := true, ppsAt := some 500000000, ppsGood := 1, locked := true, bt := 2 ^ 31 } 0x40010000 800000000 0;
      s.time.ppsAt = some 500000000 ∧ 500000000 + 300000000 ≤ s.hw ∧ s.time.locked = true) :=
  ⟨reaches_of (by decide) (by decide +kernel),
   reaches_of (by decide) (by decide +kernel),
   reaches_of (by decide) (by decide +kernel),
   by and_intros <;> decide +kernel⟩

/-- Block Time in the middle of tick 953; the islands have begun the tick given, which the master began too. -/
def tickState (acq : Bool) (tick closed : Nat) : State :=
  timeState { acq := acq, bt := 2 ^ 32, tick := tick, closed := closed, begun := (List.range' 1 17).map fun i => (i, closed) } 0 0 0

/-- States of TimeResults: a boundary that every island passes now, before acquisition and after it, one that every island has
begun, and the clocks of a grove. -/
theorem test_boundaries :
    (let s := tickState false 3 3; s.time.tick = s.time.closed ∧ (∀ i, i < 18 → s.islTick i = s.tickNow ∧ s.time.begunBy i < s.tickNow)) ∧
    (let s := tickState true 952 952; (∀ i, i < 18 → s.islTick i = s.tickNow ∧ s.time.begunBy i < s.tickNow) ∧ s.tickNow = 953) ∧
    (let s := tickState true 952 953; s.time.tick < s.time.closed ∧
      (∀ i, i < 18 → s.islTick i ≤ s.time.begunBy i ∧ s.time.closed ≤ s.time.begunBy i)) ∧
    (let s := svcReg (aExc 7 + 0x18) 5; s.groveOpen 7 = true ∧ (s.reg (aExc 7 + 0x18)).toNat % 65536 ≠ 0) ∧
    svc.groveOn 7 = true :=
  by and_intros <;> decide +kernel

/-- The premises of TimeResults on copies and on counters: the first and the last pair of cycles of the fastest clock, the trunk's, the least
time, and the idle step of a grove in its last cycle but one; a counter with an event of the tick that its island has not begun. -/
theorem test_copies_meet :
    ((6 ≤ 11 ∧ 11 ≤ 11 ∧ 9 + 1 < 11 ∧ 2 ≤ 2) ∧ unitsUp 10 11 = 20 ∧ unitsUp 7 8 = 19) ∧
    (let s := { timeState { acq := true, bt := 2 ^ 72 - 23, tick := tickOf (2 ^ 72 - 23), closed := tickOf (2 ^ 72 - 23) } 0 0 0 with
        beats := [(7, { begun := 5, last := 15 })] };
      7 < 8 ∧ s.groveOn 7 = true ∧ s.groveRate 7 ≤ 11 ∧ (s.beat 7).begun < s.groveRate 7 ∧ s.time.rem < btDen ∧
        s.time.adjfrac < btDen ∧ 2 ≤ s.time.bt ∧ s.time.bt + 22 < 2 ^ 72 ∧ s.pending = []) ∧
    (let s := { tickState true 952 952 with ctrs := [(0x85010, 7)] };
      let s := { s with time := { s.time with ahead := [(0x85010, 3)] } }; islandOf 0x85010 = some 3 ∧ s.ctr 0x85010 ≠ 0 ∧
        mget 0 s.time.ahead 0x85010 = 3) :=
  by and_intros <;> decide +kernel

/-- A record of n words. -/
def recOf (n : Nat) (c : Bool) : Rec := { island := 0, words := List.replicate n (1, 2), ctrl := c }
/-- A Llynon link of island 17 with what it holds and what is on its way, and the recorder. -/
def recState (b out : List Message) (v : Recorder) : State :=
  { svcReg 0xE0010 1 with links := [(193, { buf := b, out := out }), (152, { buf := b, out := out })], recd := v }

/-- States of RecorderResults: a word on its way with room and with none, a record staged and one lost, one written and one that
finds no place, a marker, a boundary that commits, and the registers with the recorder OFF and on. -/
theorem test_recorder_meets :
    (let l := (recState (List.replicate 7 .credit) [.credit] {}).link (pathKey (.record 17)); l.out = [.credit] ∧ l.buf.length < 8) ∧
    8 ≤ ((recState (List.replicate 8 .credit) [.credit] {}).link (pathKey (.record 17))).buf.length ∧
    (let s := recState [.record (recOf 3 true)] [] {}; (s.link 193).buf = [.record (recOf 3 true)] ∧ s.islandUp 5 = true ∧
      s.recd.occ + (recOf 3 true).size ≤ 65536) ∧
    61440 < (recState [] [] { staged := [recOf 30719 true] }).recd.occ + (recOf 3 false).size ∧
    (let s := svcReg 0xE0000 0x20000000 (recState [] [] { staged := [recOf 1 true], modeA := 3 }); s.islandUp 5 = true ∧
      9 ≤ s.start.step ∧ s.recd.staged = [recOf 1 true] ∧ s.recd.lossDue = false ∧ s.recd.lostP = 0 ∧ s.recd.lostC = 0 ∧
      s.nrec ≠ 0 ∧ bit (s.reg 0xE0000) 29 = true ∧ s.recRoom (recOf 1 true).words = true) ∧
    (let s := recState [] [] { staged := [recOf 1 false], modeA := 3, ptr := 4096 }; ¬ (s.nrec ≠ 0 ∧ (bit (s.reg 0xE0000) 29 = true ∨
      s.recd.ptr + (recOf 1 false).words.length ≤ s.recd.rd + s.nrec))) ∧
    ((recState [.marker 4] [] {}).link 193).buf = [.marker 4] ∧
    (let v := (recState [] [] { bounds := [{ tick := 4, awaited := [], cover := 3, pos := some 100 }], outst := [(9, 1)] }).recd;
      v.bounds.map (fun b => (b.tick, b.cover, b.pos)) = [(4, 3, some 100)] ∧ ∀ x ∈ v.outst, 3 * 3 ≤ x.1) ∧
    State.HostReaches (recState [] [] {}) .mgmt (regionReg .recbase0) ∧
    State.HostReaches (recState [] [] {}) .mgmt (regionReg .recid) ∧
    ((recState [] [] {}).recd.modeA = 0 ∧ (recState [] [] {}).recd.idle = true ∧ (recState [] [] { modeA := 2 }).recd.modeA ≠ 0) ∧
    State.HostReaches (recState [] [] {}) .mgmt (0xE004C) :=
  ⟨by decide +kernel,
   by decide +kernel,
   by decide +kernel,
   by decide +kernel,
   by decide +kernel,
   by decide +kernel,
   by decide +kernel,
   by decide +kernel,
   reaches_of (by decide) (by decide +kernel),
   reaches_of (by decide) (by decide +kernel),
   by decide +kernel,
   reaches_of (by decide) (by decide +kernel)⟩

/-- States of RecorderResults: an entry of a completion queue that crosses into the lane, and a word of the copy on offer that crosses
to its port. -/
theorem test_recorder_crossings :
    (let s := { svc with groves := [(0, { cq := [{ comp := cmp2, left := 9 }], lane := 7 })] }; s.groveOn 0 = true ∧
      (s.grove 0).lane < min 8 (s.grove 0).cqOcc) ∧
    (let o : Offer := { copy := cpy 1, pos := 3, there := 10, ets := none, cut := false };
      let s := { svc with ports := [(0, { st := .up, offer := some o })] }; (s.port 0).offer = some o ∧ o.cut = false ∧
      o.there < s.copyWords 0 o.copy ∧ o.there < o.pos + 8 ∧ s.islandUp 3 = true ∧ s.portOn 0 = true) :=
  by and_intros <;> decide +kernel

/-- States of RecorderResults: a link with credits and without, RECLOSS due with one pair of places free and with none. -/
theorem test_recorder_credits :
    (((recState [] [] {}).link 193).wait = [] ∧ (Message.record (recOf 4 true)).size = 8 ∧
      ((recState [] [] {}).link 193).credit = 8) ∧
    (let l : Link := { credit := 7 }; l.wait = [] ∧ l.credit < (Message.record (recOf 4 true)).size) ∧
    (let s := recState [] [] { modeA := 3, lossDue := true, ptr := 2046, staged := [recOf 1 false] }; s.islandUp 5 = true ∧
      9 ≤ s.start.step ∧ s.nrec ≠ 0 ∧ s.recd.ptr + 2 = s.recd.rd + s.nrec ∧ s.recd.occ + 4 ≤ 65536 ∧
      s.recRoom s.lossPairs = true) ∧
    (let s := recState [] [] { modeA := 3, lostP := 1, ptr := 2047, staged := [recOf 1 false] }; bit (s.reg 0xE0000) 29 = false ∧
      s.recd.rd + s.nrec < s.recd.ptr + 2) :=
  by and_intros <;> decide +kernel

/-- Timer 31 of grove 7 with its control word. -/
def timerState (ctl : Nat) (x : Timer) : State :=
  svcReg (aTimer 7 31 + 4) 0x10000000 (svcReg (aTimer 7 31) ctl { svc with groves := [(7, { timers := [(31, x)] })] })
/-- Port 5 in pin mode or not, and an action of that timer at its pin 3 on the link of island 3. -/
def pinActState (m : Nat) : State :=
  { svcReg (aIsland 5 + 0x400 * 5 + 0xC0) m with links := [(163, { buf := [.pin 5 3 0 7 31] })] }

/-- States of TimerResults: a compare that is met, one ahead by 1 and by 2^63 - 1, one behind, a counter that runs from Block
Time, a due timer, both pin states, and an edge. -/
theorem test_timer_meets :
    State.HostReaches (timerState 0x80 { cmp := 5, cnt := 5 }) .mgmt (aTimer 7 31 + 8) ∧
    (let s := timerState 0x80 { cmp := 5, cnt := 5 }; s.timFrozen 7 31 = false ∧
      ((s.timer 7 31).cmp - s.timCount 7 31).toNat = 0 ∧ (s.reg (aTimer 7 31)).toNat / 2 ^ 30 % 4 ≠ 3) ∧
    (let s := timerState 0 { cmp := 6, cnt := 5 }; ((s.timer 7 31).cmp - s.timCount 7 31).toNat = 1) ∧
    (let s := timerState 0 { cmp := 0x8000000000000000, cnt := 1 }; ((s.timer 7 31).cmp - s.timCount 7 31).toNat = 2 ^ 63 - 1) ∧
    (let s := timerState 0 { cmp := 5, cnt := 6 }; 2 ^ 63 ≤ ((s.timer 7 31).cmp - s.timCount 7 31).toNat) ∧
    State.HostReaches (timerState 0 { armed := true }) .mgmt (aTimer 7 31 + 0x1C) ∧
    State.HostReaches (timerState 0 { armed := true }) .mgmt (aTimer 7 31 + 0x14) ∧
    (((timerState 0 { armed := true }).timer 7 31).armed = true ∧ ((timerState 0 {}).timer 7 31).armed = false) ∧
    (let s := timerState 0x80 { armed := true, due := true }; s.groveOn 7 = true ∧ s.timDue 7 31 = true) ∧
    (let s := pinActState 0x80000000; (s.link (160 + (3 : Fin 4).val)).buf = [.pin 5 3 0 7 31] ∧ s.portOn 5 = true ∧ s.pinMode 5 = true) ∧
    (let s := pinActState 0; (s.link (160 + (3 : Fin 4).val)).buf = [.pin 5 3 0 7 31] ∧ s.pinMode 5 = false) ∧
    (let s := timerState 0 { edges := [.pin 77], capf := true }; s.groveOn 7 = true ∧ (s.timer 7 31).edges = [.pin 77] ∧
      s.timFrozen 7 31 = false ∧ (s.timer 7 31).capf = true ∧ (s.reg (aTimer 7 31)).toNat / 2 ^ 30 % 4 ≠ 3) ∧
    (let s := timerState 0xC0000000 { edges := [.pin 77] }; (s.reg (aTimer 7 31)).toNat / 2 ^ 30 % 4 = 3 ∧
      bit (s.reg (aTimer 7 31 + 4)) 28 = true ∧ s.timFrozen 7 31 = false) ∧
    State.HostReaches (timerState 0 {}) .mgmt (aTimer 7 31 + 0x20) ∧
    State.HostReaches (timerState 0 {}) .mgmt (aTimers 7 + 0x800) :=
  ⟨reaches_of (by decide) (by decide +kernel),
   by decide +kernel,
   by decide +kernel,
   by decide +kernel,
   by decide +kernel,
   reaches_of (by decide) (by decide +kernel),
   reaches_of (by decide) (by decide +kernel),
   by decide +kernel,
   by decide +kernel,
   by decide +kernel,
   by decide +kernel,
   by decide +kernel,
   by decide +kernel,
   reaches_of (by decide) (by decide +kernel),
   reaches_of (by decide) (by decide +kernel)⟩

/-- States of TimerResults for edges of a grove output: one that has been counted, and one whose cycle has not begun. -/
theorem test_timer_edges :
    (let s := timerState 0x40000080 { edges := [.counted 9, .next] }; s.groveOn 7 = true ∧ (s.timer 7 31).edges = [.counted 9, .next]) ∧
    (let s := timerState 0x40000080 { edges := [.next], armed := true, cnt := 5, cmp := 9 }; (s.timer 7 31).edges = [.next] ∧
      s.timFrozen 7 31 = false ∧ (s.reg (aTimer 7 31)).toNat / 2 ^ 30 % 4 = 1 ∧ (s.timer 7 31).armed = true ∧ (s.timer 7 31).due = false ∧
      (s.timer 7 31).cnt ≠ (s.timer 7 31).cmp ∧ ((s.grove 7).timers.map (·.1)).Nodup) :=
  by and_intros <;> decide +kernel

/-- TimerResults for stores and a load of the first thread of grove 7. -/
theorem test_timer_from_thread :
    State.Writes (storing 3584 0x4071F2 1 (timerState 0x80 {})) (.thread 3584) (aTimer 7 31 + 8) 1 ∧
    State.Writes (storing 3584 0x4071F2 2 (timerState 0x80 {})) (.thread 3584) (aTimer 7 31 + 8) 2 ∧
    State.Writes (storing 3584 0x4071F7 0xFFFFFFFF (timerState 0 {})) (.thread 3584) (aTimer 7 31 + 0x1C) 0xFFFFFFFF ∧
    State.Writes (storing 3584 0x4071F5 0xFFFFFFFF (timerState 0 {})) (.thread 3584) (aTimer 7 31 + 0x14) 0xFFFFFFFF ∧
    State.ThreadReads (loading 3584 31 0x4071F8 (timerState 0 {})) 3584 (aTimer 7 31 + 0x20) 31 ∧
    State.Writes (storing 3584 0x407200 0xFFFFFFFF (timerState 0 {})) (.thread 3584) (aTimers 7 + 0x800) 0xFFFFFFFF :=
  ⟨.inr ⟨_, rfl, writes_of (by decide +kernel)⟩,
   .inr ⟨_, rfl, writes_of (by decide +kernel)⟩,
   .inr ⟨_, rfl, writes_of (by decide +kernel)⟩,
   .inr ⟨_, rfl, writes_of (by decide +kernel)⟩,
   reads_of (by decide +kernel),
   .inr ⟨_, rfl, writes_of (by decide +kernel)⟩⟩

/-! ## Memory ports, clocks and power -/

/-- A request of word 5. -/
def reqOf (w : Bool) (src : MSrc) : MReq := { cls := 1, write := w, ea := 5, mask := 0xFF, data := 0, src := src, since := 10 }
/-- Port 11, whose tag 511 may stand for a request, and thread 0 with a load and a sent store of that word. -/
def memState (m : MPort) : State :=
  { svc with
    mems := [(11, m)], time := { bt := 17700 }
    threads := [(0,
      { sb := [{ addr := 0x8000000005, data := 3, mask := 0xFF, phys := none, ord := 0, sent := true, acc := false, since := 0 }],
                      outst := some { dest := .land 3 0 8, addr := 0x8000000005, unit := .external, since := 5, pc := 0, undo := none,
                                      ans := none, ansP := none } })] }

/-- States of MemoryPortResults: a request with a free tag, a load and a store under tag 511, an unused tag, a request past the
least timeout, and a level that changes. -/
theorem test_memory_port_meets :
    (let s := memState { ready := true, queue := [reqOf true (.store 0)] }; s.islandUp 5 = true ∧ 11 < s.ties.memports ∧
      (s.mem 11).ready = true ∧ s.clkGone 1 = false ∧ (s.mem 11).queue = [reqOf true (.store 0)] ∧
      (s.mem 11).held [] (reqOf true (.store 0)) = false ∧ (s.mem 11).busyTag 511 = false) ∧
    (let s := memState { tags := [(511, reqOf false (.core 0 5))] }; mfind (s.mem 11).tags 511 = some (reqOf false (.core 0 5)) ∧
      (s.thread 0).outst.map (fun o => (o.unit, o.since, o.addr.toNat, o.ans)) = some (.external, 5, 2 ^ 39 + 5, none)) ∧
    mfind ((memState { ready := true, queue := [reqOf true (.store 0)] }).mem 11).tags 511 = none ∧
    (let s := memState { tags := [(511, reqOf true (.store 0))] }; mfind (s.mem 11).tags 511 = some (reqOf true (.store 0)) ∧
      (s.thread 0).sb.map (fun e => e.sent) = [true]) ∧
    (let s := memState { tags := [(511, reqOf true (.store 0))] };
      ((s.mem 11).tags.find? (fun e => decide (e.2.since + s.memTmo ≤ s.memNow))).isSome = true) ∧
    (((memState { ready := true, queue := [reqOf true (.store 0)] }).mem 11).ready = true ∧
      ((memState { tags := [(511, reqOf true (.store 0))] }).mem 11).ready ≠ true) :=
  by and_intros <;> decide +kernel

/-- A request under tag 511 that has not been answered. -/
def pendState (q : MReq) : State := memState { tags := [(511, q)] }

/-- What a channel presents since Block Time 10. -/
def shownOf (w : Bool) : Shown := { req := { reqOf w (if w then .store 0 else .core 0 5) with ea := 9 }, tag := 511, since := 10 }

/-- States of MemoryPortResults: a request that is presented, one that the other channel leaves a tag for, and one that was not
transferred in time. -/
theorem test_memory_channels :
    (let s := memState { ready := true, shownR := some (shownOf false) }; (s.mem 11).shown false = some (shownOf false) ∧
      s.clkGone 1 = false) ∧
    (let s := memState { ready := true, queue := [reqOf true (.store 0)], shownR := some (shownOf false) };
      (s.mem 11).shown true = none ∧ (s.mem 11).wait = [] ∧ (s.mem 11).held [] (reqOf true (.store 0)) = false ∧
      (s.mem 11).busyTag 510 = false ∧ (shownOf false).tag ≠ 510) ∧
    (let s := memState { shownR := some { shownOf false with since := 4000 }, shownW := some (shownOf true) };
      (s.mem 11).tags = [] ∧ (s.mem 11).shown true = some (shownOf true) ∧
      10 + max 16 ((s.reg 0xC0000).toNat % 256) * 256 ≤ s.time.bt * 10 ^ 9 / 2 ^ 32 ∧
      ¬ 4000 + max 16 ((s.reg 0xC0000).toNat % 256) * 256 ≤ s.time.bt * 10 ^ 9 / 2 ^ 32) :=
  by and_intros <;> decide +kernel

/-- States of MemoryPortResults for an error or a timeout of each source: a store, a DMA word, a LASTHIT write, the recorder, a
load and a probe. -/
theorem test_memory_sources :
    (let s := pendState (reqOf true (.store 0)); (s.thread 0).sb.map (fun e => (e.sent, e.acc)) = [(true, false)] ∧
      (s.thread 0).pendSt = none) ∧
    (let s := (pendState (reqOf true (.dma 0 0))).setDma 0 0 { busy := true, ext := true, data := some 7, cnt := 1, left := 1 };
      mfind (s.mem 11).tags 511 = some (reqOf true (.dma 0 0)) ∧ (s.dma 0 0).busy = true ∧ (s.dma 0 0).ext = true ∧
      (s.dma 0 0).data.isSome = true) ∧
    mfind ((pendState (reqOf true (.hit 63))).mem 11).tags 511 = some (reqOf true (.hit 63)) ∧
    (let s := pendState (reqOf true (.recorder 5 true)); mfind (s.mem 11).tags 511 = some (reqOf true (.recorder 5 true)) ∧
      5 ∉ s.recd.failed) ∧
    (let s := pendState (reqOf false (.core 0 5)); (s.thread 0).outst.map (fun o => (o.unit, o.since, o.addr.toNat,
      o.ans)) = some (.external, 5, 2 ^ 39 + 5, none) ∧
      ((s.mem 11).tags.find? (fun e => decide (e.2.since + max 16 ((s.reg 0xC0000).toNat % 256) * 256 ≤ s.time.bt * 10 ^ 9 / 2 ^ 32))).map Prod.fst = some 511) ∧
    (let s := (pendState (reqOf false (.dma 0 0))).setDma 0 0 { busy := true, ext := true, cnt := 1, left := 1 };
      mfind (s.mem 11).tags 511 = some (reqOf false (.dma 0 0)) ∧ (s.dma 0 0).ext = true ∧ (s.dma 0 0).data = none) ∧
    (let s := { pendState (reqOf false (.probe 7)) with lookup := { flight := [(7, fl1 none none)] } };
      mfind s.lookup.flight 7 = some (fl1 none none) ∧ (fl1 none none).fail = none) :=
  by and_intros <;> decide +kernel

/-- States of ClockResults: a clock that runs and one that is lost. -/
theorem test_clock_meets :
    svc.clkGone 5 = false ∧
    ({ svc with time := { clkLost := 0x20 } } : State).clkGone 5 = true :=
  ⟨by decide +kernel,
   by decide +kernel⟩

/-- Grove 7 and Ports island 3 in one state of power, their control words, and the point of the grove; thread 3600 of the grove
and port 127 may be busy. -/
def powerState (v : Island) (r : Nat) (busy chg : Bool) : State :=
  let s := svcReg (aGclk 7) r (svcReg (aPictl 3) r)
  { s with
    power := [(9, v), (17, v)], points := [(7, { chg := chg })], groves := [(7, { cyc := 16 })]
    ports := if busy then [(127, { st := .up })] else [], threads := if busy then [(3600, { wait := .ready })] else [] }

/-- States of PowerResults: a grove that is quiet and one that is not, a new clock point, a grove at a revolution, islands to
wake, a wake that completes, a Ports island that is quiet and one that is not, and changes that complete. -/
theorem test_power_meets :
    State.HostReaches (powerState { st := .on } 0 false false) .mgmt (aGclk 7) ∧
    (let s := powerState { st := .on } 0 false false; (s.isl 17).st = .on ∧ (s.isl 17).goal = none ∧ (s.point 7).chg = false ∧
      (s.reg (aGclk 7)).toNat / 2 ^ 5 % 4 = 0 ∧ (s.reg (aGclk 7)).toNat % 8 = 0 ∧ s.groveQuiet 7 = true) ∧
    State.HostReaches (powerState { st := .on } 0 true false) .mgmt (aGclk 7) ∧
    (powerState { st := .on } 0 true false).groveQuiet 7 = false ∧
    ((0x40 : BitVec 32).toNat / 2 ^ 5 % 4 = 2 ∧ (0x40 : BitVec 32).toNat % 8 = 0 ∧ (5 : BitVec 32).toNat % 8 = 5 ∧
      (5 : BitVec 32).toNat / 2 ^ 5 % 4 = 0) ∧
    (let s := powerState { st := .on, goal := some .clkoff } 0x20 false true; (s.isl 17).st = .on ∧
      (s.isl 17).goal = some .clkoff ∧ (s.isl 17).held = none ∧ s.atRevolution 7 = true) ∧
    State.HostReaches (powerState { st := .off } 0x40 false false) .mgmt (aGclk 7) ∧
    (let s := powerState { st := .off } 0x40 false false; (s.isl 17).st = .off ∧ (s.isl 17).goal = none ∧
      (s.reg (aGclk 7)).toNat / 2 ^ 5 % 4 ≠ 0) ∧
    State.HostReaches (powerState { st := .off } 0x40 false false) .mgmt (aPictl 3) ∧
    (let s := powerState { st := .off } 0x40 false false; (s.isl 9).st = .off ∧ (s.isl 9).goal = none ∧
      (s.reg (aPictl 3)).toNat / 2 ^ 5 % 4 ≠ 0) ∧
    (let s := powerState { st := .off, goal := some .on } 0 false false; (s.isl 17).st = .off ∧ (s.isl 17).goal = some .on ∧
      (s.isl 17).held = none) ∧
    State.HostReaches (powerState { st := .on } 0 false false) .mgmt (aPictl 3) ∧
    ((powerState { st := .on } 0 false false).portsQuiet 3 = true ∧
      ((powerState { st := .on } 0 false false).reg (aPictl 3)).toNat / 2 ^ 5 % 4 = 0) ∧
    (powerState { st := .on } 0 true false).portsQuiet 3 = false ∧
    (let s := powerState { st := .on } 5 false true; (s.point 7).chg = true ∧ s.groveOn 7 = true ∧ s.atRevolution 7 = true ∧
      (s.isl 17).held = none) ∧
    (let s := powerState { st := .on, goal := some .off } 0 false false; (s.isl 17).st ≠ .off ∧ (s.isl 17).goal = some .off) ∧
    (let s := powerState { st := .clkoff, goal := some .on } 0 false false; (s.isl 17).st = .clkoff ∧ (s.isl 17).goal = some .on) :=
  ⟨reaches_of (by decide) (by decide +kernel),
   by decide +kernel,
   reaches_of (by decide) (by decide +kernel),
   by decide +kernel,
   by decide +kernel,
   by decide +kernel,
   reaches_of (by decide) (by decide +kernel),
   by decide +kernel,
   reaches_of (by decide) (by decide +kernel),
   by decide +kernel,
   by decide +kernel,
   reaches_of (by decide) (by decide +kernel),
   by and_intros <;> decide +kernel⟩

/-- States of PowerResults: CLKOFF asked of a grove, the return from it, the values that are refused, and the values of GATE and
PT that each names. -/
theorem test_power_refusals :
    ((0x20 : BitVec 32).toNat / 2 ^ 5 % 4 = 1 ∧ (0x60 : BitVec 32).toNat / 2 ^ 5 % 4 = 3 ∧ (6 : BitVec 32).toNat % 8 = 6 ∧
      (7 : BitVec 32).toNat / 2 ^ 5 % 4 = 0) ∧
    State.HostReaches (powerState { st := .clkoff } 0x20 false false) .mgmt (aGclk 7) ∧
    (let s := powerState { st := .clkoff } 0x20 false false; (s.isl 17).st = .clkoff ∧ (s.isl 17).goal = none ∧
      (s.point 7).chg = false ∧ (s.reg (aGclk 7)).toNat / 2 ^ 5 % 4 ≠ 0) ∧
    State.HostReaches (powerState { st := .on, goal := some .clkoff } 0x20 false false) .mgmt (aGclk 7) ∧
    State.HostReaches (powerState { st := .on } 5 false true) .mgmt (aGclk 7) ∧
    State.HostReaches (powerState { st := .on, goal := some .off } 0x40 false false) .mgmt (aPictl 3) :=
  ⟨by decide +kernel,
   reaches_of (by decide) (by decide +kernel),
   by decide +kernel,
   reaches_of (by decide) (by decide +kernel),
   reaches_of (by decide) (by decide +kernel),
   reaches_of (by decide) (by decide +kernel)⟩

/-- States of PowerResults in which a write is held: during a wake, and during a change of the clock point. -/
theorem test_power_held :
    (let s := powerState { st := .off, goal := some .on, held := some 5 } 0 false false; (s.isl 17).st = .off ∧
      (s.isl 17).goal = some .on ∧ (s.isl 17).held = some 5) ∧
    (let s := powerState { st := .on, held := some 0x40 } 5 false true; (s.point 7).chg = true ∧ (s.isl 17).goal = none ∧
      s.groveOn 7 = true ∧ s.atRevolution 7 = true ∧ (s.isl 17).held = some 0x40) :=
  ⟨by decide +kernel,
   by decide +kernel⟩

/-! ## Start, management and the TAP -/

/-- The start in a phase, since cycle 0. -/
def startState (ph : Phase) (att hw : Nat) (t : Time := {}) (s : State := svc) : State :=
  { s with start := { phase := ph, attempt := att, completed := true }, hw := hw, time := t }
/-- Every memory port but p is ready. -/
def memsBut (p : Nat) : State := { svc with mems := (List.range 12).map fun i => (i, { ready := i != p }) }
/-- Every core is in service mode. -/
def coresIn : State := { svc with cores := (List.range 256).map fun k => (k, { service := true }) }

/-- States of StartResults: power off and on, a request, a lost clock, none, memory that is ready and not, both time sources,
initialisation, its timeout, and the last attempt. -/
theorem test_start_meets :
    ((startState .off 0 0).start.phase = .off ∧ (startState .srst 0 0).start.phase = .srst) ∧
    State.HostReaches (svc) .mgmt (0x14000) ∧
    State.HostReaches (startState .safe 3 0) .mgmt (0x14000) ∧
    ((0xA5000001 : BitVec 32).toNat / 2 ^ 24 = 0xA5 ∧ bit (0xA5000001 : BitVec 32) 0 = true) ∧
    (let s := startState .due 3 0 { clkLost := 0x20 }; s.start.phase = .due ∧ s.clkGone 5 = true ∧ ∀ j, j < 5 → s.clkGone j = false) ∧
    (∀ i, i < 6 → (startState .due 0 0).clkGone i = false) ∧
    (let s := startState .waitMem 0 0 {} (memsBut 12); (∀ p, p < s.ties.memports → (s.mem p).ready = true) ∧
      s.clkGone 1 = false ∧ (∀ t, t < 64 → s.tblEn t = false) ∧ s.start.tables = []) ∧
    (let s := startState .waitMem 0 200000 {} (memsBut 11); (11 < s.ties.memports ∧ (s.mem 11).ready = false) ∧ (∀ q, q < 11 →
      (s.mem q).ready = true) ∧ s.start.since + max 1 ((s.reg 0x14010).toNat / 2 ^ 16) * 200000 ≤ s.hw) ∧
    bit (startState .waitTime 0 0).timectl 30 = false ∧
    (let s := startState .waitTime 0 0 { ppsAt := some 0 } (svcReg 0x10028 0x40000000); bit s.timectl 30 = true ∧
      s.time.ppsAt = some 0 ∧ s.start.since ≤ 0) ∧
    (let s := startState .waitTime 0 0 {} (svcReg 0x10028 0x40000000); bit s.timectl 30 = true ∧ s.edgeSeen = false ∧
      s.start.since + (s.reg 0x1002C).toNat % 65536 * 200000 ≤ s.hw) ∧
    (let s := startState .init0 0 0; ∀ g, g < 8 → (s.grove g).fatal = false) ∧
    (let s := startState .init1 0 0 {} coresIn; ∀ g, g < 8 → ∀ c, c < 32 → s.groveOn g = true → (s.core (coreKey g c)).service = true) ∧
    (let s := startState .init1 0 200000 {} (svcReg 0x80000 0x7F0000); s.initOpen = some 7 ∧
      s.start.since + max 1 ((s.reg 0x14010).toNat % 2 ^ 16) * 200000 ≤ s.hw) ∧
    ((startState .backoff 2 32000000).start.phase = .backoff ∧ 160 * 200000 ≤ (startState .backoff 2 32000000).hw) :=
  ⟨by decide +kernel,
   reaches_of (by decide) (by decide +kernel),
   reaches_of (by decide) (by decide +kernel),
   by and_intros <;> decide +kernel⟩

/-- States of StartResults: power that comes with SRST_N low, and a start that reads slot 1 in mode 2. -/
theorem test_start_pins :
    ({ startState .off 0 0 with start := { phase := .off, srstLow := true } }.start.srstLow = true ∧
      (startState .init0 0 0).start.phase ≠ .srst) ∧
    (let s := { startState .due 0 0 with ties := { svc.ties with bootmode := 2 }, start := { phase := .due, slot := true } };
      s.start.phase = .due ∧ s.start.slot = true ∧ s.ties.bootmode.toNat = 2 ∧ ∀ i, i < 6 → s.clkGone i = false) :=
  ⟨by decide +kernel,
   by decide +kernel⟩

/-- ACCTMO at 100, a counter, the shared latch, and grove 7 without its clock. -/
def mgmtState (lv : Bool) : State :=
  { svcReg 0x38 100 with ctrs := [(0x30, 0xFFFFFFFFFF)], mgmt := { latchV := lv, latchA := 0x30, latchW := [7] },
                         power := [(17, { st := .off })] }

/-- States of ManagementResults: SCRATCH by both ports, a misaligned address, an island that is OFF, the latch valid and not, an
access that may time out, and IRQTEST. -/
theorem test_management_meets :
    State.HostReaches (mgmtState true) .mgmt ((0x28 : BitVec 24).toNat) ∧
    State.HostReaches (mgmtState true) .tap ((0x2C : BitVec 24).toNat) ∧
    (let s := mgmtState true; s.accReady { src := .mgmt, addr := 0x29, wr := none } = true ∧ s.inReset = false ∧
      (0x29 : BitVec 24).toNat % 4 ≠ 0) ∧
    (let s := mgmtState true; islandOf (BitVec.ofNat 24 (aBanks 7)).toNat = some 17 ∧ s.islandOpen 17 = false ∧
      s.accReady { src := .mgmt, addr := BitVec.ofNat 24 (aBanks 7), wr := none } = true) ∧
    State.HostReaches (mgmtState true) .mgmt ((0x30 : BitVec 24).toNat) ∧
    State.HostReaches (mgmtState true) .mgmt ((0x34 : BitVec 24).toNat) ∧
    ((mgmtState true).mgmt.latchV = true ∧ (mgmtState true).mgmt.latchA = 0x30 ∧ (mgmtState true).mgmt.latchW = [7] ∧
      (mgmtState false).mgmt.latchV = false) ∧
    (let s := mgmtState true; islandOf (BitVec.ofNat 24 (aBanks 7)).toNat = some 17 ∧ (s.reg 0x38).toNat % 65536 ≠ 0 ∧
      s.pathUp .tap = true ∧ s.inReset = false) ∧
    State.HostReaches (mgmtState true) .mgmt (0x20014) :=
  ⟨reaches_of (by decide) (by decide +kernel),
   reaches_of (by decide) (by decide +kernel),
   by decide +kernel,
   by decide +kernel,
   reaches_of (by decide) (by decide +kernel),
   reaches_of (by decide) (by decide +kernel),
   by decide +kernel,
   by decide +kernel,
   reaches_of (by decide) (by decide +kernel)⟩

/-- Registers of ManagementResults: plain ones of several groups, the last of each, and the read-only ones of island 1. -/
theorem test_management_plain :
    PlainReg svc 0x38 0xFFFF ∧ PlainReg svc (aRing 15 + 0x10) 0x80FF ∧ PlainReg svc (aEgress 127 + 0x24) 0xFFFF ∧
    PlainReg svc (0x83008 + 16 * 127) 0x3FFF ∧ PlainReg svc (aCore 7 31 + 0x84 + 8 * 3) 0xC000FFFF ∧
    PlainReg svc (aThread 4095 + 0xC) 0xFFFFFF ∧ PlainReg svc (aLocks 7 + 0x500 + 4 * 63) 0x80003FE7 ∧
    State.HostReaches svc .tap (BitVec.ofNat 24 (aThread 4095 + 0xC)).toNat ∧
    State.HostReaches svc .mgmt (BitVec.ofNat 24 (aRing 15 + 0x10)).toNat ∧
    State.HostReaches svc .mgmt (0x1C : BitVec 24).toNat ∧ (0x1C : BitVec 24).toNat = 0x10 + 4 * 3 ∧
    State.HostReaches svc .tap (4 : BitVec 24).toNat ∧ State.HostReaches svc .mgmt (0 : BitVec 24).toNat :=
  ⟨.inl (by decide), .inr (.inr (.inl ⟨15, by decide, by decide⟩)),
   .inr (.inr (.inr (.inl ⟨127, by decide, .inr (.inl (by decide))⟩))),
   .inr (.inr (.inr (.inl ⟨127, by decide, .inr (.inr (by decide +kernel))⟩))),
   .inr (.inr (.inr (.inr (.inl ⟨7, 31, 3, by decide, by decide, by decide, .inr (by decide)⟩)))),
   .inr (.inr (.inr (.inr (.inr (.inl ⟨4095, by decide, by decide, rfl⟩))))),
   .inr (.inr (.inr (.inr (.inr (.inr ⟨7, by decide, .inr (.inr ⟨63, by decide, by decide, rfl⟩)⟩))))),
   reaches_of (by decide) (by decide +kernel),
   reaches_of (by decide) (by decide +kernel),
   reaches_of (by decide) (by decide +kernel), by decide,
   reaches_of (by decide) (by decide +kernel),
   reaches_of (by decide) (by decide +kernel)⟩

/-- Accesses wait, the first of them for the answer that island 10 owes. -/
def waitingState (l : List Access) (owed : Bool) : State :=
  { svcReg 0x38 100 with mgmt := { waiting := l, owed := if owed then [{ island := 10, wr := none }] else [] } }

/-- States of ManagementResults: an access to an island that owes an answer or has lost its clock, accesses that wait and one
that can be served, and one that may time out. -/
theorem test_management_waits :
    (let s := waitingState [] true; islandOf (0x800000 : BitVec 24).toNat = some 10 ∧ s.islandOpen 10 = true ∧
      s.mgmt.owed.any (fun o => o.island = 10) = true ∧ s.mgmt.waiting = [] ∧ s.pathUp .tap = true ∧ s.inReset = false) ∧
    (let s := { svc with time := { clkLost := 0x20 } }; islandOf (0x70000 : BitVec 24).toNat = some 9 ∧ 9 = 3 + 6 ∧
      s.clkGone (3 + 2) = true ∧ s.islandOpen 9 = true) ∧
    (let s := waitingState [{ src := .mgmt, addr := 0x800000, wr := some 7 }] true;
      s.accReady { src := .mgmt, addr := 0x800000, wr := some 7 } = false ∧ s.pathUp .mgmt = true ∧ s.pathUp .tap = true) ∧
    (let s := waitingState [{ src := .mgmt, addr := 0x800000, wr := some 7 }] false;
      s.accReady { src := .mgmt, addr := 0x800000, wr := some 7 } = true ∧ s.pathUp .mgmt = true) ∧
    (let s := waitingState [{ src := .tap, addr := 0x800000, wr := none, dr := true }] true; (s.reg 0x38).toNat % 65536 ≠ 0 ∧
      s.mgmt.waiting = [{ src := .tap, addr := 0x800000, wr := none, dr := true }] ∧ s.islandOpen 10 = true ∧
      s.pathUp .tap = true ∧ s.inReset = false) :=
  by and_intros <;> decide +kernel

/-- DBGACC selected, with a write of SCRATCH0 or a read in its register. -/
def tapState (w : Nat) (st : TapSt) : State :=
  { svc with tap := { st := st, ir := 8, upd := true, ready := true, dr := BitVec.ofNat 57 (w * 2 ^ 56 + 0x28 * 2 ^ 32 + 77) } }

/-- States of TapResults: DBGACC in Shift-DR and in Capture-DR, IDCODE, and an access of each kind. -/
theorem test_tap_meets :
    ((tapState 1 .shDr).start.phase ≠ .off ∧ (tapState 1 .shDr).tap.st = .shDr ∧ (tapState 1 .capDr).tap.ir = 8 ∧ svc.tap.upd = false) ∧
    (let t := (tapState 1 .updDr).tap; t.upd = true ∧ t.ready = true ∧ t.dr.extractLsb' 32 24 = 0x28 ∧ t.dr.getLsbD 56 = true) ∧
    ((tapState 0 .updDr).tap.dr.getLsbD 56 = false ∧ (tapState 0 .updDr).tap.dr.extractLsb' 32 24 = 0x28) ∧
    ({ svc with tap := { st := .capDr, ir := 1 } } : State).tap.ir = 1 ∧
    State.HostReaches (tapState 1 .updDr) .tap (0x28) :=
  ⟨by decide +kernel,
   by decide +kernel,
   by decide +kernel,
   by decide +kernel,
   reaches_of (by decide) (by decide +kernel)⟩

/-! ## The whole machine -/

/-- States of InstructionFrames: an ADD that executes, its short form and STOREs as in the clauses above, and an ADDI whose
condition EQ does not hold. -/
theorem test_frames_meet :
    Runs (shortState 2 3 4 intT) .add ∧
    (Instr.add 0, Mn.add) ∈ plainRows 0 ∧
    (let s := runs (wordOf (2 ^ 32 + 16 * 2 ^ 25 + 3 * 2 ^ 20 + 4 * 2 ^ 15 + 1)) 1 { intT with status := 0 };
      (s.thread 0).latchV = false ∧ (s.issue 0 .addi).any (fun x => (x.1.mn.stepped = false || (s.thread 0).prog = 0) && !condHolds (s.thread 0).status x.1.cond) = true) :=
  by and_intros <;> decide +kernel

/-- A queue with two commands, and the empty queue. -/
theorem test_step_runs_meets :
    (({ svc with pending := [.canopyTick, .refclkLoss] } : State).pending = .canopyTick :: [.refclkLoss] ∧
      svc.pending = []) := by decide +kernel

/-- The step answers a next state. -/
def answers : Host.Outcome State Fault Refusal → Bool
  | .next _ => true
  | _ => false

/-- A step from reset, and one with a command in front, answer a next state; reset is canonical. -/
theorem test_step_meets :
    answers (step State.reset) = true ∧ answers (step { svc with pending := [.refclkLoss] }) = true ∧ Canonical State.reset :=
  ⟨by decide +kernel, by decide +kernel, ⟨by decide +kernel, fun _ => by rfl⟩⟩

/-! ## Well-formedness: each check refuses a term, and accepts one beside it -/

/-- The host reaches every register; a thread reaches no register of the Start island (R138, R508). -/
theorem test_wf_host : Instr.wf (.startcmdGo .mgmt 1) = true ∧ Instr.wf (.startcmdGo (.thread 0) 1) = false ∧
    Instr.wf (.startcmdGo .image 1) = false := by decide +kernel
/-- A thread reaches the port window, the image's writes do not (R138). -/
theorem test_wf_port : Instr.wf (.engineFlush (.thread 4095) 127 3 0) = true ∧ Instr.wf (.engineFlush .image 127 3 0) = false := by
  decide +kernel
/-- Thread 512 stands in grove 1 and reaches no unit of grove 0 (R204). -/
theorem test_wf_grove : Instr.wf (.wdkick (.thread 511) 0) = true ∧ Instr.wf (.wdkick (.thread 512) 0) = false := by decide +kernel
/-- Thread 16 stands in core 1 and reaches no register of core 0 (R207). -/
theorem test_wf_core : Instr.wf (.serviceModeRequest (.thread 15) 0 0) = true ∧ Instr.wf (.serviceModeRequest (.thread 16) 0 0) = false ∧
    Instr.wf (.coresyncCore (.thread 16) 0 0) = false := by decide +kernel
/-- A thread's own registers, and the debug registers, which no thread reaches (R171, R282, R283). -/
theorem test_wf_self : Instr.wf (.thcmdStart (.thread 15) 15) = true ∧ Instr.wf (.thcmdStart (.thread 14) 15) = false ∧
    Instr.wf (.debugHalt .tap (.dbgcmd 15)) = true ∧ Instr.wf (.debugHalt (.thread 15) (.dbgcmd 15)) = false := by decide +kernel
/-- An express frame of one word (R89). -/
theorem test_wf_express : Instr.wf (.expressFrame 0 [0, 1]) = true ∧ Instr.wf (.expressFrame 0 [0]) = false := by decide +kernel
/-- A flash slot of 32 MiB and one byte more (R429). -/
theorem test_wf_slot : Instr.wf (.memoryStep (List.replicate (2 ^ 25) 0) true none) = true ∧
    Instr.wf (.memoryStep (List.replicate (2 ^ 25 + 1) 0) true none) = false := by
  simp only [Instr.wf, slotOk, List.length_replicate]; decide +kernel

end Sys2Proof.Tests
end

section
/-!
PROOFS. Every step keeps the register map and the scratchpads canonical (O60; log entry 75). For each operation of the model
that gives a state there is a lemma Canonical.<operation>: from a canonical state it gives a canonical one. The few that write
the maps themselves (setReg, setGrove, writeSpad, eraseBank and the resets) rest on the laws of the maps; each other one is a
chain of the lemmas of the operations it is made of, in the order of the model.
-/
set_option Elab.async false

namespace Sys2Proof.Machine

variable {s : State} {g th p k n c r a e i t : Nat}

/-- A state with the same registers and groves is canonical too. -/
theorem Canonical.same {u : State} (h : Canonical s) (hr : u.regs = s.regs := by rfl)
    (hg : u.groves = s.groves := by rfl) : Canonical u := by
  unfold Canonical State.grove at h ⊢
  rw [hr, hg]
  exact h

theorem Canonical.ite {u v : State} {q : Prop} [Decidable q] (hu : Canonical u) (hv : Canonical v) :
    Canonical (if q then u else v) := by
  split
  · exact hu
  · exact hv

theorem Canonical.foldl {α : Type} {f : State → α → State} {l : List α} (h : Canonical s)
    (hf : ∀ u x, Canonical u → Canonical (f u x)) : Canonical (l.foldl f s) := by
  induction l generalizing s with
  | nil => exact h
  | cons x xs ih => exact ih (hf s x h)

/-- A fold that carries something beside the state. -/
theorem foldl_fst {α β : Type} {f : State × β → α → State × β} {l : List α} {x : State × β} (h : Canonical x.1)
    (hf : ∀ u y, Canonical u.1 → Canonical (f u y).1) : Canonical (l.foldl f x).1 := by
  induction l generalizing x with
  | nil => exact h
  | cons y ys ih => exact ih (hf x y h)

theorem foldl_snd {α β : Type} {f : β × State → α → β × State} {l : List α} {x : β × State} (h : Canonical x.2)
    (hf : ∀ u y, Canonical u.2 → Canonical (f u y).2) : Canonical (l.foldl f x).2 := by
  induction l generalizing x with
  | nil => exact h
  | cons y ys ih => exact ih (hf x y h)

/-- A change of the registers that leaves them canonical. -/
theorem Canonical.regsOnly {u : State} (h : Canonical s) (hr : SMap.wf 0 u.regs = true) (hg : u.groves = s.groves := by rfl) :
    Canonical u := by
  refine ⟨hr, fun g => ?_⟩
  unfold State.grove
  rw [hg]
  exact h.2 g

/-- Registers masked, and those that became 0 dropped, are canonical. -/
theorem wf_mask {m : SMap (BitVec 32)} {q : Nat → Prop} [DecidablePred q] {v : BitVec 32} (h : SMap.wf 0 m = true) :
    SMap.wf 0 ((m.map (fun e => if q e.1 then (e.1, e.2 &&& v) else e)).filter (fun e => e.2 ≠ 0)) = true := by
  have : (fun e : Nat × BitVec 32 => if q e.1 then (e.1, e.2 &&& v) else e) =
      fun e => (e.1, if q e.1 then e.2 &&& v else e.2) := by
    funext e
    split <;> rfl
  rw [this]
  exact SMap.wf_map_filter h _

theorem Canonical.regs_wf (h : Canonical s) : SMap.wf 0 s.regs = true := h.1
theorem Canonical.scratch_wf (h : Canonical s) : SMap.wf 0 (s.grove g).scratch = true := h.2 g

/-- Every state that a step's outcome carries is canonical. -/
def Outc.Canonical : Outc → Prop
  | .done s | .attempt _ s | .fault _ _ s | .fatal s => Machine.Canonical s

theorem Outc.Canonical.ite {u v : Outc} {q : Prop} [Decidable q] (hu : u.Canonical) (hv : v.Canonical) :
    (if q then u else v).Canonical := by
  split
  · exact hu
  · exact hv

/-- The state that a load's check leaves, if it is one, is canonical. -/
def LoadRes.Canonical : LoadRes → Prop
  | .word s _ | .eccu s => Machine.Canonical s
  | .dacc | .wait _ | .later _ => True

/-- The state with a store's entries, if they enter, is canonical. -/
def StoreRes.Canonical : StoreRes → Prop
  | .ok s => Machine.Canonical s
  | .dacc _ | .wait _ => True

/-- The state in which an engine's instruction ends its cycle is canonical. -/
def EOut.Canonical : EOut → Prop
  | .hold s | .go s _ => Machine.Canonical s

theorem EOut.Canonical.ite {u v : EOut} {q : Prop} [Decidable q] (hu : u.Canonical) (hv : v.Canonical) :
    (if q then u else v).Canonical := by
  split
  · exact hu
  · exact hv

/-- A value that a part of a load settles on meets q, and the state of a failure is canonical. -/
def Settles {α : Type} (q : α → Prop) : Except (Fail × State) α → Prop
  | .ok x => q x
  | .error x => Canonical x.2

theorem Settles.bind {α β : Type} {q : α → Prop} {q' : β → Prop} {x : Except (Fail × State) α} {f : α → Except (Fail × State) β}
    (h : Settles q x) (hf : ∀ y, q y → Settles q' (f y)) : Settles q' (x >>= f) := by
  cases x with
  | ok y => exact hf y h
  | error y => exact h

theorem Settles.foldlM {α β : Type} {q : α → Prop} {f : α → β → Except (Fail × State) α} {l : List β} {x : α}
    (h : q x) (hf : ∀ y b, q y → Settles q (f y b)) : Settles q (l.foldlM f x) := by
  induction l generalizing x with
  | nil => exact h
  | cons b bs ih => exact .bind (hf x b h) fun y hy => ih hy

/-- The state after a free value is drawn. -/
theorem Canonical.freshOf {m : Nat} {u : State} (h : Canonical s) (e : s.fresh = (m, u)) : Canonical u := by
  cases e
  exact h.same

/-- The state that a load carries along is canonical. -/
def Load.Canonical (l : Load) : Prop := Machine.Canonical l.st

/-! ### Machine/Regs.lean -/

theorem Canonical.setReg {v : BitVec 32} (h : Canonical s) : Canonical (s.setReg a v) := ⟨s.wf_setReg a v h.regs_wf, h.2⟩

theorem Canonical.orReg {v : BitVec 32} (h : Canonical s) : Canonical (s.orReg a v) := h.setReg

theorem Canonical.count (h : Canonical s) : Canonical (s.count a n) := h.same

theorem Canonical.setThread {t : Thread} (h : Canonical s) : Canonical (s.setThread th t) := h.same

theorem Canonical.modThread {f : Thread → Thread} (h : Canonical s) : Canonical (s.modThread th f) := h.setThread

theorem Canonical.setCore {c : Core} (h : Canonical s) : Canonical (s.setCore k c) := h.same

theorem Canonical.modCore {f : Core → Core} (h : Canonical s) : Canonical (s.modCore k f) := h.setCore

/-- A grove is written whose scratchpad is canonical. -/
theorem Canonical.setGrove {v : Grove} (h : Canonical s) (hv : SMap.wf 0 v.scratch = true) : Canonical (s.setGrove g v) := by
  refine ⟨h.regs_wf, fun b => ?_⟩
  rw [State.grove_setGrove]
  split
  · exact hv
  · exact h.scratch_wf

/-- A change of a grove that leaves its scratchpad alone. -/
theorem Canonical.modGrove {f : Grove → Grove} (h : Canonical s)
    (hf : (f (s.grove g)).scratch = (s.grove g).scratch := by rfl) : Canonical (s.modGrove g f) :=
  h.setGrove (hf ▸ h.scratch_wf)

theorem Canonical.setStall {v : Stall} (h : Canonical s) : Canonical (s.setStall g v) := h.same

theorem Canonical.setBeat {v : Beat} (h : Canonical s) : Canonical (s.setBeat g v) := h.same

theorem Canonical.setPort {v : Port} (h : Canonical s) : Canonical (s.setPort p v) := h.same

theorem Canonical.modPort {f : Port → Port} (h : Canonical s) : Canonical (s.modPort p f) := h.setPort

theorem Canonical.setRing {v : Ring} (h : Canonical s) : Canonical (s.setRing r v) := h.same

theorem Canonical.modRing {f : Ring → Ring} (h : Canonical s) : Canonical (s.modRing r f) := h.setRing

theorem Canonical.setLink {v : Link} (h : Canonical s) : Canonical (s.setLink k v) := h.same

theorem Canonical.setMem {v : MPort} (h : Canonical s) : Canonical (s.setMem p v) := h.same

theorem Canonical.modMem {f : MPort → MPort} (h : Canonical s) : Canonical (s.modMem p f) := h.setMem

theorem Canonical.setIsl {v : Island} (h : Canonical s) : Canonical (s.setIsl i v) := h.same

theorem Canonical.setPoint {v : Point} (h : Canonical s) : Canonical (s.setPoint g v) := h.same

theorem Canonical.setEng {v : Engine} (h : Canonical s) : Canonical (s.setEng p e v) := h.modPort

theorem Canonical.modEng {f : Engine → Engine} (h : Canonical s) : Canonical (s.modEng p e f) := h.setEng

theorem Canonical.setDma {v : Dma} (h : Canonical s) : Canonical (s.setDma g k v) := h.modGrove

theorem Canonical.setTimer {v : Timer} (h : Canonical s) : Canonical (s.setTimer g k v) := h.modGrove

theorem Canonical.setLock {u : Nat} {v : Lock} (h : Canonical s) : Canonical (s.setLock g u v) := h.modGrove

theorem Canonical.setChan {u : Nat} {v : Chan} (h : Canonical s) : Canonical (s.setChan g u v) := h.modGrove

/-! ### Machine/Ops.lean -/

theorem Canonical.beatOn (h : Canonical s) : Canonical (s.beatOn k) := h.setBeat

theorem Canonical.countAt {stamp : Word} (h : Canonical s) : Canonical (s.countAt a stamp n) := by
  unfold State.countAt
  extract_lets t b c u
  have h1 : Canonical u := h.count
  exact .ite h1 (.ite h1.same (.ite h1.same h1))

theorem Canonical.push {m : Message} (h : Canonical s) : Canonical (s.push k m) := h.setLink

theorem Canonical.popLink (h : Canonical s) : Canonical (s.popLink k) := by
  unfold State.popLink
  dsimp only
  split
  · exact h
  · exact h.setLink

theorem Canonical.fresh (h : Canonical s) : Canonical (s.fresh).2 := h.same

theorem Canonical.sendRec {island kind seq sum : Nat} {time : Word} {conts : List Word} {ctrl : Bool} (h : Canonical s) :
    Canonical (s.sendRec island kind seq sum time conts ctrl) :=
  h.push

theorem Canonical.ctrlRec {island kind sum : Nat} {conts : List Word} (h : Canonical s) :
    Canonical (s.ctrlRec island kind sum conts) :=
  .ite h h.same.sendRec

theorem Canonical.event {island ev detail : Nat} {conts : List Word} (h : Canonical s) :
    Canonical (s.event island ev detail conts) :=
  h.ctrlRec

theorem Canonical.eccEvent {island area addr : Nat} (h : Canonical s) : Canonical (s.eccEvent island area g addr) :=
  h.count.event

theorem Canonical.setLine {timer : Bool} (h : Canonical s) : Canonical (s.setLine th i timer) := h.modThread

theorem Canonical.excRecord {cause : Nat} {hold : Bool} {pc : BitVec 24} (h : Canonical s) :
    Canonical (s.excRecord th cause hold pc) :=
  .ite h h.event

theorem Canonical.groveFatal {ocause : Nat} {wdog : Bool} (h : Canonical s) : Canonical (s.groveFatal g ocause wdog) := by
  unfold State.groveFatal
  extract_lets u
  have h1 : Canonical u := h.modGrove
  exact h1.same.event

theorem Canonical.hold {reason ocause : Nat} {pc : BitVec 24} {e : Retry} (h : Canonical s) :
    Canonical (s.hold th reason ocause pc e) :=
  .ite h.modThread.modGrove.excRecord.groveFatal h.modThread.modGrove.excRecord

theorem Canonical.enter {cause : Nat} {pc : BitVec 24} {bad : Option (BitVec 40)} {badins : Option (BitVec 37)}
    {kind : EntryKind} (h : Canonical s) : Canonical (s.enter th cause pc bad badins kind) :=
  .ite h.setThread.hold h.setThread.excRecord

theorem Canonical.pktCheck {cell len : Nat} (h : Canonical s) : Canonical (s.pktCheck cell len k) := by
  unfold State.pktCheck
  split
  · exact h
  · exact h.count
  · exact h.eccEvent

theorem Canonical.startWord {d : Desc} (h : Canonical s) : Canonical (s.startWord d k).1 := by
  unfold State.startWord
  dsimp only
  split
  · exact h.pktCheck.fresh
  · exact h.pktCheck

theorem Canonical.packetStart (h : Canonical s) : Canonical (s.packetStart th) := by
  unfold State.packetStart
  split
  · exact h
  · exact .setThread (foldl_fst h fun _ _ h1 => h1.startWord)

theorem Canonical.giveDesc {d : Desc} (h : Canonical s) : Canonical (s.giveDesc th d) :=
  .ite h.modThread.packetStart h.modThread

theorem Canonical.servePool (h : Canonical s) : Canonical (s.servePool g n) := by
  induction n generalizing s with
  | zero => exact h
  | succ n ih =>
    show Canonical (match (s.grove g).poolQ with | [] => _ | _ :: _ => _)
    split
    · exact h
    split
    · exact ih h.modGrove.giveDesc
    split
    · exact ih h.modGrove.giveDesc
    · exact h

theorem Canonical.pool (h : Canonical s) : Canonical (s.pool g) := h.servePool

theorem Canonical.placeDesc {d : Desc} (h : Canonical s) : Canonical (s.placeDesc g d) := by
  unfold State.placeDesc
  dsimp only
  split
  · exact h.modGrove.modGrove.giveDesc
  · exact h.modGrove.modGrove.pool

theorem Canonical.freeEntry (h : Canonical s) : Canonical (s.freeEntry g) := h.modGrove.push.pool

theorem Canonical.complete {c : Completion} (h : Canonical s) : Canonical (s.complete g c) := h.modGrove

theorem Canonical.serveAband (h : Canonical s) : Canonical (s.serveAband g n) := by
  induction n generalizing s with
  | zero => exact h
  | succ n ih =>
    rw [State.serveAband]
    split
    · exact h
    · exact .ite (ih (.freeEntry (.complete h.modGrove))) h

theorem Canonical.giveUp (h : Canonical s) : Canonical (s.giveUp th) := h.modThread.modGrove.serveAband

/-! ### Machine/Counts.lean -/

theorem Canonical.modTimer {f : Timer → Timer} (h : Canonical s) : Canonical (s.modTimer g k f) := h.setTimer

theorem Canonical.tstat {b : Nat} (h : Canonical s) : Canonical (s.tstat g k b) := h.orReg

theorem Canonical.timAdvance (h : Canonical s) : Canonical (s.timAdvance g k n) := .ite h (.ite h.setTimer h.setTimer)

theorem Canonical.timersAdvance {src : Nat} (h : Canonical s) : Canonical (s.timersAdvance g src n) :=
  h.foldl fun _ _ h1 => .ite h1.timAdvance h1

theorem Canonical.timEdges {ns : Nat} (h : Canonical s) : Canonical (s.timEdges g ns k) := .ite h (.ite h.setTimer h.setTimer)

theorem Canonical.timCycle {was now : Nat} (h : Canonical s) : Canonical (s.timCycle g was now) :=
  h.timersAdvance.timersAdvance.foldl fun _ _ h2 => h2.timEdges

theorem Canonical.timCycles {l : List Nat} (h : Canonical s) : Canonical (s.timCycles g p l) := by
  induction l generalizing s p with
  | nil => exact h
  | cons q l ih => exact ih h.timCycle

theorem Canonical.timReach {b : Nat} (h : Canonical s) : Canonical (s.timReach g b) := .ite h h.timCycles

/-! ### Machine/Fetch.lean -/

theorem Canonical.fetchEcc (h : Canonical s) : Canonical (s.fetchEcc th) := by
  unfold State.fetchEcc
  refine .ite h ?_
  split
  · exact h.modGrove.count
  · exact h.eccEvent
  · exact h

/-! ### Machine/LockUnit.lean -/

theorem Canonical.endWait (h : Canonical s) : Canonical (s.endWait th) := h.modThread

theorem Canonical.grantNext {u : Nat} (h : Canonical s) : Canonical (s.grantNext g u) := by
  unfold State.grantNext
  dsimp only
  split
  · exact h.setLock.endWait
  · exact h

theorem Canonical.releaseLock {u : Nat} (h : Canonical s) : Canonical (s.releaseLock g u) := h.setLock.grantNext

theorem Canonical.forceRelease {u : Nat} (h : Canonical s) : Canonical (s.forceRelease g u) := by
  unfold State.forceRelease
  split
  · exact h
  · exact h.releaseLock.event

theorem Canonical.settleFlag {f : Nat} {was : Bool} (h : Canonical s) : Canonical (s.settleFlag g f was) :=
  .ite h (.ite (.setLine (h.foldl fun _ _ h2 => h2.endWait)) (h.foldl fun _ _ h2 => h2.endWait))

theorem Canonical.settleFlags {was : BitVec 64} (h : Canonical s) : Canonical (s.settleFlags g was) :=
  h.foldl fun _ _ h1 => h1.settleFlag

theorem Canonical.setFlag {f : Nat} {v : Bool} (h : Canonical s) : Canonical (s.setFlag g f v) :=
  .ite h.modGrove h.modGrove.settleFlag

theorem Canonical.setFlags {lo : Nat} {mask : BitVec 32} {v : Bool} (h : Canonical s) : Canonical (s.setFlags g lo mask v) :=
  h.foldl fun _ _ h1 => .ite h1.setFlag h1

theorem Canonical.recvLand {reg : Nat} {w : Word} {last : Bool} (h : Canonical s) : Canonical (s.recvLand th reg w last) :=
  h.modThread

theorem Canonical.takeWord {u reg : Nat} (h : Canonical s) : Canonical (s.takeWord th g u i reg) := by
  unfold State.takeWord
  dsimp only
  split
  · exact h
  · split
    · exact h
    · exact h.setChan.modThread.recvLand
    · exact h.setChan.modThread.recvLand

theorem Canonical.chanSettle {u : Nat} (h : Canonical s) : Canonical (s.chanSettle g u n) := by
  induction n generalizing s with
  | zero => exact h
  | succ n ih =>
    rw [State.chanSettle]
    dsimp only
    split
    · exact ih h.setChan.takeWord.modThread
    split
    · exact h
    · exact .ite h (ih h.setChan.modThread)

theorem Canonical.settle {u : Nat} (h : Canonical s) : Canonical (s.settle g u) := h.chanSettle

theorem Canonical.cancelWait (h : Canonical s) : Canonical (s.cancelWait th) := by
  unfold State.cancelWait
  dsimp only
  split
  · refine .modThread ?_
    split
    · exact h.setLock
    · exact h.setChan
    · exact h.setChan
    · exact h
  · refine .modThread ?_
    split
    · exact h.setLock
    · exact h.setChan
    · exact h.setChan
    · exact h
  · refine .modThread ?_
    split
    · exact h.setLock
    · exact h.setChan
    · exact h.setChan
    · exact h
  · refine .modThread ?_
    split
    · exact h.setLock
    · exact h.setChan
    · exact h.setChan
    · exact h
  · split
    · exact h.setLock
    · exact h.setChan
    · exact h.setChan
    · exact h

theorem Canonical.chanFlush {u : Nat} (h : Canonical s) : Canonical (s.chanFlush g u) := h.setChan.event.settle

/-! ### Machine/Memory.lean -/

theorem Canonical.memArrive {r : MReq} (h : Canonical s) : Canonical (s.memArrive p r) := .setMem (.ite h.count h)

theorem Canonical.memFill (h : Canonical s) : Canonical (s.memFill p) :=
  h.modMem.foldl fun _ _ h1 => .ite h1.memArrive h1.setMem

theorem Canonical.memShow {write : Bool} (h : Canonical s) : Canonical (s.memShow p write) := by
  unfold State.memShow
  refine .ite h ?_
  dsimp only
  split
  · split
    · exact h
    · exact h.fresh.setMem
  · exact h

theorem Canonical.memPresent (h : Canonical s) : Canonical (s.memPresent p) := h.memFill.memShow.memShow

theorem Canonical.memSend {r : MReq} (h : Canonical s) : Canonical (s.memSend r) := h.modMem.memPresent

theorem Canonical.memTransfer {write : Bool} (h : Canonical s) : Canonical (s.memTransfer p write) := by
  unfold State.memTransfer
  dsimp only
  split
  · exact h
  · exact .ite h h.memPresent.setMem.count.memPresent

theorem Canonical.memEvent {kind : Nat} {dir : Bool} {tag cls : Nat} {ea : Option Nat} (h : Canonical s) :
    Canonical (s.memEvent p kind dir tag cls ea) :=
  h.event

theorem Canonical.answer {a : Answer} (h : Canonical s) : Canonical (s.answer th a) := h.modThread

/-! ### Machine/Issue.lean -/

theorem Canonical.parkCheck (h : Canonical s) : Canonical (s.parkCheck th) := .ite h.cancelWait.modThread h

theorem Canonical.waitCheck (h : Canonical s) : Canonical (s.waitCheck th) := .ite h.cancelWait h

theorem Canonical.lookAhead (h : Canonical s) : Canonical (s.lookAhead g c) := h.modCore

theorem Canonical.openCycle (h : Canonical s) : Canonical (s.openCycle g) :=
  .ite h (.foldl (.setBeat (.beatOn (.timReach (h.foldl fun _ _ h5 => h5.waitCheck)))) fun _ _ h4 => h4.lookAhead)

theorem Canonical.closeCycle (h : Canonical s) : Canonical (s.closeCycle g) := .ite h.setBeat.settleFlags h

theorem Canonical.coreTurn {sel : Sel} (h : Canonical s) : Canonical (s.coreTurn g c sel) :=
  .ite (.count (.count (.ite h.modCore.setStall h.modCore))) (.count (.ite h.modCore.setStall h.modCore))

theorem Canonical.coreTick {sel : Sel} (h : Canonical s) : Canonical (s.coreTick g c sel) :=
  .closeCycle (h.coreTurn.foldl fun _ _ h1 => h1.parkCheck)

theorem Canonical.correctRegs {f : FInstr} (h : Canonical s) : Canonical (s.correctRegs th f) := .ite h h.count

theorem Canonical.fatalHold (h : Canonical s) : Canonical (s.fatalHold th) := h.fresh.setThread.eccEvent.hold

theorem Outc.Canonical.closeStep {f : FInstr} {o : Outc} (h : o.Canonical) : Machine.Canonical (closeStep th f o) := by
  cases o with
  | done s => change Machine.Canonical s at h; exact h.modThread
  | attempt w s => change Machine.Canonical s at h; exact h.modThread
  | fault cause bad s => 
    change Machine.Canonical s at h
    unfold Machine.closeStep
    exact h.modThread.enter
  | fatal s => change Machine.Canonical s at h; exact h.fatalHold

theorem Canonical.stepOf {f : FInstr} {body : FInstr → State → Outc} (h : Canonical s)
    (hb : ∀ f u, Canonical u → (body f u).Canonical) : Canonical (s.stepOf th f body) :=
  .ite h.modThread (.ite h.fatalHold (hb f _ h.correctRegs).closeStep)

/-- The frame of an instruction keeps the maps canonical when its body does. -/
theorem Canonical.runInstr {mn : Mn} {body : FInstr → State → Outc} (h : Canonical s)
    (hb : ∀ f u, Canonical u → (body f u).Canonical) : Canonical (s.runInstr th mn body) := by
  unfold State.runInstr
  split
  · exact h
  · exact .coreTick (h.openCycle.fetchEcc.stepOf hb)

/-! ### Machine/Alu.lean -/

theorem Canonical.regStep {op : FInstr → Thread → Thread} {f : FInstr} (h : Canonical s) : (regStep th op f s).Canonical := by
  unfold Machine.regStep
  exact h.modThread

/-! ### Machine/Operands.lean -/

theorem Canonical.readSpad {phys : Nat} (h : Canonical s) : Canonical (s.readSpad g phys).1 := by
  unfold State.readSpad
  dsimp only
  split
  · exact h
  · exact .count h.modGrove
  · exact .eccEvent (.count h.orReg)

/-- A scratchpad is written word by word. -/
theorem Canonical.writeSpad {phys : Nat} {w : Word} {mask : BitVec 8} (h : Canonical s) :
    Canonical (s.writeSpad g phys w mask) :=
  h.setGrove (SMap.wf_mput h.scratch_wf _ _)

theorem Canonical.storeSpad {phys : Nat} {w : Word} {mask : BitVec 8} (h : Canonical s) :
    Canonical (s.storeSpad g phys w mask) :=
  .ite h.writeSpad (.ite h.readSpad.writeSpad h.readSpad.writeSpad.modGrove)

theorem Canonical.writePort {phys : Nat} {portB : Bool} {w : Word} {mask : BitVec 8} (h : Canonical s) :
    Canonical (s.writePort g phys portB w mask) := by
  unfold State.writePort
  refine .ite h.storeSpad ?_
  dsimp only
  split
  · exact h.modGrove.storeSpad
  · exact .ite (.ite h.fresh.modGrove.storeSpad (.ite h.fresh.orReg h.fresh.orReg.writeSpad)) h.modGrove.storeSpad

theorem Canonical.loadWord {ea : Word} {lanes : BitVec 8} {allow : Target → Bool} (h : Canonical s) :
    (s.loadWord th ea lanes allow).Canonical := by
  unfold State.loadWord
  split
  · trivial
  · trivial
  split
  · split
    · exact h
    · trivial
  split
  · dsimp only
    split
    · exact h.readSpad
    · exact h.readSpad
  · trivial

theorem Canonical.loadWord_word {ea w : Word} {lanes : BitVec 8} {allow : Target → Bool} {u : State} (h : Canonical s)
    (hl : s.loadWord th ea lanes allow = .word u w) : Canonical u := by
  have := h.loadWord (th := th) (ea := ea) (lanes := lanes) (allow := allow)
  rwa [hl] at this

theorem Canonical.loadWord_eccu {ea : Word} {lanes : BitVec 8} {allow : Target → Bool} {u : State} (h : Canonical s)
    (hl : s.loadWord th ea lanes allow = .eccu u) : Canonical u := by
  have := h.loadWord (th := th) (ea := ea) (lanes := lanes) (allow := allow)
  rwa [hl] at this

theorem Canonical.sendLoad {t : Target} (h : Canonical s) : Canonical (s.sendLoad th t) := by
  unfold State.sendLoad
  split
  · split
    · exact h.push
    · exact h
  · exact h.memSend
  · exact h

theorem Canonical.beginLoad {t : Target} {ea : Word} {dest : Dest} {undo : Option (Nat × Word)} (h : Canonical s) :
    Canonical (s.beginLoad th t ea dest undo) :=
  h.modThread.sendLoad

theorem Canonical.addEntry {e : SbEntry} (h : Canonical s) : Canonical (s.addEntry th e) := h.modThread.modCore

theorem checkStores_error {allow : Target → Bool} {l : List StoreReq} {x : StoreRes}
    (h : s.checkStores th allow l = .error x) : x.Canonical := by
  induction l generalizing x with
  | nil => cases h
  | cons r rest ih =>
    rw [State.checkStores] at h
    split at h
    · cases h; trivial
    · cases h; trivial
    split at h
    · cases h
    · next e he => cases h; exact ih he

theorem Canonical.store {reqs : List StoreReq} {allow : Target → Bool} (h : Canonical s) :
    (s.store th reqs allow).Canonical := by
  unfold State.store
  split
  · trivial
  split
  · next e he => exact checkStores_error he
  · exact Canonical.foldl h fun _ _ h1 => h1.addEntry

theorem Canonical.store_ok {reqs : List StoreReq} {allow : Target → Bool} {u : State} (h : Canonical s)
    (hs : s.store th reqs allow = .ok u) : Canonical u := by
  have := h.store (th := th) (reqs := reqs) (allow := allow)
  rwa [hs] at this

/-! ### Machine/LoadStore.lean -/

theorem Canonical.loadAttempt {w : Wait} (h : Canonical s) : (loadAttempt th w s).Canonical := by
  unfold Machine.loadAttempt
  split
  · exact h.count
  · exact h

theorem Canonical.loadInto {reg first size : Nat} {ea : Word} {base : Option (Nat × Word)} {allow : Target → Bool}
    (h : Canonical s) : (loadInto th reg ea first n base allow size s).Canonical := by
  unfold Machine.loadInto
  dsimp only
  split
  · exact h
  · exact h.loadAttempt
  · next hl => exact h.loadWord_eccu hl
  · next hl => exact (h.loadWord_word hl).modThread
  · exact h.beginLoad.modThread

theorem Canonical.storeStep {reqs : List StoreReq} {base : Option (Nat × Word)} {allow : Target → Bool} {size : Nat}
    (h : Canonical s) : (storeStep th reqs base allow size s).Canonical := by
  unfold Machine.storeStep
  split
  · exact h
  · exact h
  · next hs => exact (h.store_ok hs).modThread

theorem Canonical.bodyLdw {f : FInstr} (h : Canonical s) : (bodyLdw th f s).Canonical := by
  unfold Machine.bodyLdw
  exact h.loadInto

theorem Canonical.bodyStw {f : FInstr} (h : Canonical s) : (bodyStw th f s).Canonical := by
  unfold Machine.bodyStw
  exact h.storeStep

theorem Canonical.bodyLd {f : FInstr} (h : Canonical s) : (bodyLd th f s).Canonical := by
  unfold Machine.bodyLd
  split
  · exact h
  · exact h.loadInto

theorem Canonical.bodySt {f : FInstr} (h : Canonical s) : (bodySt th f s).Canonical := by
  unfold Machine.bodySt
  dsimp only
  split
  · exact h
  · exact h.storeStep

theorem Canonical.bodyStm {f : FInstr} (h : Canonical s) : (bodyStm th f s).Canonical := by
  unfold Machine.bodyStm
  exact h.storeStep

theorem Canonical.bodyLds {f : FInstr} (h : Canonical s) : (bodyLds th f s).Canonical := by
  unfold Machine.bodyLds
  dsimp only
  split
  · split
    · exact h.loadAttempt
    · exact h.modThread.loadInto
  split
  · split
    · exact h.modThread
    · exact h.loadAttempt
    · next hl => exact (h.loadWord_eccu hl).modThread
    · next hl => exact (h.loadWord_word hl).modThread
    · exact h.beginLoad.modThread
  · split
    · exact h.modThread
    · exact h.loadAttempt
    · next hl => exact (h.loadWord_eccu hl).modThread
    · next hl => exact (h.loadWord_word hl).modThread
    · exact h.beginLoad

theorem Canonical.bodySts {f : FInstr} (h : Canonical s) : (bodySts th f s).Canonical := by
  unfold Machine.bodySts
  exact h.storeStep

theorem Canonical.bodyPush {f : FInstr} (h : Canonical s) : (bodyPush th f s).Canonical := by
  unfold Machine.bodyPush
  exact .ite h.storeStep h

theorem Canonical.bodyPop {f : FInstr} (h : Canonical s) : (bodyPop th f s).Canonical := by
  unfold Machine.bodyPop
  exact .ite h.loadInto h

theorem Canonical.bodyBmov {f : FInstr} (h : Canonical s) : (bodyBmov th f s).Canonical := by
  unfold Machine.bodyBmov
  dsimp only
  split
  · exact h.modThread
  split
  · exact h
  · exact h.loadAttempt
  · next hl => exact h.loadWord_eccu hl
  · next hl =>
    have h1 := h.loadWord_word hl
    split
    · exact h1
    · exact h1
    · next hs => exact (h1.store_ok hs).modThread
  · split
    · exact h
    · exact h
    · exact h.beginLoad

theorem Canonical.macStep {cl wa wb : Bool} {count : Nat} {f : FInstr} (h : Canonical s) :
    (macStep th cl wa wb count f s).Canonical := by
  unfold Machine.macStep
  extract_lets
  refine .ite h.modThread ?_
  split
  · exact h
  · exact h
  extract_lets second
  have h1 : ∀ u v, Canonical u → (second u v).Canonical := by
    intro u v hu
    dsimp only [second]
    split
    · exact hu
    · exact hu
    · exact hu.loadAttempt
    · next hl => exact hu.loadWord_eccu hl
    · next hl => exact (hu.loadWord_word hl).modThread
  refine .ite (h1 _ _ h) ?_
  split
  · exact h
  · exact h
  · exact h.loadAttempt
  · next hl => exact h.loadWord_eccu hl
  · next hl => exact .ite (h.loadWord_word hl).modThread (h1 _ _ (h.loadWord_word hl))

theorem Canonical.bodyMacx {f : FInstr} (h : Canonical s) : (bodyMacx th f s).Canonical := by
  unfold Machine.bodyMacx
  exact h.macStep

theorem Canonical.bodyMacxI {f : FInstr} (h : Canonical s) : (bodyMacxI th f s).Canonical := by
  unfold Machine.bodyMacxI
  exact h.macStep

theorem Canonical.bodyMacxC {f : FInstr} (h : Canonical s) : (bodyMacxC th f s).Canonical := by
  unfold Machine.bodyMacxC
  exact h.macStep

theorem Canonical.atomic {op : Word → Word → Word} {f : FInstr} (h : Canonical s) : (atomic op th f s).Canonical := by
  unfold Machine.atomic
  refine .ite h ?_
  dsimp only
  split
  · exact h
  · exact h
  · exact .ite h.readSpad h.readSpad.writeSpad.modThread
  · exact h

theorem Canonical.bodyAadd {f : FInstr} (h : Canonical s) : (bodyAadd th f s).Canonical := by
  unfold Machine.bodyAadd
  exact h.atomic

theorem Canonical.bodyAswp {f : FInstr} (h : Canonical s) : (bodyAswp th f s).Canonical := by
  unfold Machine.bodyAswp
  exact h.atomic

/-! ### Machine/Control.lean -/

theorem Canonical.bodyB {f : FInstr} (h : Canonical s) : (bodyB th f s).Canonical := by
  unfold Machine.bodyB
  exact h.modThread

theorem Canonical.bodyJr {f : FInstr} (h : Canonical s) : (bodyJr th f s).Canonical := by
  unfold Machine.bodyJr
  exact h.modThread

theorem Canonical.callTo {target : Thread → BitVec 24} {f : FInstr} (h : Canonical s) : (callTo th target f s).Canonical := by
  unfold Machine.callTo
  exact .ite h h.modThread

theorem Canonical.bodyCall {f : FInstr} (h : Canonical s) : (bodyCall th f s).Canonical := by
  unfold Machine.bodyCall
  exact h.callTo

theorem Canonical.bodyCallr {f : FInstr} (h : Canonical s) : (bodyCallr th f s).Canonical := by
  unfold Machine.bodyCallr
  exact h.callTo

theorem Canonical.popEntry {x : State × Word} (h : Canonical s) (hx : s.popEntry th = some x) : Canonical x.1 := by
  unfold State.popEntry at hx
  dsimp only at hx
  split at hx
  · cases hx; exact h
  · cases hx; exact h.count
  · cases hx

theorem Canonical.bodyRet {f : FInstr} (h : Canonical s) : (bodyRet th f s).Canonical := by
  unfold Machine.bodyRet
  refine .ite h ?_
  split
  · exact h
  · next e => exact (h.popEntry e).modThread

theorem Canonical.bodyRetx {f : FInstr} (h : Canonical s) : (bodyRetx th f s).Canonical := by
  unfold Machine.bodyRetx
  refine .ite h ?_
  split
  · exact h
  · next e => exact .ite (h.popEntry e) (h.popEntry e).modThread

theorem Canonical.bodyMfc {f : FInstr} (h : Canonical s) : (bodyMfc th f s).Canonical := by
  unfold Machine.bodyMfc
  exact h.modThread

theorem Canonical.bodyMtc {f : FInstr} (h : Canonical s) : (bodyMtc th f s).Canonical := by
  unfold Machine.bodyMtc
  exact h.modThread

theorem Canonical.commitCore (h : Canonical s) : Canonical (s.commitCore g c) :=
  .ite (.modCore (.ite h (.ite h.modCore h.orReg))) (.ite h (.ite h.modCore h.orReg))

theorem Canonical.bodySync {f : FInstr} (h : Canonical s) : (bodySync th f s).Canonical := by
  unfold Machine.bodySync
  exact .ite h h.commitCore.modThread.modThread

theorem Canonical.bodyTrap {x0 : Nat} {x9 : FInstr} (h : Canonical s) : (bodyTrap x0 x9 s).Canonical := by
  unfold Machine.bodyTrap
  exact h

theorem Canonical.doneReset (h : Canonical s) : Canonical (s.doneReset th) := h.modThread

theorem Canonical.doneLast {d : Desc} {emits : List Emit} {size : Nat} (h : Canonical s) :
    Canonical (s.doneLast th d emits size) :=
  .freeEntry (.ite h.complete.modThread.modThread h.complete.modThread.packetStart)

theorem Canonical.doneFinal {d : Desc} {words : List Word} {size : Nat} (h : Canonical s) :
    (s.doneFinal th d words size).Canonical := by
  unfold State.doneFinal
  exact .ite h.doneLast h

theorem Canonical.bodyDone {f : FInstr} (h : Canonical s) : (bodyDone th f s).Canonical := by
  unfold Machine.bodyDone
  dsimp only
  split
  · exact .ite h (.ite h.modThread.pool h.modThread)
  refine .ite h (.ite h.doneReset (.ite h.doneFinal ?_))
  split
  · exact h.doneReset
  · exact h.doneReset
  · exact h.loadAttempt
  · next hl => exact (h.loadWord_eccu hl).doneReset
  · next hl =>
    have h1 := h.loadWord_word hl
    exact .ite h1.doneReset (.ite h1.doneFinal h1.modThread)

/-! ### Machine/Units.lean -/

theorem Canonical.bodyLock {f : FInstr} (h : Canonical s) : (bodyLock th f s).Canonical := by
  unfold Machine.bodyLock
  exact .ite h (.ite h.setLock.modThread h.setLock.modThread)

theorem Canonical.bodyTryl {f : FInstr} (h : Canonical s) : (bodyTryl th f s).Canonical := by
  unfold Machine.bodyTryl
  exact .modThread (.ite h.setLock h)

theorem Canonical.bodyUnlk {f : FInstr} (h : Canonical s) : (bodyUnlk th f s).Canonical := by
  unfold Machine.bodyUnlk
  exact .ite h (.ite h h.releaseLock.modThread)

theorem Canonical.bodyWaite {f : FInstr} (h : Canonical s) : (bodyWaite th f s).Canonical := by
  unfold Machine.bodyWaite
  exact h.modThread

theorem Canonical.bodySige {f : FInstr} (h : Canonical s) : (bodySige th f s).Canonical := by
  unfold Machine.bodySige
  exact .ite h h.setFlag.modThread

theorem Canonical.bodyClre {f : FInstr} (h : Canonical s) : (bodyClre th f s).Canonical := by
  unfold Machine.bodyClre
  exact h.setFlag.modThread

theorem Canonical.bodySend {f : FInstr} (h : Canonical s) : (bodySend th f s).Canonical := by
  unfold Machine.bodySend
  exact .ite h (.ite h (.ite h.modThread (.ite h.setChan.modThread h.modThread.setChan.settle)))

theorem Canonical.bodyRecv {f : FInstr} (h : Canonical s) : (bodyRecv th f s).Canonical := by
  unfold Machine.bodyRecv
  dsimp only
  split
  · refine .ite h ?_
    split
    · exact h.takeWord.modThread.settle
    · exact h.modThread
  · split
    · exact h.takeWord.modThread.settle
    · exact h.setChan.modThread

theorem Canonical.askHelper {x : Helper} {reg : Nat} {d : Desc} {v : HelperAns} {size : Nat} (h : Canonical s) :
    Canonical (s.askHelper th x reg d v size) := by
  refine .modThread (.modGrove (h.foldl fun _ _ h1 => h1.pktCheck) ?_)
  cases x <;> rfl

theorem Canonical.helperStep {hp : Helper} {f : FInstr} {ans : Desc → Thread → Option HelperAns} (h : Canonical s) :
    (helperStep th hp f s ans).Canonical := by
  unfold Machine.helperStep
  refine .ite h ?_
  split
  · exact h
  · split
    · exact h
    · exact h.askHelper

theorem Canonical.bodyParse {f : FInstr} (h : Canonical s) : (bodyParse th f s).Canonical := by
  unfold Machine.bodyParse
  exact h.helperStep

theorem Canonical.bodyCrcf {f : FInstr} (h : Canonical s) : (bodyCrcf th f s).Canonical := by
  unfold Machine.bodyCrcf
  exact h.helperStep

theorem Canonical.bodyCsum {f : FInstr} (h : Canonical s) : (bodyCsum th f s).Canonical := by
  unfold Machine.bodyCsum
  exact h.helperStep

theorem Canonical.bodyTscf {f : FInstr} (h : Canonical s) : (bodyTscf th f s).Canonical := by
  unfold Machine.bodyTscf
  exact h.helperStep

theorem Canonical.bodyLkup {f : FInstr} (h : Canonical s) : (bodyLkup th f s).Canonical := by
  unfold Machine.bodyLkup
  exact .ite h h.push.modThread

theorem Canonical.xErr {b : Nat} (h : Canonical s) : Canonical (s.xErr th b) := h.setReg

theorem Canonical.bodyXop {f : FInstr} (h : Canonical s) : (bodyXop th f s).Canonical := by
  unfold Machine.bodyXop
  exact .ite h.xErr h.modGrove.count.modThread

/-! ### Machine/ThreadOps.lean -/

theorem Canonical.startThread (h : Canonical s) : Canonical (s.startThread th) := .ite h.setThread h

theorem Canonical.parkThread (h : Canonical s) : Canonical (s.parkThread th) := .ite h.setThread.parkCheck h

theorem Canonical.writeThpc {d : BitVec 32} (h : Canonical s) : Canonical (s.writeThpc th d) := .ite h.setReg h

theorem Canonical.requestService (h : Canonical s) : Canonical (s.requestService g c) := .ite h h.setCore.setReg

theorem Canonical.requestMaint (h : Canonical s) : Canonical (s.requestMaint g c) :=
  .ite h.setCore.setReg (.ite h.setCore.setReg h)

theorem Canonical.groveService (h : Canonical s) : Canonical (s.groveService g) := .ite h h.same.modGrove

theorem Canonical.enterService (h : Canonical s) : Canonical (s.enterService g c) :=
  .pool (h.groveService.modCore.foldl fun _ _ h4 => .ite h4.modThread h4)

theorem Canonical.cutThread (h : Canonical s) : Canonical (s.cutThread th) := h.cancelWait.giveUp.modThread

theorem Canonical.enterMaint (h : Canonical s) : Canonical (s.enterMaint g c) :=
  .ite (h.modCore.foldl fun _ _ h3 => .ite h3.cutThread h3) (.modGrove (h.modCore.foldl fun _ _ h3 => .ite h3.cutThread h3))

theorem Canonical.writeSlottab {d : BitVec 32} (h : Canonical s) : Canonical (s.writeSlottab g c k d) := h.setReg.modCore

theorem Canonical.writeBankmap {d : BitVec 32} (h : Canonical s) : Canonical (s.writeBankmap g c k d) := h.setReg.modCore

theorem Canonical.coresync {d : BitVec 32} (h : Canonical s) : Canonical (s.coresync g c d) :=
  .foldl (.ite h.commitCore h) fun _ _ h2 => .ite h2.modThread h2

theorem Canonical.iraise {d : BitVec 32} (h : Canonical s) : Canonical (s.iraise th d) := h.modThread

theorem Canonical.ipendClear {d : BitVec 32} (h : Canonical s) : Canonical (s.ipendClear th d) := h.modThread

theorem Canonical.nmiRaise {d : BitVec 32} (h : Canonical s) : Canonical (s.nmiRaise g d) := .ite h.modThread h

theorem Canonical.writeRecov {d : BitVec 32} (h : Canonical s) : Canonical (s.writeRecov g d) := .ite h h.setReg

theorem Canonical.release {act : Bool} (h : Canonical s) : Canonical (s.release g th act) :=
  .ite h (.ite h.modGrove.setThread
    (.ite h.modGrove.setThread.setReg.modThread.giveUp.pool h.modGrove.setThread.setReg.modThread))

theorem Canonical.kick (h : Canonical s) : Canonical (s.kick g) := h.modGrove

theorem Canonical.haltThread (h : Canonical s) : Canonical (s.haltThread th) := h.modThread

theorem Canonical.resumeThread (h : Canonical s) : Canonical (s.resumeThread th) := h.modThread

theorem Canonical.stepThread {stepirq : Bool} (h : Canonical s) : Canonical (s.stepThread th stepirq) := h.modThread

theorem Canonical.abortStaging (h : Canonical s) : Canonical (s.abortStaging th) := h.modThread

theorem Canonical.dbgcmd {d : BitVec 32} (h : Canonical s) : Canonical (s.dbgcmd th d) := by
  unfold State.dbgcmd
  extract_lets u v w
  have h1 : Canonical u := .ite h.abortStaging h
  have h2 : Canonical v := .ite h1.stepThread h1
  have h3 : Canonical w := .ite h2.resumeThread h2
  exact .ite h3.haltThread h3

theorem Canonical.dbghalt {d : BitVec 32} (h : Canonical s) : Canonical (s.dbghalt g c d) :=
  h.foldl fun _ _ h1 => .ite (.ite (.haltThread (.ite h1.resumeThread h1)) (.ite h1.resumeThread h1)) h1

theorem Canonical.dbgCapture (h : Canonical s) : Canonical (s.dbgCapture th r).2 := by
  unfold State.dbgCapture
  split
  · exact h
  · exact h.count
  · exact h.fresh.eccEvent

theorem Canonical.dbgsel {d : BitVec 32} (h : Canonical s) : Canonical (s.dbgsel g c d) :=
  .ite h.setReg.dbgCapture.modCore h.setReg.modCore.orReg

theorem Canonical.dbgCommit {d : BitVec 32} (h : Canonical s) : Canonical (s.dbgCommit g c d) :=
  .ite h.modCore.modThread h.modCore.orReg

/-! ### Machine/CoreEvents.lean -/

theorem Canonical.dueConsume {x0 : Due} (h : Canonical s) : Canonical (Due.consume s th x0) := by
  unfold Due.consume
  split
  · exact h.modThread
  · exact h.modGrove
  · exact h.modGrove
  · exact h.modGrove
  · exact h.modThread
  · exact h.modThread
  · exact h

theorem Canonical.takeDue {d : Due} (h : Canonical s) : Canonical (s.takeDue th d) :=
  .ite h.cancelWait.modThread.enter h.cancelWait.modThread.enter.dueConsume

theorem Canonical.boundaryEntry (h : Canonical s) : Canonical (s.boundaryEntry th) := by
  unfold State.boundaryEntry
  refine .ite ?_ h
  split
  · exact .ite h h.openCycle.takeDue.coreTick
  · split
    · exact h
    · exact h.openCycle.fetchEcc.modThread.enter.coreTick

theorem Canonical.failLoad {cause : Nat} {bad : Option (BitVec 40)} (h : Canonical s) : Canonical (s.failLoad th cause bad) :=
    by
  unfold State.failLoad
  split
  · exact h
  · exact .ite h.modThread.enter h.modThread

theorem Canonical.helperResult (h : Canonical s) : Canonical (s.helperResult th) := by
  unfold State.helperResult
  extract_lets _ v found
  have hv : ∀ x ∈ found, x.2.scratch = v.scratch := by
    intro x hx
    dsimp only [found] at hx
    split at hx
    · cases hx; rfl
    split at hx
    · cases hx; rfl
    · obtain ⟨y, -, rfl⟩ := Option.map_eq_some_iff.1 hx
      rfl
  split
  · next hf _ =>
    have h1 := h.setGrove (g := thG th) (hv _ hf ▸ h.scratch_wf)
    split
    · exact h1.modThread
    · exact h1.failLoad
    · exact h
  · exact h

/-! ### Machine/Trunk.lean -/

theorem Canonical.modTrunk {f : Trunk → Trunk} (h : Canonical s) : Canonical (s.modTrunk f) := h.same

theorem Canonical.allocCell {x : Nat × State} (h : Canonical s) (hx : s.allocCell p = some x) : Canonical x.2 := by
  unfold State.allocCell at hx
  split at hx
  · cases hx
  · cases hx; exact h.fresh.modTrunk.modPort

theorem Canonical.freeCells {cells : List Nat} (h : Canonical s) : Canonical (s.freeCells p cells) := h.modTrunk.modPort

theorem Canonical.inflDown (h : Canonical s) : Canonical (s.inflDown p) := h.modPort

theorem Canonical.releasePkt {cell : Nat} (h : Canonical s) : Canonical (s.releasePkt cell) := by
  unfold State.releasePkt
  split
  · exact h
  · exact h.modTrunk.freeCells

theorem Canonical.dropRecord {k : Packet} {dom seq reason eport : Nat} (h : Canonical s) :
    Canonical (s.dropRecord k dom seq reason eport) :=
  .ite h.sendRec h

theorem Canonical.idisc {cls : Option Nat} {reason ring syms : Nat} {its : Word} (h : Canonical s) :
    Canonical (s.idisc p cls reason ring syms its) :=
  .ite h.modPort.fresh.sendRec h.modPort.fresh

theorem Canonical.discardFrame {f : Frame} {reason : Nat} {cls : Option Nat} {syms : Nat} {ended : Bool} (h : Canonical s) :
    Canonical (s.discardFrame p f reason cls syms ended) :=
  .modPort (.idisc (.ite h.freeCells.countAt h.freeCells.countAt.inflDown))

theorem Canonical.bufWord {f : Frame} {w : Word} {x : Frame × State} (h : Canonical s) (hx : s.bufWord p f w = some x) :
    Canonical x.2 := by
  unfold State.bufWord at hx
  dsimp only at hx
  split at hx
  · split at hx
    · cases hx
    · next hc => cases hx; exact (h.allocCell hc).modTrunk
  · cases hx; exact h.modTrunk

theorem Canonical.appendWord {f : Frame} {w : Word} (h : Canonical s) : Canonical (s.appendWord p f w) := by
  unfold State.appendWord
  refine .ite h.discardFrame ?_
  split
  · exact h.discardFrame
  · next hb => exact (h.bufWord hb).modPort

theorem Canonical.ingressWord {w its : Word} {live : Bool} (h : Canonical s) : Canonical (s.ingressWord p w its live) := by
  unfold State.ingressWord
  dsimp only
  split
  · exact .ite h h.appendWord
  · exact .ite h.appendWord h.modPort

theorem Canonical.endGood {f : Frame} {len cls : Nat} {err : Bool} (h : Canonical s) : Canonical (s.endGood p f len cls err) :=
  .ite (.modPort (.ite h.freeCells h.freeCells.inflDown)) (.ite h.discardFrame h.freeCells.modTrunk.modPort.countAt)

theorem Canonical.endByK {f : Frame} {cls : Nat} {err : Bool} (h : Canonical s) : Canonical (s.endByK p f cls err) :=
  h.endGood

theorem Canonical.endFrame {m : IngressMsg} (h : Canonical s) : Canonical (s.endFrame p m) := by
  unfold State.endFrame
  split
  · exact h
  refine .ite h.modPort ?_
  split
  · exact h
  · exact h.endByK
  · refine .ite h.discardFrame (.ite (.ite h.endGood ?_) (.ite h.endGood h.endByK))
    split
    · exact h.discardFrame
    · next hb => exact (h.bufWord hb).endGood

theorem Canonical.assign (h : Canonical s) : Canonical (s.assign) := by
  unfold State.assign
  split
  · exact h
  · refine .ite h ?_
    split
    · exact h.modTrunk
    · exact h.fresh.modTrunk

theorem Canonical.issueDescs {l : List Nat} (h : Canonical s) : Canonical (s.issueDescs n l) := by
  induction n generalizing s l with
  | zero => exact h
  | succ n ih =>
    rw [State.issueDescs]
    split
    · exact h
    split
    · exact ih h.modTrunk.push
    · exact h

theorem Canonical.releaseLost (h : Canonical s) : Canonical (s.releaseLost) := .modTrunk (h.foldl fun _ _ h1 => h1.releasePkt)

theorem Canonical.acceptComp {c : Completion} (h : Canonical s) : Canonical (s.acceptComp c) := by
  unfold State.acceptComp
  split
  · exact .ite h.modTrunk h.releasePkt.count
  · exact h.releasePkt.count

theorem Canonical.wakeCq (h : Canonical s) : Canonical (s.wakeCq g) := h.foldl fun _ _ h1 => h1.modThread

theorem Canonical.laneDeliver (h : Canonical s) : Canonical (s.laneDeliver g) := .ite h.modGrove h

theorem Canonical.acceptEntry (h : Canonical s) : Canonical (s.acceptEntry g) := by
  unfold State.acceptEntry
  split
  · exact h
  · exact .ite h (.ite h.modGrove.wakeCq.acceptComp h.modGrove.wakeCq)

theorem Canonical.copyLeft {cell : Nat} (h : Canonical s) : Canonical (s.copyLeft cell) := by
  unfold State.copyLeft
  split
  · exact h
  · exact .ite h.releasePkt h.modTrunk

theorem Canonical.enqueue {k : Packet} {cell dom seq : Nat} {e : Emit} (h : Canonical s) :
    Canonical (s.enqueue k cell dom seq e) :=
  .ite h.count.dropRecord (.ite h.count.dropRecord (.ite h.count.count.dropRecord h.count.modPort.modTrunk))

theorem Canonical.leaveSlot {tag : Nat} {sl : Slot} (h : Canonical s) : Canonical (s.leaveSlot tag sl) := by
  unfold State.leaveSlot
  dsimp only
  split
  · exact h.modTrunk.count.inflDown
  · exact h.modTrunk.count

theorem Canonical.retire {tag : Nat} {sl : Slot} {emits : List Emit} (h : Canonical s) : Canonical (s.retire tag sl emits) := by
  unfold State.retire
  extract_lets u
  have h1 : Canonical u := h.leaveSlot
  split
  · exact h1
  split
  · exact h1.count.dropRecord.releasePkt
  · extract_lets w
    have h2 : Canonical w := h1.foldl fun _ _ h2 => h2.enqueue
    split
    · exact .ite h2.releasePkt h2
    · exact h2

theorem Canonical.retireLate {tag : Nat} {sl : Slot} (h : Canonical s) : Canonical (s.retireLate tag sl) := by
  unfold State.retireLate
  refine .event ?_
  split
  · exact h.leaveSlot.count.count.modTrunk.dropRecord
  · exact h.leaveSlot.count.count.modTrunk

theorem Canonical.retireDom {late : Option Nat} {d : Nat} (h : Canonical s) : Canonical (s.retireDom late d n).1 := by
  induction n generalizing s with
  | zero => exact h
  | succ n ih =>
    rw [State.retireDom]
    split
    · split
      · exact ih h.retire
      · split
        · exact ih h.retireLate
        · exact h
    · exact h

theorem Canonical.retireFrom {late : Option Nat} {l : List Nat} (h : Canonical s) : Canonical (s.retireFrom late l n) := by
  induction l generalizing s n with
  | nil => exact h
  | cons d ds ih => exact .ite h (ih (.ite h.retireDom.modTrunk h.retireDom))

theorem Canonical.retireCycle {late : Option Nat} (h : Canonical s) : Canonical (s.retireCycle late) := h.retireFrom

theorem Canonical.trunkTurn {u : State} (h : Canonical s) (hu : s.trunkTurn = some u) : Canonical u := by
  unfold State.trunkTurn at hu
  split at hu
  · cases hu; exact h.beatOn
  · cases hu

theorem Canonical.retirement (h : Canonical s) : Canonical s.retirement := by
  unfold State.retirement
  split
  · next hu => exact (h.trunkTurn hu).retireCycle
  · exact h

theorem Canonical.holTimeout {d : Nat} (h : Canonical s) : Canonical (s.holTimeout d) := by
  unfold State.holTimeout
  split
  · next hu => exact .ite (h.trunkTurn hu).retireCycle h
  · exact h

theorem Canonical.writeBufcfg {d : BitVec 32} {image : Bool} (h : Canonical s) : Canonical (s.writeBufcfg p d image) :=
  .ite h.orReg h.setReg

theorem Canonical.writeMaxlen {d : BitVec 32} (h : Canonical s) : Canonical (s.writeMaxlen p d) := by
  unfold State.writeMaxlen
  dsimp only
  split
  · exact .ite h.setReg.discardFrame h.setReg
  · exact h.setReg

theorem Canonical.writeDommap {hp : Nat} {d : BitVec 32} (h : Canonical s) : Canonical (s.writeDommap p hp d) := h.setReg

theorem Canonical.writeShare {off : Nat} {d : BitVec 32} {image : Bool} (h : Canonical s) :
    Canonical (s.writeShare g off d image) :=
  .ite h.orReg h.setReg

theorem Canonical.dabandon {d : BitVec 32} (h : Canonical s) : Canonical (s.dabandon g d) := .ite h.giveUp h

theorem Canonical.readInfpeak (h : Canonical s) : Canonical (s.readInfpeak) := h.modTrunk

/-! ### Machine/Delivery.lean -/

theorem Canonical.placeCopy {e : SbEntry} {last : Bool} (h : Canonical s) : Canonical (s.placeCopy th e last) :=
  .ite h.modThread h.addEntry.modThread

theorem Canonical.deliverWord {o : Outst} {w : Word} (h : Canonical s) : Canonical (s.deliverWord th o w) := by
  unfold State.deliverWord
  dsimp only
  split
  · exact h.modThread
  · exact h.modThread
  · exact h.modThread
  · exact .ite h.modThread h.modThread
  · exact .ite h.modThread.placeCopy h.modThread

theorem Canonical.deliver {o : Outst} {a : Answer} (h : Canonical s) : Canonical (s.deliver th o a) := by
  unfold State.deliver
  split
  · exact h.deliverWord
  · exact h.failLoad
  · exact h.failLoad

theorem Canonical.dropRequest {write : Bool} (h : Canonical s) : Canonical (s.dropRequest th write) := by
  unfold State.dropRequest
  dsimp only
  split
  · exact h.setLink
  · split
    · exact h.setLink
    · split
      · exact h.setLink
      · exact h

theorem Canonical.loadTimeout (h : Canonical s) : Canonical (s.loadTimeout th) := by
  unfold State.loadTimeout
  split
  · exact .ite (.failLoad (.ite h.dropRequest h)) h
  · exact h

theorem Canonical.sbWake (h : Canonical s) : Canonical (s.sbWake th) := by
  unfold State.sbWake
  dsimp only
  split
  · exact h.placeCopy
  · exact .ite h.modThread h

theorem Canonical.dropHead (h : Canonical s) : Canonical (s.dropHead th) := h.modThread.sbWake

theorem Canonical.markHead {acc : Bool} (h : Canonical s) : Canonical (s.markHead th acc) := h.modThread

theorem Canonical.sendEntry {e : SbEntry} (h : Canonical s) : Canonical (s.sendEntry th e) := by
  unfold State.sendEntry
  split
  · exact h.writePort.dropHead
  · split
    · exact h.markHead.push
    · exact h.markHead
  · exact h.markHead.memSend
  · exact h.markHead

theorem Canonical.collide {tha thb : Nat} {e : SbEntry} {phys : Nat} (h : Canonical s) : Canonical (s.collide tha thb e phys) :=
  h.storeSpad.dropHead.dropHead.orReg

theorem Canonical.drain {other : Option Nat} (h : Canonical s) : Canonical (s.drain th other) := by
  unfold State.drain
  split
  · exact h
  · split
    · exact h.sendEntry
    · refine .ite h.sendEntry ?_
      split
      · exact h.sendEntry
      · split
        · exact .ite h.collide h.sendEntry.sendEntry
        · exact .ite h.collide h.sendEntry.sendEntry
        · exact h.sendEntry.sendEntry

theorem Canonical.discardStore (h : Canonical s) : Canonical (s.discardStore th) := by
  unfold State.discardStore
  split
  · exact h
  · exact h.count.event.dropHead

theorem Canonical.storeTimeout (h : Canonical s) : Canonical (s.storeTimeout th) := by
  unfold State.storeTimeout
  split
  · refine .ite ?_ h
    refine .discardStore ?_
    split
    · exact h.dropRequest
    · exact h
  · exact h

theorem Canonical.ackStore (h : Canonical s) : Canonical (s.ackStore th) := h.modThread

theorem Canonical.servePacketRead {r : PwReq} (h : Canonical s) : Canonical (s.servePacketRead r) := by
  unfold State.servePacketRead
  dsimp only
  split
  · exact .ite h.pktCheck.answer h.pktCheck
  · exact h.pktCheck

theorem Canonical.servePacketWrite {r : PwReq} (h : Canonical s) : Canonical (s.servePacketWrite r) :=
  .ackStore (.ite h (.modTrunk (.ite h.pktCheck h)))

theorem Canonical.servePacket (h : Canonical s) : Canonical (s.servePacket g) := by
  unfold State.servePacket
  split
  · exact .ite h (.ite h.popLink.servePacketWrite h.popLink.servePacketRead)
  · exact h

/-! ### Machine/Ports.lean -/

theorem Canonical.leaveCycle (h : Canonical s) : Canonical (s.leaveCycle p e) := h.modPort

theorem Canonical.ringAttach (h : Canonical s) : Canonical (s.ringAttach r) := .ite h h.setRing

theorem Canonical.ringsAttach (h : Canonical s) : Canonical (s.ringsAttach) := h.foldl fun _ _ h1 => h1.ringAttach

theorem Canonical.writeHold {v : BitVec 8} (h : Canonical s) : Canonical (s.writeHold p v) := h.modPort

theorem Canonical.pauseExpire (h : Canonical s) : Canonical (s.pauseExpire p c) := by
  unfold State.pauseExpire
  dsimp only
  split
  · exact .ite h.setPort.count h
  · exact h

theorem Canonical.obsClose (h : Canonical s) : Canonical (s.obsClose p) := h.modPort

theorem Canonical.engError {code : Nat} (h : Canonical s) : Canonical (s.engError p e code) := h.modEng.orReg.modPort

theorem Canonical.autoStart (h : Canonical s) : Canonical (s.autoStart p e) := .ite h (.ite h.modEng.engError h.modEng)

theorem Canonical.linkLate (h : Canonical s) : Canonical (s.linkLate p) := h.setLink

theorem Canonical.setPortSt {st : PortSt} (h : Canonical s) : Canonical (s.setPortSt p st) := by
  unfold State.setPortSt
  refine .ringsAttach ?_
  split
  · exact .modPort (h.modPort.foldl fun _ _ h4 => h4.modEng)
  · exact h.modPort.foldl fun _ _ h5 => h5.autoStart
  · exact h.modPort.modPort.linkLate
  · exact h.modPort

theorem Canonical.writePortctl {d : BitVec 32} (h : Canonical s) : Canonical (s.writePortctl p d) := by
  unfold State.writePortctl
  dsimp only
  split
  · exact h.setReg.setPortSt
  · exact h.setReg.modPort
  · exact h.setReg.setPortSt
  · exact h.setReg.setPortSt
  · exact h.setReg.modPort
  · exact h.setReg

theorem Canonical.portUp (h : Canonical s) : Canonical (s.portUp p) := .ite h.setPortSt h

theorem Canonical.drainFlush (h : Canonical s) : Canonical (s.drainFlush p) := by
  unfold State.drainFlush
  refine .ite ?_ h
  refine .foldl h.setPort.count fun _ _ h3 => ?_
  refine .copyLeft ?_
  split
  · exact h3.dropRecord
  · exact h3

theorem Canonical.drainComplete (h : Canonical s) : Canonical (s.drainComplete p) :=
  .ite (.ite h.setPort.setPortSt h.setPortSt) h

theorem Canonical.gateEval (h : Canonical s) : Canonical (s.gateEval p) := .ite h h.fresh.modPort

theorem Canonical.gateErr (h : Canonical s) : Canonical (s.gateErr p) := h.orReg

theorem Canonical.writeGate {off : Nat} {d : BitVec 32} {image : Bool} (h : Canonical s) :
    Canonical (s.writeGate off d image) := by
  unfold State.writeGate
  refine .ite h.gateErr ?_
  split <;> exact h.setPort

theorem Canonical.glswap {d : BitVec 32} (h : Canonical s) : Canonical (s.glswap d) := .ite h.gateErr (.ite h h.setPort)

theorem Canonical.gateSwap (h : Canonical s) : Canonical (s.gateSwap p) := by
  unfold State.gateSwap
  dsimp only
  split
  · exact .ite h.setPort.gateEval h
  · exact h

theorem Canonical.drrTurns {elig : Nat → Bool} (h : Canonical s) : Canonical (s.drrTurns p elig n).1 := by
  induction n generalizing s with
  | zero => exact h
  | succ n ih =>
    rw [State.drrTurns]
    dsimp only
    split
    · exact h
    split
    · exact h.setPort
    · exact ih h.setPort

theorem Canonical.pickClass (h : Canonical s) : Canonical (s.pickClass p).1 := by
  unfold State.pickClass
  dsimp only
  split
  · exact h
  split
  · exact h
  · exact h.modPort.drrTurns

theorem Canonical.dequeue {charge : Nat} (h : Canonical s) : Canonical (s.dequeue p c charge) := h.modPort

theorem Canonical.discardHead {reason ctr : Nat} {k : Copy} (h : Canonical s) : Canonical (s.discardHead p c reason ctr k) := by
  unfold State.discardHead
  refine .copyLeft ?_
  split
  · exact h.dequeue.count.dropRecord
  · exact h.dequeue.count

theorem Canonical.discardHeads (h : Canonical s) : Canonical (s.discardHeads p c n) := by
  induction n generalizing s with
  | zero => exact h
  | succ n ih =>
    rw [State.discardHeads]
    split
    · exact h
    · exact .ite (ih h.count.modPort) (.ite (ih h.fresh.discardHead.eccEvent) (.ite (ih h.discardHead) h))

theorem Canonical.copySelect (h : Canonical s) : Canonical (s.copySelect p) := by
  unfold State.copySelect
  refine .ite h ?_
  extract_lets u
  have h1 : Canonical u := h.foldl fun _ _ h1 => h1.discardHeads
  have h2 : Canonical (u.pickClass p).1 := h1.pickClass
  split
  · next e => rwa [e] at h2
  · next e =>
    rw [e] at h2
    split
    · exact h2
    · exact h2.dequeue.modPort

theorem Canonical.copyDeliver (h : Canonical s) : Canonical (s.copyDeliver p) := by
  unfold State.copyDeliver
  split
  · exact .ite h.modPort h
  · exact h

theorem Canonical.stampCopy {k : Copy} (h : Canonical s) : Canonical (s.stampCopy p k) := by
  unfold State.stampCopy
  extract_lets _ u v
  have h1 : Canonical u := h.modPort
  have h2 : Canonical v := .ite h1 (.ite h1.orReg h1.modPort)
  exact .ite h2.sendRec h2

theorem Canonical.popEts (h : Canonical s) : Canonical (s.popEts p).1 := h.setPort

theorem Canonical.copyDone {cell : Nat} {ets : Option Word} (h : Canonical s) : Canonical (s.copyDone p cell ets) :=
  h.modPort.countAt.copyLeft

theorem Canonical.trkr {x : Word × State} (h : Canonical s) (hx : s.trkr p = some x) : Canonical x.2 := by
  unfold State.trkr at hx
  split at hx
  · cases hx
  split at hx
  · cases hx; exact h.modPort
  split at hx
  · cases hx
  next o _ _ _ =>
  extract_lets u at hx
  have h1 : Canonical u := .ite h.stampCopy h
  split at hx
  next e =>
  have h2 := h1.freshOf e
  extract_lets _ _ v at hx
  have h3 : Canonical v := by
    refine h2.foldl fun _ _ h3 => ?_
    dsimp only
    split
    · exact h3
    · exact h3.count
    · exact h3.eccEvent
  split at hx
  · cases hx; exact h3.copyDone
  · cases hx; exact h3.modPort

theorem Canonical.present {w : Word} (h : Canonical s) : Canonical (s.present p w) := h.modPort

theorem Canonical.transitSent {x : XFrame} (h : Canonical s) : Canonical (s.transitSent p x) :=
  .ite h (.ite h.countAt.countAt.countAt.sendRec h.countAt.countAt.countAt)

theorem Canonical.laneSlot {x : XFrame} {rest : List XFrame} (h : Canonical s) : Canonical (s.laneSlot p x rest) := by
  unfold State.laneSlot
  dsimp only
  split
  · exact h.modPort.transitSent
  · exact h.present.modPort.transitSent
  · exact h.present.modPort

theorem Canonical.txlSlot (h : Canonical s) : Canonical (s.txlSlot p) := by
  unfold State.txlSlot
  split
  · exact h.present.modPort
  · dsimp only
    split
    · exact .ite h.present.modPort.stampCopy h.present.modPort
    · exact h.present.modPort

theorem Canonical.txSlot (h : Canonical s) : Canonical (s.txSlot p) := by
  unfold State.txSlot
  refine .ite h ?_
  refine .ite ?_ ?_
  · split
    · exact .ite h.laneSlot h
    · exact h
  · split
    · exact .ite h.laneSlot h.txlSlot
    · exact h.txlSlot

theorem Canonical.lowerTx (h : Canonical s) : Canonical (s.lowerTx) := h.foldl fun _ _ h1 => .ite h1.modPort h1

/-! ### Machine/Engines.lean -/

/-- The frame of an engine's instruction keeps the maps canonical when its body does. -/
theorem Canonical.runEngine {op : EOp} {body : Engine → BitVec 24 → State → EOut} (h : Canonical s)
    (hb : ∀ x w u, Canonical u → (body x w u).Canonical) : Canonical (s.runEngine p e op body) := by
  unfold State.runEngine
  extract_lets x w _ _ u
  refine .ite h ?_
  have h1 : Canonical u := h.modPort.setEng
  have h2 := hb x w u h1
  refine .leaveCycle (.ite h1.engError ?_)
  split
  · next hw => rw [hw] at h2; exact Canonical.modEng h2
  · next hw => rw [hw] at h2; exact .ite (Canonical.modEng h2) (Canonical.modEng h2).engError

theorem Canonical.consume (h : Canonical s) : Canonical (s.consume p e) := h.modEng

theorem Canonical.kFlags {v : Word} (h : Canonical s) : Canonical (s.kFlags p e v) := h.modEng

theorem Canonical.drivePins {mask vals : BitVec 4} (h : Canonical s) : Canonical (s.drivePins p e mask vals) := h.modPort

theorem Canonical.driveOe {mask vals : BitVec 4} (h : Canonical s) : Canonical (s.driveOe p e mask vals) := .ite h h.modPort

theorem Canonical.writeLink {v : Bool} (h : Canonical s) : Canonical (s.writeLink p v) := h.modPort

theorem Canonical.landsOver {was : Option Nat} {undo write : State → State} (h : Canonical s)
    (hu : ∀ u, Canonical u → Canonical (undo u)) (hw : ∀ u, Canonical u → Canonical (write u)) :
    Canonical (s.landsOver e was undo write) := by
  unfold State.landsOver
  split
  · exact hw s h
  · exact .ite h (hw _ (hu s h))

theorem Canonical.engEgh {v : BitVec 8} (h : Canonical s) : Canonical (s.engEgh p e v) := by
  unfold State.engEgh
  split
  · exact h.writeHold
  · exact .modPort (h.landsOver (fun _ h1 => h1.modPort) fun _ h1 => h1.writeHold)

theorem Canonical.engLink {v : Bool} (h : Canonical s) : Canonical (s.engLink p e v) := by
  unfold State.engLink
  split
  · exact h.writeLink
  · exact .modPort (h.landsOver (fun _ h1 => h1.modPort) fun _ h1 => h1.writeLink)

theorem Canonical.trkWrite {v : Word} {auto : Bool} (h : Canonical s) : Canonical (s.trkWrite p e v auto) :=
  .ite (.modPort (.push (.modPort (.push (.ite h.modEng h))))) (.modPort (.push (.ite h.modEng h)))

theorem Canonical.trkEnd {v : BitVec 10} (h : Canonical s) : Canonical (s.trkEnd p e v) := .ite h h.push.modPort

theorem Canonical.movWrite {code : Nat} {v : Word} (h : Canonical s) : Canonical (s.movWrite p e code v) := by
  unfold State.movWrite
  split
  · exact h.modEng
  · exact h.modEng
  · exact h.modEng
  · exact h.modEng
  · exact h.modEng
  · exact h.modPort
  · exact h.trkWrite
  · exact h.trkWrite
  · exact h.trkEnd
  · exact h.drivePins
  · exact h.driveOe
  · exact h.engEgh
  · exact h.engLink
  · exact h

theorem Canonical.engMov {x : Engine} {w : BitVec 24} (h : Canonical s) : (engMov p e x w s).Canonical := by
  unfold Machine.engMov
  refine .ite h (.ite ?_ ?_)
  · split
    · exact h
    · next hx => exact (h.trkr hx).kFlags.movWrite
  · exact .movWrite (.ite h.consume.kFlags h)

theorem Canonical.engShin {x : Engine} {w : BitVec 24} (h : Canonical s) : (engShin p e x w s).Canonical := by
  unfold Machine.engShin
  dsimp only
  split
  · exact h.modEng
  · exact h.consume.kFlags.modEng
  · exact h.modEng

theorem Canonical.engShout {x : Engine} {w : BitVec 24} (h : Canonical s) : (engShout p e x w s).Canonical := by
  unfold Machine.engShout
  dsimp only
  split
  · exact h.drivePins.modEng
  · exact .ite h h.modPort.modEng
  · exact h.modEng

theorem Canonical.engWait {x : Engine} {w : BitVec 24} (h : Canonical s) : (engWait p e x w s).Canonical := by
  unfold Machine.engWait
  dsimp only
  split
  · exact .ite h h
  · exact .ite h.modEng h
  · exact .ite h.modEng h
  · exact .ite h h
  · exact .ite h (.ite h.consume.modEng h.consume)
  · exact .ite h h
  · exact .ite h h
  · exact .ite h h

theorem Canonical.engJmp {x : Engine} {w : BitVec 24} (h : Canonical s) : (engJmp p x w s).Canonical := by
  unfold Machine.engJmp
  exact h

theorem Canonical.engSetp {x : Engine} {w : BitVec 24} (h : Canonical s) : (engSetp p e x w s).Canonical := by
  unfold Machine.engSetp
  exact h.drivePins.driveOe

theorem Canonical.engPush {x : Engine} {w : BitVec 24} (h : Canonical s) : (engPush p e x w s).Canonical := by
  unfold Machine.engPush
  extract_lets u _ v
  have h1 : Canonical v := .modEng (.ite h.orReg h)
  exact .ite h (Canonical.ite h1.push h1)

theorem Canonical.engPull {x : Engine} {w : BitVec 24} (h : Canonical s) : (engPull p e x w s).Canonical := by
  unfold Machine.engPull
  exact .ite (.ite h h) h.modEng

theorem Canonical.engCnt {x : Engine} {w : BitVec 24} (h : Canonical s) : (engCnt p e x w s).Canonical := by
  unfold Machine.engCnt
  exact h.modEng

theorem Canonical.engMark {x : Engine} {w : BitVec 24} (h : Canonical s) : (engMark p e x w s).Canonical := by
  unfold Machine.engMark
  exact h.modEng

theorem Canonical.rxWord {w : Word} (h : Canonical s) : Canonical (s.rxWord p w) :=
  .ite h (.foldl (.modPort (.ite h.orReg h)) fun _ _ h3 => h3.modEng)

theorem Canonical.captureEdge {e : Edge} {rising : Bool} (h : Canonical s) : Canonical (s.captureEdge g k e rising) :=
  .ite h.setTimer h

theorem Canonical.pinEdge {level : Bool} (h : Canonical s) : Canonical (s.pinEdge p k level) := by
  unfold State.pinEdge
  extract_lets u v
  have h1 : Canonical u := h.modPort
  have h2 : Canonical v := h1.foldl fun _ _ h2 => .modEng (.ite h2.orReg h2)
  exact .ite h (.ite h.modPort (.ite h1 (h2.foldl fun _ _ h3 => h3.foldl fun _ _ h4 => .ite h4.captureEdge h4)))

theorem Canonical.engHalt {d : BitVec 32} (h : Canonical s) : Canonical (s.engHalt p e d) :=
  .ite h.setEng (.ite h (.ite h.setEng h.orReg))

theorem Canonical.writeEctl {d : BitVec 32} (h : Canonical s) : Canonical (s.writeEctl p e d) :=
  .ite (.modEng (.ite h.setReg.orReg h.setReg)) (.ite h.setReg.orReg h.setReg)

theorem Canonical.writeEstat {d : BitVec 32} (h : Canonical s) : Canonical (s.writeEstat p e d) :=
  .ite h.setReg.setEng (.ite h.setReg.orReg h.setReg)

theorem Canonical.writeEngCnt {d : BitVec 32} (h : Canonical s) : Canonical (s.writeEngCnt p e d) := .ite h.orReg h.setEng

theorem Canonical.writeShr {w : Word} (h : Canonical s) : Canonical (s.writeShr p e w) := .ite h.orReg h.setEng

theorem Canonical.writeX {w : Word} (h : Canonical s) : Canonical (s.writeX p e w) := .ite h.orReg h.setEng

theorem Canonical.writePullq {w : Word} (h : Canonical s) : Canonical (s.writePullq p e w) := .ite h.orReg h.setEng

theorem Canonical.readPushq (h : Canonical s) : Canonical (s.readPushq p e) := h.modEng

theorem Canonical.writeEngStore {w : Nat} {d : BitVec 32} (h : Canonical s) : Canonical (s.writeEngStore p w d) :=
  .ite h.modPort (h.foldl fun _ _ h1 => h1.orReg)

theorem Canonical.writePecfg {d : BitVec 32} {image : Bool} (h : Canonical s) : Canonical (s.writePecfg p d image) := by
  unfold State.writePecfg
  refine .ite h ?_
  dsimp only
  split
  · exact h.orReg
  · exact h.setReg.modPort

/-! ### Machine/GroveOps.lean -/

theorem Canonical.dmaLoses {bp : Nat} (h : Canonical s) : Canonical (s.dmaLoses g bp) :=
  h.foldl fun _ _ h1 => .ite h1.setDma h1

theorem Canonical.bownErr {b : Nat} (h : Canonical s) : Canonical (s.bownErr g b) := h.orReg

theorem Canonical.wakeBank {bp : Nat} (h : Canonical s) : Canonical (s.wakeBank g bp) := h.foldl fun _ _ h1 => h1.modThread

theorem Canonical.eraseBank {b : Nat} (h : Canonical s) : Canonical (s.eraseBank g b) :=
  h.setGrove (SMap.wf_mclear h.scratch_wf _ _)

theorem Canonical.writeBown {bp : Nat} {d : BitVec 32} {src : Src} (h : Canonical s) : Canonical (s.writeBown g bp d src) := by
  unfold State.writeBown
  extract_lets b old wasOn changed window dmaOut mine u dmaLost v w x y
  have h1 : Canonical u := h.setReg
  have h2 : Canonical v := .ite h1.dmaLoses h1
  have h3 : Canonical w := .ite h2.modGrove h2
  have h4 : Canonical x := .ite h3.modGrove h3
  have h5 : Canonical y := h4.eraseBank.modGrove
  exact .ite h.bownErr (.ite h4 (.ite h4.modGrove (.ite (h5.foldl fun _ _ h6 => h6.wakeBank) h4)))

theorem Canonical.imageBown {bp : Nat} {d : BitVec 32} (h : Canonical s) : Canonical (s.imageBown g bp d) :=
  .ite h.bownErr h.setReg

theorem Canonical.bwInc (h : Canonical s) : Canonical (s.bwInc g) := .ite h.setReg h

theorem Canonical.bwDone (h : Canonical s) : Canonical (s.bwDone g) := h.modGrove

theorem Canonical.bwRead (h : Canonical s) : Canonical (s.bwRead g).1 := by
  unfold State.bwRead
  dsimp only
  split
  · exact h.setReg.bownErr
  · split
    · exact h.setReg.bwInc
    · exact h.bwDone.readSpad.setReg.bwInc

theorem Canonical.bwCommit {d : BitVec 32} (h : Canonical s) : Canonical (s.bwCommit g d) :=
  .ite h.bownErr h.bwDone.writePort.bwInc

theorem Canonical.dmaStop {code : Nat} (h : Canonical s) : Canonical (s.dmaStop g k code) := h.setDma.orReg

theorem Canonical.dmaStart (h : Canonical s) : Canonical (s.dmaStart g k) := .ite h (.ite h.setDma.orReg h.setDma.setStall)

theorem Canonical.dmaStopReq (h : Canonical s) : Canonical (s.dmaStopReq g k) := .ite h (.ite h.setDma h.dmaStop)

theorem Canonical.dmaNext (h : Canonical s) : Canonical (s.dmaNext g k) :=
  .ite (.ite h.setDma.setDma.orReg.setFlag h.setDma.setDma.orReg) (.ite h.setDma.dmaStop h.setDma)

theorem Canonical.dmaWrite {w : Word} (h : Canonical s) : Canonical (s.dmaWrite g k w) := by
  unfold State.dmaWrite
  refine .ite (.ite h.setDma.memSend h.setDma) ?_
  refine .ite h.dmaStop ?_
  refine .ite h ?_
  split
  · exact h.writePort.dmaNext
  · split
    · exact h.dmaStop
    · exact .ite h.setDma (.ite h.setDma h.writePort.dmaNext)

theorem Canonical.dmaWord (h : Canonical s) : Canonical (s.dmaWord g k) := by
  unfold State.dmaWord
  refine .ite h ?_
  split
  · exact h.dmaWrite
  · refine .ite (.ite h.setDma.memSend h) ?_
    split
    · exact h.dmaStop
    · exact .ite h (.ite h.readSpad.dmaStop h.readSpad.dmaWrite)

theorem Canonical.watchStall (h : Canonical s) : Canonical (s.watchStall g) := h.setStall

theorem Canonical.census (h : Canonical s) : Canonical (s.census g) := by
  unfold State.census
  dsimp only
  split
  · exact h
  · exact .ite h h.modGrove.setStall.count.event

theorem Canonical.istoreScrub (h : Canonical s) : Canonical (s.istoreScrub g) := by
  unfold State.istoreScrub
  refine .ite h ?_
  dsimp only
  split
  · exact h.modGrove
  · exact h.modGrove.modGrove.count
  · exact h.modGrove.eccEvent

/-! ### Machine/Lookup.lean -/

theorem Canonical.modLookup {f : Lookup → Lookup} (h : Canonical s) : Canonical (s.modLookup f) := h.same

theorem Canonical.setTbl {v : Table} (h : Canonical s) : Canonical (s.setTbl t v) := h.modLookup

theorem Canonical.modTbl {f : Table → Table} (h : Canonical s) : Canonical (s.modTbl t f) := h.setTbl

theorem Canonical.tblCount (h : Canonical s) : Canonical (s.tblCount t k) := h.count

theorem Canonical.cacheTrim (h : Canonical s) : Canonical (s.cacheTrim) := h.modLookup

theorem Canonical.cacheIn {pos : Nat} (h : Canonical s) : Canonical (s.cacheIn t pos) := .ite h h.modLookup.cacheTrim

theorem Canonical.cacheRead {pos : Nat} (h : Canonical s) : Canonical (s.cacheRead t pos).2 := by
  unfold State.cacheRead
  split
  · exact h
  · dsimp only
    split
    · exact h
    · exact h.modLookup.count
    · exact h.modLookup.count.eccEvent

theorem Canonical.cacheProbe {pos : Nat} (h : Canonical s) : Canonical (s.cacheProbe t pos).2 := by
  unfold State.cacheProbe
  dsimp only
  split
  · exact h.cacheRead.cacheIn
  · exact h.cacheRead

theorem Canonical.countSlot {pos : Nat} {write : Bool} (h : Canonical s) : Canonical (s.countSlot t pos write n) := h.count

theorem Canonical.countTable {write : Bool} (h : Canonical s) : Canonical (s.countTable t write n) :=
  .foldl (h.foldl fun _ _ h3 => h3.count) fun _ _ h2 => h2.countSlot

theorem Canonical.slotReq {pos w : Nat} {write : Bool} {data : Word} {src : MSrc} (h : Canonical s) :
    Canonical (s.slotReq t pos w write data src) :=
  h.memSend

theorem Canonical.slotRead {pos : Nat} {src : MSrc} (h : Canonical s) : Canonical (s.slotRead t pos src) :=
  h.foldl fun _ _ h1 => h1.slotReq

theorem Canonical.filterRow (h : Canonical s) : Canonical (s.filterRow t r).2 := by
  unfold State.filterRow
  dsimp only
  split
  · exact h
  · exact h.modLookup.count
  · exact h.fresh.modLookup.count.modTbl.orReg.eccEvent

theorem Canonical.plfWord {w : Nat} (h : Canonical s) : Canonical (s.plfWord t w) := by
  unfold State.plfWord
  dsimp only
  split
  · exact h
  · exact h.modLookup.count
  · exact h.fresh.modLookup.count.modTbl.orReg.eccEvent

theorem Canonical.plfBit {l : Nat} {k : BitVec 144} (h : Canonical s) : Canonical (s.plfBit t l k).2 := h.plfWord

theorem Canonical.addFilter {e : Entry} (h : Canonical s) : Canonical (s.addFilter t e) := .ite h h.modTbl

theorem Canonical.rebuildFilters (h : Canonical s) : Canonical (s.rebuildFilters t) :=
  h.modTbl.modLookup.foldl fun _ _ h3 => h3.addFilter

theorem Canonical.setCmd {c : Cmd} (h : Canonical s) : Canonical (s.setCmd k c) := h.modLookup

theorem Canonical.modCmd {f : Cmd → Cmd} (h : Canonical s) : Canonical (s.modCmd k f) := h.setCmd

theorem Canonical.hitWait {hp : HitWrite} (h : Canonical s) : Canonical (s.hitWait hp) := h.modLookup

theorem Canonical.hitDone {hp : HitWrite} (h : Canonical s) : Canonical (s.hitDone hp) := by
  unfold State.hitDone
  split
  · exact h.modCmd
  · exact h

theorem Canonical.hitTry {hp : HitWrite} (h : Canonical s) : Canonical (s.hitTry hp) := by
  unfold State.hitTry
  dsimp only
  split
  · exact h.hitDone
  · refine .ite h.hitDone ?_
    refine .ite h.hitWait ?_
    refine .slotReq ?_
    split
    · exact h.modTbl.modCmd
    · exact h.modTbl

theorem Canonical.hitsDrop {gone : HitWrite → Bool} (h : Canonical s) : Canonical (s.hitsDrop t gone) := h.modLookup

theorem Canonical.hitsKick (h : Canonical s) : Canonical (s.hitsKick) := h.modLookup.foldl fun _ _ h1 => h1.hitTry

theorem Canonical.hitUpdate {e : Entry} {cmd : Option Nat} (h : Canonical s) : Canonical (s.hitUpdate t e cmd) :=
  .ite h.hitTry h

theorem Canonical.lpmProbes {key : BitVec 144} {row : BitVec 145} {below : Nat} {above : Option Nat} (h : Canonical s) :
    Canonical (s.lpmProbes t key row below above).2 :=
  foldl_snd h fun _ _ h1 => h1.plfBit

theorem Canonical.setFlight {id : Nat} {v : Lkp} (h : Canonical s) : Canonical (s.setFlight id v) := h.modLookup

theorem Canonical.lkFinish {id : Nat} {v : Lkp} {hit : Option (Nat × Entry)} (h : Canonical s) :
    Canonical (s.lkFinish id v hit) := by
  unfold State.lkFinish
  split
  · exact h.tblCount.setFlight.hitUpdate
  · exact h.setFlight

theorem Canonical.lkRead {id : Nat} {v : Lkp} {l pos : Nat} (h : Canonical s) : Canonical (s.lkRead id v l pos) :=
  h.slotRead.setFlight

theorem Canonical.cacheMiss {pos : Nat} (h : Canonical s) : Canonical (s.cacheMiss t pos) :=
  .ite h.tblCount h.tblCount.modLookup.slotRead

theorem Canonical.lkList {v : Lkp} {below : Nat} (h : Canonical s) : Canonical (s.lkList v below).2 := by
  unfold State.lkList
  dsimp only
  split
  · exact h.filterRow.lpmProbes
  · exact h

theorem Canonical.lkBegin {v : Lkp} (h : Canonical s) : Canonical (s.lkBegin v).2 := h.lkList

theorem Canonical.lkWalk {id : Nat} {v : Lkp} (h : Canonical s) : Canonical (s.lkWalk id n v) := by
  induction n generalizing s v with
  | zero => exact h.setFlight
  | succ n ih =>
    rw [State.lkWalk]
    split
    · split
      · exact ih h.lkList
      · exact .ite (ih h.tblCount.lkBegin) h.lkFinish
    · extract_lets c u
      have h1 : Canonical u := h.cacheProbe
      refine .ite ?_ (.ite (ih h1.cacheMiss) h1.lkRead)
      split
      · exact .ite h1.lkFinish (ih h1)
      · exact ih h1

theorem Canonical.lkAccept {r : LkReq} (h : Canonical s) : Canonical (s.lkAccept r) :=
  .ite h.modLookup.setFlight (.ite h.modLookup.tblCount.setFlight h.modLookup.tblCount.lkBegin.lkWalk)

theorem Canonical.acceptCmd {op table : Nat} {fen : Bool} {flag : Nat} (h : Canonical s) :
    Canonical (s.acceptCmd k op table fen flag) :=
  h.modLookup.modCmd

theorem Canonical.cmdRan {rc : Nat} {plan : List LkWrite} (h : Canonical s) : Canonical (s.cmdRan k rc plan) := h.modCmd

theorem Canonical.applyWrite {w : LkWrite} (h : Canonical s) : Canonical (s.applyWrite t k w) := by
  unfold State.applyWrite
  dsimp only
  split
  · exact h.modTbl.modLookup.addFilter.cacheIn.modCmd.foldl fun _ _ h5 => h5.slotReq
  · refine .slotReq (.modCmd ?_)
    split
    · exact h.modTbl.modLookup.hitsDrop
    · exact h.modTbl.modLookup

theorem Canonical.cmdIssue (h : Canonical s) : Canonical (s.cmdIssue k) := by
  unfold State.cmdIssue
  refine .ite h ?_
  split
  · exact h
  · exact .ite h h.modCmd.applyWrite

theorem Canonical.cmdKick (h : Canonical s) : Canonical (s.cmdKick) := h.hitsKick.foldl fun _ _ h1 => h1.cmdIssue

theorem Canonical.putBack {u : LkUndo} (h : Canonical s) : Canonical (s.putBack t u) := h.modTbl

theorem Canonical.undoWrite {pos : Nat} (h : Canonical s) : Canonical (s.undoWrite k pos) := by
  unfold State.undoWrite
  extract_lets c t u v
  have h1 : Canonical u := h.foldl fun _ _ h1 => .ite h1.putBack (.ite h1.fresh h1.fresh.putBack)
  have h2 : Canonical v := h1.modCmd
  exact .ite h2.rebuildFilters h2

theorem Canonical.cmdMemErr (h : Canonical s) : Canonical (s.cmdMemErr k) := .ite h h.tblCount.cmdRan

theorem Canonical.cmdHas {pos : Nat} (h : Canonical s) : Canonical (s.cmdHas k t pos).2 := by
  unfold State.cmdHas
  split
  · exact h
  · dsimp only
    split
    · exact h.cacheProbe
    · exact h.cacheProbe.cacheIn.countSlot

theorem Canonical.cmdFetch {pos : Nat} (h : Canonical s) : Canonical (s.cmdFetch k t pos) := h.modCmd.slotRead

theorem Canonical.seek {l : Nat} {key : BitVec 144} {ps : List Nat} (h : Canonical s) : Canonical (s.seek k t l key ps).2 := by
  induction ps generalizing s with
  | nil => exact h
  | cons pos rest ih =>
    have h1 : Canonical (s.cmdHas k t pos).2 := h.cmdHas
    rw [State.seek]
    split
    · exact h1
    split
    · split
      · exact h1
      · exact ih h1
    · exact ih h1

theorem Canonical.locate {l : Nat} {key : BitVec 144} (h : Canonical s) : Canonical (s.locate k t l key).2 := h.seek

theorem Canonical.chain {pos : Nat} {acc : List LkWrite} (h : Canonical s) : Canonical (s.chain k t n pos acc).2 := by
  induction n generalizing s pos acc with
  | zero => exact h
  | succ n ih =>
    rw [State.chain]
    split
    · exact h
    · next e _ =>
      have h1 : Canonical (s.cmdHas k t (s.otherSlot t pos e)).2 := h.cmdHas
      dsimp only
      split
      · exact h1
      split
      · exact h1
      · exact ih h1

theorem Canonical.place {e : Entry} (h : Canonical s) : Canonical (s.place k t e) := by
  unfold State.place
  extract_lets q w
  split
  next r e =>
  have h1 := Canonical.freshOf h e
  extract_lets first a b u free
  have h2 : Canonical u := h1.chain.chain
  clear_value free
  split
  · exact h1.cmdRan
  · exact h1.cmdRan
  · exact h1.cmdRan
  · split
    · exact h2.cmdFetch
    · exact h2.cmdFetch
    · exact h2.cmdRan
    · exact h2.cmdRan
    · exact h2.cmdRan
    · split
      · exact h2.tblCount.cmdRan
      · exact h2.cmdRan

theorem Canonical.cmdReturn {e : Entry} (h : Canonical s) : Canonical (s.cmdReturn k e) := h.modCmd

theorem Canonical.cmdInsert {c : Cmd} (h : Canonical s) : Canonical (s.cmdInsert k t c) := by
  unfold State.cmdInsert
  dsimp only
  split
  · exact h.locate.cmdFetch
  · exact h.locate.cmdRan
  · exact h.locate.place

theorem Canonical.cmdReplace {c : Cmd} (h : Canonical s) : Canonical (s.cmdReplace k t c) := by
  unfold State.cmdReplace
  dsimp only
  split
  · exact h.locate.cmdFetch
  · exact h.locate.cmdRan
  · exact h.locate.cmdRan

theorem Canonical.cmdDelete {c : Cmd} (h : Canonical s) : Canonical (s.cmdDelete k t c) := by
  unfold State.cmdDelete
  dsimp only
  split
  · exact h.locate.cmdFetch
  · exact h.locate.cmdRan
  · exact h.locate.cmdRan

theorem Canonical.cmdRead {c : Cmd} (h : Canonical s) : Canonical (s.cmdRead k t c) := by
  unfold State.cmdRead
  dsimp only
  split
  · exact h.locate.cmdFetch
  · exact h.locate.cmdRan
  · exact h.locate.cmdReturn.cmdRan

theorem Canonical.testProbe {key : BitVec 144} {l : List Nat} (h : Canonical s) :
    Canonical (s.testProbe k t key l).2 := by
  induction l generalizing s with
  | nil => exact h
  | cons pos rest ih =>
    rw [State.testProbe]
    have h1 : Canonical (s.cmdHas k t pos).2 := h.cmdHas
    split
    · split
      · exact ih h1.cacheMiss
      · exact h1
    split
    · split
      · exact h1
      · exact ih h1
    · exact ih h1

theorem Canonical.testPass {key : BitVec 144} (h : Canonical s) : Canonical (s.testPass k t key).2 := h.testProbe

theorem Canonical.testLook {c : Cmd} (h : Canonical s) : Canonical (s.testLook k t c).2 := by
  unfold State.testLook
  dsimp only
  split
  · exact h.modCmd.testPass.tblCount.modCmd.testPass
  · exact h.modCmd.testPass

theorem Canonical.cmdTestins {c : Cmd} (h : Canonical s) : Canonical (s.cmdTestins k t c) := by
  unfold State.cmdTestins
  refine .ite h.cmdInsert ?_
  dsimp only
  split
  · exact h.testLook.cmdFetch
  · exact .ite h.testLook.tblCount.modCmd.cmdInsert h.testLook.tblCount.modCmd
  · exact .ite h.testLook.tblCount.tblCount.cmdReturn.cmdRan.modCmd.hitUpdate h.testLook.tblCount.tblCount.cmdReturn.cmdRan

theorem Canonical.scanFrom {pos : Nat} (h : Canonical s) : Canonical (s.scanFrom k t n pos).2 := by
  induction n generalizing s pos with
  | zero => exact h
  | succ n ih =>
    rw [State.scanFrom]
    have h1 : Canonical (s.cmdHas k t pos).2 := h.cmdHas
    dsimp only
    split
    · exact h
    split
    · exact h1
    split
    · exact h1
    · exact ih h1

theorem Canonical.cmdScan {c : Cmd} (h : Canonical s) : Canonical (s.cmdScan k t c) := by
  unfold State.cmdScan
  dsimp only
  split
  · exact h.scanFrom.cmdFetch
  · exact h.scanFrom.cmdRan
  · exact h.scanFrom.modCmd.cmdRan
  · exact h.scanFrom.modCmd.cmdRan

theorem Canonical.cmdFlush (h : Canonical s) : Canonical (s.cmdFlush k t) :=
  h.modTbl.hitsDrop.rebuildFilters.modLookup.cmdRan.modCmd.foldl fun _ _ h4 => h4.slotReq

theorem Canonical.frebuildFrom {pos : Nat} (h : Canonical s) : Canonical (s.frebuildFrom k t n pos).2.2 := by
  induction n generalizing s pos with
  | zero => exact h
  | succ n ih =>
    rw [State.frebuildFrom]
    have h1 : Canonical (s.cmdHas k t pos).2 := h.cmdHas
    dsimp only
    split
    · exact h
    split
    · exact h1
    · exact ih h1

theorem Canonical.cmdFrebuild {c : Cmd} (h : Canonical s) : Canonical (s.cmdFrebuild k t c) := by
  unfold State.cmdFrebuild
  dsimp only
  split
  · exact h.frebuildFrom.modCmd.cmdFetch
  · exact .ite h.frebuildFrom.modCmd h.frebuildFrom.modCmd.rebuildFilters.setReg.cmdRan

theorem Canonical.cmdRun {op : Nat} (h : Canonical s) : Canonical (s.cmdRun k op) := by
  unfold State.cmdRun
  refine .ite h ?_
  refine .ite h ?_
  refine .ite ?_ ?_
  · refine .cmdKick (.cmdIssue (.ite h.cmdRan ?_))
    refine .ite h.cmdRan ?_
    refine .ite h.cmdRan ?_
    split
    · exact h.cmdInsert
    · exact h.cmdReplace
    · exact h.cmdDelete
    · exact h.cmdRead
    · exact h.cmdTestins
    · exact h.cmdScan
    · exact h.cmdFlush
    · exact h.cmdFrebuild
  · refine .cmdIssue (.ite h.cmdRan ?_)
    refine .ite h.cmdRan ?_
    refine .ite h.cmdRan ?_
    split
    · exact h.cmdInsert
    · exact h.cmdReplace
    · exact h.cmdDelete
    · exact h.cmdRead
    · exact h.cmdTestins
    · exact h.cmdScan
    · exact h.cmdFlush
    · exact h.cmdFrebuild

theorem Canonical.cmdEnd (h : Canonical s) : Canonical (s.cmdEnd k) :=
  .modCmd (.ite (.tblCount (.ite h.tblCount h)) (.ite h.tblCount h))

theorem Canonical.cmdComplete {sl : LkSlot} (h : Canonical s) : Canonical (s.cmdComplete sl) := by
  unfold State.cmdComplete
  refine .ite h ?_
  dsimp only
  split
  · exact h.cmdEnd.orReg
  · exact .ite h.cmdEnd.setFlag h.cmdEnd

theorem Canonical.probeDone {id : Nat} {v : Lkp} (h : Canonical s) : Canonical (s.probeDone id v) := by
  unfold State.probeDone
  split
  · exact h
  · split
    · exact h.setFlight
    · exact h.setFlight
    · dsimp only
      split
      · exact .ite h.cacheIn.lkFinish h.cacheIn.lkWalk
      · exact h.cacheIn.lkWalk

theorem Canonical.probeAnswer {id : Nat} {fail : Option Bool} (h : Canonical s) : Canonical (s.probeAnswer id fail) := by
  unfold State.probeAnswer
  split
  · exact h
  · exact h.setFlight

theorem Canonical.fillAnswer {pos : Nat} {ok : Bool} (h : Canonical s) : Canonical (s.fillAnswer t pos ok) := by
  unfold State.fillAnswer
  refine .ite h.modLookup ?_
  split
  · exact h
  · exact .ite h.modLookup.cacheIn h.modLookup

theorem Canonical.cmdReadAnswer {ok : Bool} (h : Canonical s) : Canonical (s.cmdReadAnswer k ok) := by
  unfold State.cmdReadAnswer
  extract_lets c whole u v
  have h1 : Canonical u := h.setCmd
  have h2 : Canonical v := .ite h1.cmdMemErr (.ite h1.cacheIn h1)
  exact .ite h2.cmdKick h2

theorem Canonical.cmdWriteAnswer {ea : Nat} {ok : Bool} (h : Canonical s) : Canonical (s.cmdWriteAnswer k ea ok) :=
  .cmdKick (.ite h.modCmd h.modCmd.undoWrite.cmdMemErr)

theorem Canonical.sweepOn {pos : Nat} (h : Canonical s) : Canonical (s.sweepOn t pos) := h.modLookup.modCmd

theorem Canonical.sweepRemove {pos : Nat} {e : Entry} (h : Canonical s) : Canonical (s.sweepRemove t pos e) :=
  .ite h.setCmd.applyWrite.tblCount.tblCount.event h.setCmd.applyWrite.tblCount.tblCount

theorem Canonical.sweepVisit (h : Canonical s) : Canonical s.sweepVisit := by
  unfold State.sweepVisit
  refine .ite h ?_
  split
  · exact h
  refine .ite h.sweepOn ?_
  extract_lets u got r v
  have h1 : Canonical u := h.modCmd
  have h2 : Canonical v := by
    dsimp only [v, r]
    split
    · exact h1
    · exact h1.cacheRead
  refine .ite h2.modCmd.slotReq ?_
  split
  · exact h2.sweepOn
  · exact .ite h2.sweepOn (.ite h2.sweepRemove.sweepOn h2)

theorem Canonical.cacheScrub (h : Canonical s) : Canonical s.cacheScrub := by
  unfold State.cacheScrub
  split
  · exact h
  split
  next e =>
  have h1 := Canonical.freshOf h e
  split
  · exact h1
  · exact .ite h1.plfWord (.ite h1.filterRow h1.cacheRead)

theorem Canonical.tblEmpty (h : Canonical s) : Canonical (s.tblEmpty t) := h.setTbl.modLookup.setReg

theorem Canonical.clearFrom {pos : Nat} (h : Canonical s) : Canonical (s.clearFrom t pos) := .ite h.modTbl.slotReq h.modTbl

theorem Canonical.clearAnswer {ok : Bool} (h : Canonical s) : Canonical (s.clearAnswer t ok) := by
  unfold State.clearAnswer
  split
  · exact .clearFrom (.ite h h.tblCount)
  · exact h

theorem Canonical.lkCfgErr (h : Canonical s) : Canonical (s.lkCfgErr) := h.orReg

theorem Canonical.writeTblcfg {d : BitVec 32} {image : Bool} (h : Canonical s) : Canonical (s.writeTblcfg t d image) :=
  .ite (.ite h.lkCfgErr (.setReg (.ite h h.modTbl))) (.ite h.lkCfgErr (.ite
    (.ite h.lkCfgErr h.setReg.tblEmpty.cacheTrim.clearFrom) h.setReg))

theorem Canonical.writeTbl {off : Nat} {d : BitVec 32} {image : Bool} (h : Canonical s) :
    Canonical (s.writeTbl t off d image) :=
  .ite h.writeTblcfg (.ite h (.ite h.lkCfgErr h.setReg))

theorem Canonical.readLkWord {off : Nat} (h : Canonical s) : Canonical (s.readLkWord g off).2 := by
  unfold State.readLkWord
  split
  · exact h
  · dsimp only
    split
    · exact h.modCmd
    · exact h

theorem Canonical.writeLkWord {off : Nat} {d : Word} (h : Canonical s) : Canonical (s.writeLkWord g off d) := by
  unfold State.writeLkWord
  refine .ite h ?_
  refine .ite h.modCmd ?_
  split
  · exact h.modCmd
  · exact h.modCmd
  · exact h.modCmd
  · exact h.modCmd
  · exact h.acceptCmd
  · exact h.modCmd

theorem Canonical.writeHostSlot {off : Nat} {d : BitVec 32} (h : Canonical s) : Canonical (s.writeHostSlot off d) :=
  .ite (.ite h.setReg.modCmd h.setReg) (.ite h (.ite h.modCmd (.ite (.ite h.modCmd h.same) (.ite h.same
    (.ite h.modCmd h.acceptCmd)))))

/-! ### Machine/Rings.lean -/

theorem Canonical.forward {dir : Bool} {x : XIn} {words : List Word} {frag : Bool} (h : Canonical s) :
    Canonical (s.forward e r dir x words frag) :=
  h.modPort

theorem Canonical.copyIn {f : Frame} {l : List Word} (h : Canonical s) : Canonical (s.copyIn p f l).2.2 := by
  induction l generalizing s f with
  | nil => exact h
  | cons w ws ih =>
    rw [State.copyIn]
    split
    · exact h
    split
    · exact h
    · next hb => exact ih (.ite (h.bufWord hb).modPort (h.bufWord hb))

theorem Canonical.passCopy {its : Word} (h : Canonical s) : Canonical (s.passCopy r its) := h.countAt

theorem Canonical.expressCopy {x : XIn} {err : Bool} (h : Canonical s) : Canonical (s.expressCopy p r x err) := by
  unfold State.expressCopy
  extract_lets cls its words
  have h1 := fun f => h.copyIn (p := p) (f := f) (l := words)
  split
  next e =>
  replace h1 := e ▸ h1 _
  dsimp only at h1 ⊢
  split
  · exact (Canonical.ite h1.freeCells.countAt h1.freeCells.countAt.inflDown).idisc
  split
  · exact h1
  · exact .ite h1.modTrunk.countAt.modRing h1.modTrunk.countAt.passCopy

theorem Canonical.errored (h : Canonical s) : Canonical (s.errored p r) := h.countAt.modPort

theorem Canonical.route {x : XIn} (h : Canonical s) : Canonical (s.route r p x).2 := by
  unfold State.route
  dsimp only
  split
  · split
    · split
      · exact h.forward
      · exact h
    · split
      · exact h.forward
      · exact h
  split
  · exact h.countAt
  split
  · exact h.countAt.forward
  split
  · exact h.countAt.forward
  · exact h.forward

theorem Canonical.express {words : List Word} (h : Canonical s) : Canonical (s.express p words) := by
  unfold State.express
  split
  · exact .ite h (.ite (.expressCopy (.ite h.route.errored h.route)) (.ite h.route.errored h.route))
  · exact h

theorem Canonical.dupResolve {d : DdCopy} (h : Canonical s) : Canonical (s.dupResolve r d) := by
  unfold State.dupResolve
  refine .ite ?_ (.ite h.cmdEnd.modRing.passCopy h.cmdEnd.modRing.count.passCopy)
  refine .inflDown (.releasePkt (.modTrunk ?_))
  split
  · exact h.cmdEnd.modRing.countAt.idisc
  · exact h.cmdEnd.modRing.countAt

theorem Canonical.dupRequest (h : Canonical s) : Canonical (s.dupRequest r) := by
  unfold State.dupRequest
  split
  · exact h
  · exact .ite (.dupResolve (.cmdRun (.ite h h.modCmd.acceptCmd))) (.cmdRun (.ite h h.modCmd.acceptCmd))

theorem Canonical.openLane (h : Canonical s) : Canonical (s.openLane r) := h.modRing.ringAttach

theorem Canonical.cutLane (h : Canonical s) : Canonical (s.cutLane e r) := h.modPort

theorem Canonical.closeLane (h : Canonical s) : Canonical (s.closeLane r) := h.modRing.cutLane.cutLane.ringAttach

theorem Canonical.writeRingcfg {d : BitVec 32} {image : Bool} (h : Canonical s) : Canonical (s.writeRingcfg r d image) :=
  .ite h.setReg (.ite h.orReg (.ite h.closeLane.setReg.ringAttach (.ite h.setReg.openLane h.setReg.ringAttach)))

theorem Canonical.writeRing {off : Nat} {d : BitVec 32} {image : Bool} (h : Canonical s) :
    Canonical (s.writeRing r off d image) := by
  unfold State.writeRing
  split
  · exact h.writeRingcfg
  · exact h.setReg
  · exact h.setReg
  · exact h.setReg
  · exact h.setReg
  · exact h.setReg
  · exact h

theorem Canonical.condChange {sideB fault : Bool} {j : Bool × Nat × Bool} (h : Canonical s) :
    Canonical (s.condChange r sideB fault j) :=
  .ite h (.event (.ite h.count h))

theorem Canonical.ringHealth (h : Canonical s) : Canonical (s.ringHealth r) :=
  .ite h h.setRing.condChange.condChange.condChange.condChange.ringAttach

theorem Canonical.ringTick (h : Canonical s) : Canonical (s.ringTick) := h.foldl fun _ _ h1 => .ite h1.ringHealth h1

/-! ### Machine/Timers.lean -/

theorem Canonical.setGout {level : Bool} (h : Canonical s) : Canonical (s.setGout g i level) :=
  .ite h (h.modGrove.foldl fun _ _ h2 => .ite h2.captureEdge h2)

theorem Canonical.timAction (h : Canonical s) : Canonical (s.timAction g k) :=
  .ite (.setLine (.ite h (.ite h.push h.setGout))) (.ite h (.ite h.push h.setGout))

theorem Canonical.timMatch (h : Canonical s) : Canonical (s.timMatch g k) := h.tstat.timAction.modTimer

theorem Canonical.timCompare (h : Canonical s) : Canonical (s.timCompare g k) :=
  .ite (.ite h.modTimer h.timMatch) (.ite h.modTimer h.tstat.modTimer)

theorem Canonical.timArm (h : Canonical s) : Canonical (s.timArm g k) := h.modTimer.timCompare

theorem Canonical.timDisarm (h : Canonical s) : Canonical (s.timDisarm g k) := h.modTimer

theorem Canonical.timersStepped {d : Nat} (h : Canonical s) : Canonical (s.timersStepped d) :=
  h.foldl fun _ _ h1 => h1.foldl fun _ _ h2 => .ite h2.tstat.timMatch h2

theorem Canonical.timLoad {rest : List Edge} {v : BitVec 64} (h : Canonical s) : Canonical (s.timLoad g k rest v) :=
  .setTimer (.ite h.tstat h)

theorem Canonical.timCapture (h : Canonical s) : Canonical (s.timCapture g k) := by
  unfold State.timCapture
  dsimp only
  split
  · exact .ite h.setTimer h.timLoad
  · exact h.timLoad
  · exact h

theorem Canonical.writeTcmp {d : BitVec 32} (h : Canonical s) : Canonical (s.writeTcmp g k d) :=
  .ite h.modTimer.timCompare h.modTimer

theorem Canonical.writeTcnt {d : BitVec 32} (h : Canonical s) : Canonical (s.writeTcnt g k d) :=
  .ite h.tstat (.ite h h.modTimer)

theorem Canonical.writeTarm {d : BitVec 32} (h : Canonical s) : Canonical (s.writeTarm g k d) :=
  .ite (.ite h.fresh.timArm.timDisarm h.fresh.timDisarm.timArm) (.ite h.timArm (.ite h.timDisarm h))

theorem Canonical.writeGout {d : BitVec 32} (h : Canonical s) : Canonical (s.writeGout g d) :=
  h.foldl fun _ _ h1 => h1.setGout

theorem Canonical.readTcap (h : Canonical s) : Canonical (s.readTcap g k) := h.modTimer

theorem Canonical.writeTimer {off : Nat} {d : BitVec 32} (h : Canonical s) : Canonical (s.writeTimer g off d) := by
  unfold State.writeTimer
  refine .ite h.writeGout ?_
  refine .ite h ?_
  dsimp only
  split
  · exact h.setReg
  · exact .ite h h.setReg
  · exact h.writeTarm
  · exact h.setReg
  · exact h.same
  · exact h.same
  · exact h.writeTcnt
  · exact h.writeTcmp
  · exact h

theorem Canonical.timPin (h : Canonical s) : Canonical (s.timPin k) := by
  unfold State.timPin
  split
  · exact .ite h.popLink.modPort h.popLink.tstat
  · exact h

/-! ### Machine/Recorder.lean -/

theorem Canonical.linkDeliver (h : Canonical s) : Canonical (s.linkDeliver k) := by
  unfold State.linkDeliver
  dsimp only
  split
  · exact h
  · exact h.setLink

theorem Canonical.modRec {f : Recorder → Recorder} (h : Canonical s) : Canonical (s.modRec f) := h.same

theorem Canonical.recLost {ctrl : Bool} (h : Canonical s) : Canonical (s.recLost ctrl) := .ite h.count.modRec h.count.modRec

theorem Canonical.recStage {r : Rec} (h : Canonical s) : Canonical (s.recStage r) := .ite h.recLost h.modRec

theorem Canonical.recPut {ctrl : Bool} {pairs : List (Word × Word)} (h : Canonical s) : Canonical (s.recPut n ctrl pairs) :=
  .modRec (h.foldl fun _ _ h2 => h2.memSend)

theorem Canonical.recLoss (h : Canonical s) : Canonical (s.recLoss) := h.recPut.modRec.orReg

theorem Canonical.recHead {lose : Bool} (h : Canonical s) : Canonical (s.recHead lose) := by
  unfold State.recHead
  split
  · exact h
  · exact .ite h.recLost.modRec (.ite h h.recPut.modRec)

theorem Canonical.recWrite (h : Canonical s) : Canonical (s.recWrite) := .ite (.ite h.recHead (.ite h h.recLoss)) h.recHead

theorem Canonical.recAnswer {ctrl ok : Bool} (h : Canonical s) : Canonical (s.recAnswer n ctrl ok) :=
  .ite (.modRec (.ite h.modRec h.modRec.recLost.modRec)) (.ite h.modRec h.modRec.recLost.modRec)

theorem Canonical.recMarker (h : Canonical s) : Canonical (s.recMarker i) := by
  unfold State.recMarker
  split
  · exact h.popLink.modRec
  · exact h.popLink.modRec
  · exact h

theorem Canonical.recCommit (h : Canonical s) : Canonical (s.recCommit) := by
  unfold State.recCommit
  split
  · exact h
  · split
    · exact h
    · exact .ite h h.modRec

theorem Canonical.recOpen (h : Canonical s) : Canonical (s.recOpen n) := .ite h h.modRec

theorem Canonical.recLeave (h : Canonical s) : Canonical (s.recLeave i) := h.same.push

theorem Canonical.recActivate (h : Canonical s) : Canonical (s.recActivate) := h.modRec

theorem Canonical.recErr (h : Canonical s) : Canonical (s.recErr) := h.orReg

theorem Canonical.writeRegion {off : Nat} {d : BitVec 32} {image : Bool} (h : Canonical s) :
    Canonical (s.writeRegion off d image) :=
  .ite h.setReg (.ite h.recErr (.ite h.setReg h.setReg.modRec))

theorem Canonical.writeRecrd {d : BitVec 32} (h : Canonical s) : Canonical (s.writeRecrd d) := h.modRec

theorem Canonical.writeRecorder {off : Nat} {d : BitVec 32} {image : Bool} (h : Canonical s) :
    Canonical (s.writeRecorder off d image) :=
  .ite h.setReg (.ite h.writeRegion (.ite h.setReg (.ite h.setReg (.ite h.same (.ite h.writeRecrd h)))))

/-! ### Machine/MemPorts.lean -/

theorem Canonical.coreRead {since ea : Nat} {r : ReadRes} (h : Canonical s) : Canonical (s.coreRead th since ea r) := by
  unfold State.coreRead
  split
  · exact .ite h.answer h
  · exact h

theorem Canonical.dmaRead {r : ReadRes} (h : Canonical s) : Canonical (s.dmaRead g k r) := by
  unfold State.dmaRead
  refine .ite h ?_
  split
  · exact h.setDma.dmaWrite
  · exact h.dmaStop
  · exact h.dmaStop

theorem Canonical.readEnd {q : MReq} {r : ReadRes} (h : Canonical s) : Canonical (s.readEnd q r) := by
  unfold State.readEnd
  split
  · exact h.coreRead
  · exact h.dmaRead
  · exact h.cmdReadAnswer
  · exact h.probeAnswer
  · exact h.fillAnswer
  · exact h

theorem Canonical.writeEnd {q : MReq} {ok : Bool} (h : Canonical s) : Canonical (s.writeEnd q ok) := by
  unfold State.writeEnd
  split
  · exact .ite h.ackStore h.discardStore
  · exact .ite h (.ite h.dmaNext h.dmaStop)
  · exact h.cmdWriteAnswer
  · exact .ite h h.tblCount
  · exact h.clearAnswer
  · exact h.recAnswer
  · exact h

theorem Canonical.mpstat {b : Nat} (h : Canonical s) : Canonical (s.mpstat p b) := h.orReg

theorem Canonical.memLate {tag : Nat} {dir : Bool} (h : Canonical s) : Canonical (s.memLate p tag dir) := by
  unfold State.memLate
  exact h.modMem.memPresent.mpstat.count.memEvent

theorem Canonical.memErr {tag : Nat} {q : MReq} (h : Canonical s) : Canonical (s.memErr p tag q) :=
  .ite h.mpstat.count.memEvent h.mpstat.count.event

theorem Canonical.memReadResp {tag : Nat} {err : Bool} {data : Word} (h : Canonical s) :
    Canonical (s.memReadResp p tag err data) := by
  unfold State.memReadResp
  refine .ite h ?_
  split
  · exact .ite h (.ite h.modMem.memPresent.memErr.readEnd h.modMem.memPresent.readEnd)
  · exact h.memLate

theorem Canonical.memWriteAck {tag : Nat} {err : Bool} (h : Canonical s) : Canonical (s.memWriteAck p tag err) := by
  unfold State.memWriteAck
  refine .ite h ?_
  split
  · exact .ite h (.ite h.modMem.memPresent.memErr.writeEnd h.modMem.memPresent.writeEnd)
  · exact h.memLate

theorem Canonical.memFail {tag : Nat} {q : MReq} (h : Canonical s) : Canonical (s.memFail p tag q) :=
  .ite h.mpstat.count.memEvent.writeEnd h.mpstat.count.memEvent.readEnd

theorem Canonical.memTimeout (h : Canonical s) : Canonical (s.memTimeout p) := by
  unfold State.memTimeout
  refine .ite h ?_
  split
  · exact h.setMem.memFail
  · split
    · exact .ite h.setMem.memFail.memPresent (.ite h.setMem.memFail.memPresent h)
    · exact .ite h.setMem.memFail.memPresent h
    · exact .ite h.setMem.memFail.memPresent h
    · exact h

theorem Canonical.memReadyEdge {level : Bool} (h : Canonical s) : Canonical (s.memReadyEdge p level) :=
  .ite (.memEvent (.ite h.modMem.memPresent h)) (.ite h.modMem.memPresent h)

theorem Canonical.memReady {level : Bool} (h : Canonical s) : Canonical (s.memReady p level) :=
  .ite h (.ite h.modMem h.modMem.memReadyEdge)

theorem Canonical.writeMemReg {off : Nat} {d : BitVec 32} {image : Bool} (h : Canonical s) :
    Canonical (s.writeMemReg off d image) := by
  unfold State.writeMemReg
  dsimp only
  split
  · exact h.setReg
  · exact .ite h.setReg h
  · exact h.setReg
  · exact h.setReg
  · exact .ite h.setReg h

/-! ### Machine/Time.lean -/

theorem Canonical.modTime {f : Time → Time} (h : Canonical s) : Canonical (s.modTime f) := h.same

theorem Canonical.timeErr (h : Canonical s) : Canonical (s.timeErr) := h.orReg

theorem Canonical.timeEvent {act : Nat} {offset : Option ℤ} (h : Canonical s) : Canonical (s.timeEvent act offset) := h.event

theorem Canonical.wdTick (h : Canonical s) : Canonical (s.wdTick g) := .ite h.modGrove h

theorem Canonical.snapIsland (h : Canonical s) : Canonical (s.snapIsland i) := h.same

theorem Canonical.sendMarks (h : Canonical s) : Canonical (s.sendMarks) := h.foldl fun _ _ h1 => .ite h1 h1.push.modTime

theorem Canonical.storeScrub (h : Canonical s) : Canonical s.storeScrub := by
  unfold State.storeScrub
  extract_lets v u
  have h1 : Canonical u := h.same
  split
  · exact h1
  · exact h1.same
  · exact h1.fresh.eccEvent

theorem Canonical.beginTick (h : Canonical s) : Canonical (s.beginTick i) := by
  unfold State.beginTick
  extract_lets n u v w x y z z'
  have h1 : Canonical u := h.modTime
  have h2 : Canonical v := .ite (h1.foldl fun _ _ h2 => h2.obsClose) h1
  have h3 : Canonical w := .ite h2.timersAdvance h2
  have h4 : Canonical x := .ite h3.storeScrub h3
  have h5 : Canonical y := h4.snapIsland
  have h6 : Canonical z := .ite h5.same h5
  have h7 : Canonical z' := .ite h6.recActivate h6
  exact .ite h (.ite h4 (.ite h7.recOpen.modTime h7))

theorem Canonical.decideTick (h : Canonical s) : Canonical (s.decideTick) :=
  .ite h.modTime (h.modTime.ringTick.modLookup.foldl fun _ _ h2 => h2.wdTick)

theorem Canonical.closeTick (h : Canonical s) : Canonical (s.closeTick) :=
  .ite h (.sendMarks (.foldl (.ite h.decideTick h) fun _ _ h1 => h1.beginTick))

theorem Canonical.reachTick (h : Canonical s) : Canonical (s.reachTick) := by
  unfold State.reachTick
  refine .ite h ?_
  split
  · exact h.setBeat
  · exact h

theorem Canonical.takeTick (h : Canonical s) : Canonical (s.takeTick) :=
  .ite h.closeTick.sendMarks.decideTick h.closeTick.sendMarks

theorem Canonical.canopyTick (h : Canonical s) : Canonical (s.canopyTick) := h.reachTick.takeTick

theorem Canonical.carryTime {d : Nat} (h : Canonical s) : Canonical (s.carryTime d) :=
  h.modTime.modTime.timersStepped.closeTick

theorem Canonical.stepTime {d : Nat} (h : Canonical s) : Canonical (s.stepTime d) := h.carryTime.takeTick

theorem Canonical.adjStep {d : BitVec 32} (h : Canonical s) : Canonical (s.adjStep d) := .ite h.timeErr h.stepTime.timeEvent

theorem Canonical.adjSlew {d : BitVec 32} (h : Canonical s) : Canonical (s.adjSlew d) := h.modTime.timeEvent

theorem Canonical.writeTadj1 {d : BitVec 32} (h : Canonical s) : Canonical (s.writeTadj1 d) := .ite h.adjStep h.adjSlew

theorem Canonical.btAdvance (h : Canonical s) : Canonical (s.btAdvance).2 := by
  unfold State.btAdvance
  split
  · exact h
  · exact h.fresh

theorem Canonical.timeCycle (h : Canonical s) : Canonical (s.timeCycle) := h.btAdvance.modTime

theorem Canonical.skewCycle {was : Nat → Nat} (h : Canonical s) : Canonical (s.skewCycle was) := h.modTime

theorem Canonical.groveCycle {old : State} (h : Canonical s) : Canonical (s.groveCycle old g) :=
  .ite h.setBeat (.istoreScrub (.watchStall (.ite h.setBeat.modGrove h.setBeat.modGrove.timCycle)))

theorem Canonical.passGrove (h : Canonical s) : Canonical (s.passGrove g) := h.timReach.setBeat

theorem Canonical.hwCycle (h : Canonical s) : Canonical s.hwCycle := by
  unfold State.hwCycle
  extract_lets old u v
  have h1 : Canonical old := h.foldl fun _ _ h1 => .ite h1.passGrove h1
  have h2 : Canonical u := (h1.same : Canonical { old with hw := old.hw + 1 }).timeCycle.skewCycle
  have h3 : Canonical v := h2.same
  exact (h3.lowerTx.foldl fun _ _ h4 => h4.groveCycle).cacheScrub.closeTick.sendMarks

theorem Canonical.ppsLose (h : Canonical s) : Canonical (s.ppsLose) := .ite h h.modTime.orReg.timeEvent

theorem Canonical.ppsLock {prev : Option Nat} {st : Word} (h : Canonical s) : Canonical (s.ppsLock prev st) := by
  unfold State.ppsLock
  extract_lets e win gap good u v n w
  have h1 : Canonical u := h.modTime
  have h2 : Canonical v := .ite h1.ppsLose h1
  have h3 : Canonical w := .ite h2.modTime.timeEvent h2
  exact .ite h3.modTime h3

theorem Canonical.ppsEdge {rising : Bool} (h : Canonical s) : Canonical (s.ppsEdge rising) :=
  .ite h (.ite h.modTime.ppsLock h.modTime)

theorem Canonical.ppsTimeout (h : Canonical s) : Canonical (s.ppsTimeout) := by
  unfold State.ppsTimeout
  split
  · exact .ite h.ppsLose h
  · exact h

theorem Canonical.stagedSeconds {now : Nat} (h : Canonical s) : Canonical (s.stagedSeconds now).2 := by
  unfold State.stagedSeconds
  split
  · exact h
  · split
    · exact h
    · exact h.timeErr

theorem Canonical.acquired {src d : Nat} (h : Canonical s) : Canonical (s.acquired src d) := h.carryTime.modTime

theorem Canonical.acquirePps (h : Canonical s) : Canonical (s.acquirePps) := h.stagedSeconds.acquired

theorem Canonical.acquireFree (h : Canonical s) : Canonical (s.acquireFree) := h.stagedSeconds.acquired.timeEvent

theorem Canonical.writeTime {off : Nat} {d : BitVec 32} (h : Canonical s) : Canonical (s.writeTime off d) := by
  unfold State.writeTime
  dsimp only
  split
  · exact h.same
  · exact h.modTime
  · exact h.setReg
  · exact h.same
  · exact h.setReg.writeTadj1
  · exact h.setReg
  · exact h.setReg
  · exact h.setReg
  · exact h

theorem Canonical.timeMirror {r : MirrorReg} {d : BitVec 32} (h : Canonical s) : Canonical (s.timeMirror th r d) := by
  unfold State.timeMirror
  refine .ite h ?_
  split
  · exact h.writeTime
  · exact h.writeTime
  · exact h.writeTime
  · exact h.setReg

/-! ### Machine/Power.lean -/

theorem Canonical.memClock {level : Bool} (h : Canonical s) : Canonical (s.memClock level) :=
  h.foldl fun _ _ h1 => .ite h1.memReadyEdge h1

theorem Canonical.clockLoss (h : Canonical s) : Canonical (s.clockLoss i) := by
  unfold State.clockLoss
  extract_lets u v w
  have h1 : Canonical u := h.modTime.orReg
  have h2 : Canonical v := .ite h1.memClock h1
  have h3 : Canonical w := h2.foldl fun _ _ h3 => .ite h3.modPort h3
  exact .ite h (.ite h3.ringsAttach h2)

theorem Canonical.clockReturn (h : Canonical s) : Canonical (s.clockReturn i) :=
  .ite h (.ite (.ringsAttach (.ite h.modTime.memClock h.modTime)) (.ite h.modTime.memClock h.modTime))

/-- A grove that leaves the map is read as one that was never written. -/
theorem Canonical.clearGrove (h : Canonical s) : Canonical (s.clearGrove g) := by
  refine ⟨SMap.wf_mclear h.regs_wf _ _, fun b => ?_⟩
  show SMap.wf 0 (mget {} (mdel s.groves g) b).scratch = true
  by_cases hb : b = g
  · subst hb
    rw [mget, mfind_mdel_same]
    rfl
  · rw [mget, mfind_mdel_other hb]
    exact h.scratch_wf

theorem Canonical.clearPortIsland (h : Canonical s) : Canonical (s.clearPortIsland k) :=
  .foldl (h.regsOnly (SMap.wf_mclear h.regs_wf _ _)) fun _ _ h1 => .ite h1.modPort h1

theorem Canonical.leaveOn {p : Power} (h : Canonical s) : Canonical (s.leaveOn i p) := .setIsl (.ite h.recLeave h)

theorem Canonical.wake (h : Canonical s) : Canonical (s.wake i) := .setIsl (.ite h.clearGrove (.ite h.clearPortIsland h))

theorem Canonical.perr {b : Nat} (h : Canonical s) : Canonical (s.perr a b) := h.orReg

theorem Canonical.gateGrove {v : Nat} (h : Canonical s) : Canonical (s.gateGrove g v) := by
  unfold State.gateGrove
  dsimp only
  split
  · exact h.perr
  · exact h.setReg
  · exact h.setIsl.setReg
  · exact h.wake.setReg
  · exact .ite h.setIsl.setReg h.perr
  · exact h.setReg
  · exact .ite h.leaveOn.setReg h.perr
  · exact h.leaveOn.setReg
  · exact h.setReg

theorem Canonical.pointGrove {v : Nat} (h : Canonical s) : Canonical (s.pointGrove g v) :=
  .ite h.perr (.ite h (.ite h.setReg.setPoint h.setReg))

theorem Canonical.applyGclk {d : BitVec 32} (h : Canonical s) : Canonical (s.applyGclk g d) :=
  .ite h.pointGrove h.pointGrove.gateGrove

theorem Canonical.writeGclk {d : BitVec 32} {image : Bool} (h : Canonical s) : Canonical (s.writeGclk g d image) := by
  unfold State.writeGclk
  extract_lets a i u v
  have h1 : Canonical u := .ite h.perr h.setReg.setPoint
  have h2 : Canonical v := h.setReg
  exact .ite (.ite h1.perr h1.setReg.setIsl) (.ite h2.setIsl h2.applyGclk)

theorem Canonical.applyPictl {d : BitVec 32} (h : Canonical s) : Canonical (s.applyPictl k d) :=
  .ite h.perr (.ite h (.ite h.wake.setReg (.ite h.leaveOn.setReg h.perr)))

theorem Canonical.writePictl {d : BitVec 32} {image : Bool} (h : Canonical s) : Canonical (s.writePictl k d image) :=
  .ite (.ite h.perr h.setReg.setIsl) (.ite h.setReg.setIsl h.setReg.applyPictl)

theorem Canonical.applyHeld (h : Canonical s) : Canonical (s.applyHeld i) := by
  unfold State.applyHeld
  split
  · exact h
  · exact .ite h (.ite h.setIsl.applyGclk (.ite h.setIsl.applyPictl h.setIsl))

theorem Canonical.islandDone {st : Power} (h : Canonical s) : Canonical (s.islandDone i st) :=
  .applyHeld (.ite h.setIsl (.ite h.setIsl.setPoint.modGrove h.setIsl.setPoint))

theorem Canonical.clkoffEntry (h : Canonical s) : Canonical (s.clkoffEntry g) := .ite h.recLeave.islandDone h

theorem Canonical.pointChange (h : Canonical s) : Canonical (s.pointChange g) := .ite h.passGrove.setPoint.setBeat.applyHeld h

theorem Canonical.wakeComplete (h : Canonical s) : Canonical (s.wakeComplete i) := .ite h.islandDone h

theorem Canonical.changeComplete (h : Canonical s) : Canonical (s.changeComplete i) := by
  unfold State.changeComplete
  split
  · exact h
  · exact h.islandDone
  · exact h.islandDone
  · exact h

theorem Canonical.writePower {off : Nat} {d : BitVec 32} {image : Bool} (h : Canonical s) :
    Canonical (s.writePower off d image) :=
  .ite h.setReg (.ite h.setReg (.ite h.writeGclk (.ite h.writePictl h)))

/-! ### Machine/RegRead.lean -/

theorem Canonical.isInc (h : Canonical s) : Canonical (s.isInc g) := .ite h.setReg h

theorem Canonical.isRead (h : Canonical s) : Canonical (s.isRead g).2 := by
  unfold State.isRead
  dsimp only
  split
  · exact h.isInc
  · exact h.modGrove.count.isInc
  · exact h.fresh.eccEvent.isInc

theorem Canonical.readWide (h : Canonical s) : Canonical (s.readWide a).2 := by
  unfold State.readWide
  split
  · dsimp only
    split
    · exact h.popEts
    · split
      · exact h.readPushq
      · exact h
  · split
    · dsimp only
      split
      · split
        · exact h.readTcap
        · exact h
      · split
        · exact h.bwRead
        · exact h
      · exact h.isRead
      · exact h
    · exact h

theorem Canonical.readPlain (h : Canonical s) : Canonical (s.readPlain a).2 := by
  unfold State.readPlain
  split
  · exact h.readInfpeak
  · exact h

/-! ### Machine/StartFail.lean -/

theorem Canonical.modStart {f : Start → Start} (h : Canonical s) : Canonical (s.modStart f) := h.same

theorem Canonical.holdEvent {d : BitVec 28} (h : Canonical s) : Canonical (s.holdEvent d) := .modStart (.ite h.orReg h)

theorem Canonical.startEvent {step outcome code : Nat} (h : Canonical s) : Canonical (s.startEvent step outcome code) :=
  .ite h.holdEvent h.event

theorem Canonical.writeHeld (h : Canonical s) : Canonical s.writeHeld := by
  unfold State.writeHeld
  extract_lets q n l u
  have h1 : Canonical u := h.foldl fun _ _ h1 => h1.sendRec
  exact .ite h.modStart (.modStart h1.same)

theorem Canonical.wipeIslands {keep : List Nat} (h : Canonical s) : Canonical (s.wipeIslands keep) :=
  ⟨SMap.wf_filter h.regs_wf _, fun _ => rfl⟩

theorem Canonical.retainRec (h : Canonical s) : Canonical (s.retainRec) := .ite h h.modStart

theorem Canonical.retainTables (h : Canonical s) : Canonical (s.retainTables) := .ite h h.modStart

theorem Canonical.resetMgmt (h : Canonical s) : Canonical s.resetMgmt :=
  h.regsOnly (SMap.wf_filter h.regs_wf _)

theorem Canonical.resetHeart (h : Canonical s) : Canonical s.resetHeart :=
  h.regsOnly (wf_mask (q := fun a => a = 0x14004) (SMap.wf_filter h.regs_wf _))

theorem Canonical.startReset (h : Canonical s) : Canonical s.startReset := by
  unfold State.startReset
  extract_lets rings keep u
  have h1 : Canonical u := h.retainRec.retainTables.wipeIslands.resetMgmt.resetHeart
  exact h1.regsOnly (wf_mask (q := fun a => (0x40000 ≤ a && 0xF000 ≤ a % 0x10000) = true) h1.regs_wf)

theorem Canonical.closeRings (h : Canonical s) : Canonical (s.closeRings) := h.foldl fun _ _ h1 => h1.closeLane.modRing

theorem Canonical.enterSafe (h : Canonical s) : Canonical s.enterSafe := by
  unfold State.enterSafe
  extract_lets ports u v w
  have h1 : Canonical u := h.retainRec.wipeIslands
  have h2 : Canonical v := h1.same
  have h3 : Canonical w := h2.modStart
  exact h3.same

theorem Canonical.startFail {step : Nat} {f : Fail} (h : Canonical s) : Canonical (s.startFail step f) :=
  .ite h.closeRings.modStart.startEvent.orReg.enterSafe h.closeRings.modStart.startEvent.orReg.modStart

/-! ### Machine/RegWrite.lean -/

theorem Canonical.stage {d : BitVec 32} (h : Canonical s) : Canonical (s.stage a d) := h.same

theorem Canonical.w1c {mask d : BitVec 32} (h : Canonical s) : Canonical (s.w1c a mask d) := h.setReg

theorem Canonical.writeIdent {off : Nat} {d : BitVec 32} (h : Canonical s) : Canonical (s.writeIdent off d) := by
  unfold State.writeIdent
  split
  · exact h.w1c
  · exact h.setReg
  · exact h.setReg
  · exact h.setReg
  · exact h

theorem Canonical.writeIrq {off : Nat} {d : BitVec 32} (h : Canonical s) : Canonical (s.writeIrq off d) := by
  unfold State.writeIrq
  split
  · exact h.setReg
  · exact h.w1c
  · exact .ite h.orReg h
  · exact h

theorem Canonical.requestStart (h : Canonical s) : Canonical (s.requestStart) := h.modStart.ringsAttach

theorem Canonical.writeStartcmd {d : BitVec 32} (h : Canonical s) : Canonical (s.writeStartcmd d) := .ite h.requestStart h

theorem Canonical.writeStart {off : Nat} {d : BitVec 32} (h : Canonical s) : Canonical (s.writeStart off d) := by
  unfold State.writeStart
  split
  · exact h.writeStartcmd
  · exact h.w1c
  · exact h.setReg
  · exact h

theorem Canonical.writeEngine {off : Nat} {d : BitVec 32} (h : Canonical s) : Canonical (s.writeEngine p e off d) := by
  unfold State.writeEngine
  dsimp only
  split
  · exact h.writeEctl
  · exact h.engHalt
  · exact h.writeEstat
  · exact h.writeEngCnt
  · exact h.stage
  · exact h.stage
  · exact h.stage
  · exact h.stage
  · exact h.stage
  · exact h.stage
  · exact h.stage
  · exact h.stage
  · exact h.writeShr
  · exact h.writeX
  · exact h.writePullq
  · exact h.modEng
  · exact h.setReg
  · exact h

theorem Canonical.writeIsland {off : Nat} {d : BitVec 32} {image : Bool} (h : Canonical s) :
    Canonical (s.writeIsland k off d image) := by
  unfold State.writeIsland
  refine .ite (.ite h.writeEngStore (.ite h.writePecfg (.ite h.writeEngine h))) ?_
  refine .ite ?_ h
  dsimp only
  split
  · exact .ite h.setReg h.writePortctl
  · exact h.w1c
  · exact h.writeHold
  · exact h

theorem Canonical.writeTrunk {off : Nat} {d : BitVec 32} {image : Bool} (h : Canonical s) :
    Canonical (s.writeTrunk off d image) := by
  unfold State.writeTrunk
  refine .ite h.setReg ?_
  refine .ite h.w1c ?_
  refine .ite h.setReg ?_
  refine .ite h.writeDommap ?_
  refine .ite ?_ h
  split
  · exact h.writeBufcfg
  · exact h.writeMaxlen
  · exact h

theorem Canonical.writeQlim {off : Nat} {d : BitVec 32} {image : Bool} (h : Canonical s) :
    Canonical (s.writeQlim p off d image) :=
  .ite h.orReg h.setReg

theorem Canonical.writeEgressPort {off : Nat} {d : BitVec 32} {image : Bool} (h : Canonical s) :
    Canonical (s.writeEgressPort p off d image) :=
  .ite (.ite h.setReg h.setReg.gateEval) (.ite h.setReg (.ite h.writeQlim (.ite h.setReg (.ite h.w1c h))))

theorem Canonical.writeEgress {off : Nat} {d : BitVec 32} {image : Bool} (h : Canonical s) :
    Canonical (s.writeEgress off d image) :=
  .ite h.writeEgressPort (.ite h.setReg (.ite h.writeGate (.ite h.glswap h)))

theorem Canonical.writeLookup {off : Nat} {d : BitVec 32} {image : Bool} (h : Canonical s) :
    Canonical (s.writeLookup off d image) :=
  .ite h.setReg (.ite h.w1c (.ite h.writeHostSlot (.ite h.writeTbl h)))

theorem Canonical.setThcfg {d : BitVec 32} {image : Bool} (h : Canonical s) : Canonical (s.setThcfg th d image) := h.modThread

theorem Canonical.writeThcmd {d : BitVec 32} (h : Canonical s) : Canonical (s.writeThcmd th d) :=
  .ite h (.ite h.startThread (.ite h.parkThread h))

theorem Canonical.writeThread {off : Nat} {d : BitVec 32} {image : Bool} (h : Canonical s) :
    Canonical (s.writeThread th off d image) := by
  unfold State.writeThread
  split
  · exact h.setThcfg
  · exact h.writeThpc
  · exact h.setReg
  · exact h.writeThcmd
  · exact h.ipendClear
  · exact h.iraise
  · exact h.dbgcmd
  · exact h

theorem Canonical.setSlottab {d : BitVec 32} {image : Bool} (h : Canonical s) : Canonical (s.setSlottab g c k d image) :=
  .ite h.setReg.modCore h.writeSlottab

theorem Canonical.setBankmap {d : BitVec 32} {image : Bool} (h : Canonical s) : Canonical (s.setBankmap g c k d image) :=
  .ite h.setReg.modCore h.writeBankmap

theorem Canonical.writeDbgdata {d : BitVec 32} (h : Canonical s) : Canonical (s.writeDbgdata g c i d) :=
  .ite h.modCore h.dbgCommit

theorem Canonical.writeCorectl {d : BitVec 32} (h : Canonical s) : Canonical (s.writeCorectl g c d) :=
  .ite h.requestService h.requestMaint

theorem Canonical.writeCoreReg {off : Nat} {d : BitVec 32} {image : Bool} (h : Canonical s) :
    Canonical (s.writeCoreReg g c off d image) :=
  .ite h.writeCorectl (.ite h.w1c (.ite h.coresync (.ite h.setSlottab (.ite h.setReg (.ite h.dbgsel (.ite h.writeDbgdata
    (.ite h.dbghalt (.ite h.w1c (.ite h.setBankmap h)))))))))

theorem Canonical.writeCore {off : Nat} {d : BitVec 32} {image : Bool} (h : Canonical s) :
    Canonical (s.writeCore g c off d image) :=
  .ite h.writeCoreReg (.ite h.writeThread h)

theorem Canonical.writeLkrel {d : BitVec 32} (h : Canonical s) : Canonical (s.writeLkrel g d) :=
  .ite (.ite (h.foldl fun _ _ h1 => .ite h1.forceRelease h1) h) (.ite h h.forceRelease)

theorem Canonical.writeLocks {src : Src} {off : Nat} {d : BitVec 32} (h : Canonical s) :
    Canonical (s.writeLocks src g off d) := by
  unfold State.writeLocks
  refine .ite h.setReg ?_
  refine .ite h.setReg ?_
  split
  · exact h.setFlags
  · exact h.setFlags
  · exact h.setFlags
  · exact h.setFlags
  · exact h.setReg
  · exact h.setReg
  · exact .ite h.writeLkrel h
  · exact .ite h.chanFlush h
  · exact .setReg (.ite h h.setStall)
  · exact h

theorem Canonical.writeBanks {src : Src} {off : Nat} {d : BitVec 32} (h : Canonical s) :
    Canonical (s.writeBanks src g off d) := by
  unfold State.writeBanks
  refine .ite (.ite h.imageBown h.writeBown) ?_
  refine .ite h.w1c ?_
  split
  · exact h.setReg
  · exact h.setReg
  · exact h.stage
  · exact h.stage
  · exact h.bwCommit
  · exact h

theorem Canonical.keepOld {w : Nat} (h : Canonical s) : Canonical (s.keepOld g w) := .ite h.setBeat h

theorem Canonical.isCommit {d : BitVec 32} {image : Bool} (h : Canonical s) : Canonical (s.isCommit g d image) :=
  .ite h.orReg h.keepOld.modGrove.isInc

theorem Canonical.writeIstore {off : Nat} {d : BitVec 32} {image : Bool} (h : Canonical s) :
    Canonical (s.writeIstore g off d image) := by
  unfold State.writeIstore
  dsimp only
  split
  · exact h.setReg
  · exact h.stage
  · exact h.stage
  · exact h.isCommit
  · exact h.w1c
  · exact h

theorem Canonical.writeDctl {d : BitVec 32} (h : Canonical s) : Canonical (s.writeDctl g k d) :=
  .ite (.dmaStopReq (.ite h.setDma.dmaStart h.setDma)) (.ite h.setDma.dmaStart h.setDma)

theorem Canonical.writeDma {off : Nat} {d : BitVec 32} (h : Canonical s) : Canonical (s.writeDma g off d) := by
  unfold State.writeDma
  refine .ite h ?_
  split
  · exact .ite h h.setDma
  · exact .ite h h.setDma
  · exact .ite h h.setDma
  · exact .ite h h.setDma
  · exact .ite h h.setDma
  · exact h.writeDctl
  · exact h.w1c
  · exact h

theorem Canonical.writeDisp {off : Nat} {d : BitVec 32} {image : Bool} (h : Canonical s) :
    Canonical (s.writeDisp g off d image) :=
  .ite h.writeShare (.ite h.w1c (.ite h.dabandon h))

theorem Canonical.writeInitrpt {d : BitVec 32} (h : Canonical s) : Canonical (s.writeInitrpt g d) :=
  .ite h.setReg.startFail h.setReg

theorem Canonical.writeExc {src : Src} {off : Nat} {d : BitVec 32} (h : Canonical s) : Canonical (s.writeExc src g off d) := by
  unfold State.writeExc
  split
  · exact .ite h.setReg h.writeRecov
  · exact h.w1c
  · exact .ite h.release h
  · exact h.nmiRaise
  · exact h.setReg
  · exact .ite h.kick h
  · exact h.writeInitrpt
  · exact h

theorem Canonical.writeExt {off : Nat} {d : BitVec 32} (h : Canonical s) : Canonical (s.writeExt g off d) := by
  unfold State.writeExt
  refine .ite h ?_
  split
  · exact h.setReg
  · exact h.w1c
  · exact h

theorem Canonical.writeUnit {src : Src} {unit off : Nat} {d : BitVec 32} (h : Canonical s) :
    Canonical (s.writeUnit src g unit off d) := by
  unfold State.writeUnit
  split
  · exact h.writeTimer
  · exact h.writeLocks
  · exact h.writeBanks
  · exact h.writeIstore
  · exact h.writeDma
  · exact h.writeDisp
  · exact h.writeExc
  · exact .ite h.setReg h
  · exact h.writeExt

theorem Canonical.writeReg {src : Src} {d : BitVec 32} (h : Canonical s) : Canonical (s.writeReg src a d) :=
  .ite h (.ite h.writeIdent (.ite h.writeTime (.ite h.writePower (.ite h.writeRing (.ite h (.ite h.writeStart (.ite h.writeIrq
    (.ite h.writeIsland (.ite h.writeTrunk (.ite h.writeEgress (.ite h.writeLookup (.ite h.writeMemReg (.ite h.writeRecorder
      (.ite h.writeCore h.writeUnit))))))))))))))

/-! ### Machine/Window.lean -/

theorem Canonical.regLoad (h : Canonical s) : Canonical (s.regLoad a).2 := by
  unfold State.regLoad
  split
  · split
    · exact h.readWide
    · exact h
  · exact h.readPlain

theorem Canonical.windowLoad {w : Nat} (h : Canonical s) : Canonical (s.windowLoad th w).2 := by
  unfold State.windowLoad
  split
  · exact h.readLkWord
  · split
    · dsimp only
      split <;> exact h.regLoad
    · exact h

theorem Canonical.loadReturn (h : Canonical s) : Canonical (s.loadReturn th) := by
  unfold State.loadReturn
  split
  · exact h
  · split
    · exact h.deliver
    · exact .ite h.windowLoad.deliver h

theorem Canonical.portStore {th : Thid} {w : Word} (h : Canonical s) : Canonical (s.portStore th a w) := by
  unfold State.portStore
  refine .ite h ?_
  refine .ite h.writeReg ?_
  split
  · exact h.writeShr
  · exact h.writeX
  · exact h
  · exact h
  · exact h.writePullq
  · exact h.modEng
  · exact h.writeReg

theorem Canonical.regStore {th : Thid} {w : Word} (h : Canonical s) : Canonical (s.regStore th a w) := by
  unfold State.regStore
  refine .ite h.portStore ?_
  split
  · exact h.timeMirror
  · exact h.writeReg

theorem Canonical.windowStore {th : Thid} {e : SbEntry} (h : Canonical s) : Canonical (s.windowStore th e) := by
  unfold State.windowStore
  refine .ite h.writeLkWord ?_
  split
  · exact h.regStore
  · exact h

theorem Canonical.storeAccept {th : Thid} (h : Canonical s) : Canonical (s.storeAccept th) := by
  unfold State.storeAccept
  split
  · exact h
  · refine .ite h.dropHead ?_
    split
    · exact .ite h.windowStore.dropHead h
    · exact h

/-! ### Machine/Mgmt.lean -/

theorem Canonical.seen {src : Src} (h : Canonical s) : Canonical (s.seen src) := by
  unfold State.seen
  split
  · exact h.orReg
  · exact h.orReg
  · exact h

theorem Canonical.setRdata {d : BitVec 32} (h : Canonical s) : Canonical (s.setRdata d) := h.same

theorem Canonical.latchedRead {a : BitVec 24} (h : Canonical s) : Canonical (s.latchedRead a) := by
  unfold State.latchedRead
  extract_lets m v
  have h1 : Canonical v.2 := h.readWide
  split
  · exact .ite (.setRdata h1.same) (.ite h.setRdata h.setRdata.orReg)
  · exact h.readPlain.setRdata

theorem Canonical.pwracc (h : Canonical s) : Canonical (s.pwracc i) := h.orReg

theorem Canonical.mgRead {src : Src} {a : BitVec 24} (h : Canonical s) : Canonical (s.mgRead src a) := by
  unfold State.mgRead
  refine .seen (.ite h.setRdata.orReg ?_)
  split
  · exact h.setRdata
  · exact .ite h.latchedRead h.setRdata.pwracc

theorem Canonical.logWrite {src : Src} {a : BitVec 24} {d : BitVec 32} (h : Canonical s) : Canonical (s.logWrite src a d) :=
  h.count.ctrlRec

theorem Canonical.mgWrite {src : Src} {a : BitVec 24} {d : BitVec 32} (h : Canonical s) : Canonical (s.mgWrite src a d) := by
  unfold State.mgWrite
  refine .logWrite (.seen (.setRdata (.ite h.orReg ?_)))
  split
  · exact h
  · exact .ite h.writeReg h.pwracc

theorem Canonical.resetRead {a : BitVec 24} (h : Canonical s) : Canonical (s.resetRead a) := .ite h.setRdata h.setRdata

theorem Canonical.resetWrite {a : BitVec 24} {d : BitVec 32} (h : Canonical s) : Canonical (s.resetWrite a d) :=
  .ite h.writeReg.setRdata h.setRdata

theorem Canonical.accRun {x : Access} (h : Canonical s) : Canonical (s.accRun x) := by
  unfold State.accRun
  refine .ite ?_ ?_
  · refine .same ?_
    split
    · exact .ite h.resetWrite h.mgWrite
    · exact .ite h.resetRead h.mgRead
  · split
    · exact .ite h.resetWrite h.mgWrite
    · exact .ite h.resetRead h.mgRead

theorem Canonical.accDrop {x : Access} (h : Canonical s) : Canonical (s.accDrop x) := h.same

theorem Canonical.accServe (h : Canonical s) : Canonical (s.accServe) := by
  unfold State.accServe
  refine .foldl h fun _ _ h1 => ?_
  split
  · exact .ite h1.accDrop.accRun h1
  · exact h1

theorem Canonical.accBegin {x : Access} (h : Canonical s) : Canonical (s.accBegin x) := by
  unfold State.accBegin
  extract_lets u
  have h1 : Canonical u := h.accServe
  exact .ite h1 (.ite h1.accRun h1.same)

theorem Canonical.busRead {src : Src} {a : BitVec 24} (h : Canonical s) : Canonical (s.busRead src a) := h.accBegin

theorem Canonical.busWrite {src : Src} {a : BitVec 24} {d : BitVec 32} (h : Canonical s) : Canonical (s.busWrite src a d) :=
  h.accBegin

theorem Canonical.bwGiveUp {a : BitVec 24} {wr : Bool} (h : Canonical s) : Canonical (s.bwGiveUp a wr) := .ite h.bwDone h

theorem Canonical.accExpire {x : Access} (h : Canonical s) : Canonical (s.accExpire x i) := by
  unfold State.accExpire
  extract_lets u o _ v w z
  have h1 : Canonical u := .ite h.bwGiveUp h
  have h2 : Canonical v := .setRdata h1.same
  have h3 : Canonical w := h2.orReg.seen
  have h4 : Canonical z := by
    dsimp only [z]
    split
    · exact h3.logWrite
    · exact h3
  exact .ite h4.same h4

theorem Canonical.accTimeout {src : Src} {a : BitVec 24} {write : Bool} {d : BitVec 32} (h : Canonical s) :
    Canonical (s.accTimeout src a write d) := by
  unfold State.accTimeout
  dsimp only
  split
  · refine .ite ?_ h
    split
    · exact h.accDrop.accExpire
    · exact h
  · split
    · exact h.accExpire
    · exact h

theorem Canonical.owedOf (h : Canonical s) : Canonical (s.owedOf i) := by
  unfold State.owedOf
  split
  · exact h
  extract_lets
  split
  next e =>
  have h1 := h.freshOf e
  refine .ite h1 ?_
  extract_lets _ u
  have h2 : Canonical u := h1.same
  split
  · exact h2
  · exact .ite h2.fresh.writeReg h2.fresh.bwGiveUp

theorem Canonical.owedArrive (h : Canonical s) : Canonical (s.owedArrive) := h.foldl fun _ _ h1 => .ite h1.owedOf h1

theorem Canonical.tapUpdate (h : Canonical s) : Canonical s.tapUpdate := by
  unfold State.tapUpdate
  extract_lets t u
  have h1 : Canonical u := h.same
  exact .ite h1 (.accBegin h1.same)

theorem Canonical.tckRise {tms tdi : Bool} (h : Canonical s) : Canonical (s.tckRise tms tdi) := by
  unfold State.tckRise
  extract_lets t
  have h1 : Canonical (if t.st = .capIr then s.fresh else (0, s)).2 := by
    split
    · exact h.fresh
    · exact h
  split
  next e =>
  rw [e] at h1
  exact h1.same

theorem Canonical.tckFall (h : Canonical s) : Canonical s.tckFall := by
  unfold State.tckFall
  extract_lets u
  have h1 : Canonical u := .ite h.tapUpdate h
  exact h1.same

theorem Canonical.tapReset (h : Canonical s) : Canonical (s.tapReset) := h.same

theorem Canonical.viaWrite {src : Src} {d : BitVec 32} (h : Canonical s) : Canonical (s.viaWrite src a d) := by
  unfold State.viaWrite
  split
  · exact .ite h.storeAccept h
  · exact h
  · exact h.busWrite

theorem Canonical.viaRead {src : Src} (h : Canonical s) : Canonical (s.viaRead src a) := by
  unfold State.viaRead
  split
  · exact .ite h.loadReturn h
  · exact h
  · exact h.busRead

theorem Canonical.viaWide {src : Src} {d : Word} (h : Canonical s) : Canonical (s.viaWide src a d) := by
  unfold State.viaWide
  split
  · exact .ite h.storeAccept h
  · exact h
  · exact h.busWrite.busWrite.busWrite

theorem Canonical.idle (h : Canonical s) : Canonical (s.idle) := .ite h h.owedArrive.accServe.hwCycle

/-! ### Machine/Nvm.lean -/

theorem Canonical.nvmDo {op : NvmOp} (h : Canonical s) : Canonical (s.nvmDo op) := h.same

theorem Canonical.nvmPower {on : Bool} (h : Canonical s) : Canonical (s.nvmPower on) := .ite h h.setIsl.nvmDo

theorem Canonical.nvmBegin (h : Canonical s) : Canonical s.nvmBegin := by
  unfold State.nvmBegin
  extract_lets u
  have h1 : Canonical u := (h.same : Canonical { s with nvm := {} }).nvmPower.nvmDo
  exact h1.same

theorem Canonical.nvmBoot (h : Canonical s) : Canonical (s.nvmBoot) := h.nvmDo

theorem Canonical.nvmRead {off len : Nat} (h : Canonical s) : Canonical (s.nvmRead off len) := .ite h h.nvmPower.nvmDo

/-! ### Machine/Image.lean -/

theorem Load.Canonical.write {q : Parse} {l : Load} {d : BitVec 32} (h : l.Canonical) : (l.write q a d).Canonical := by
  unfold Load.write
  split
  · exact h
  · exact h.writeReg

theorem Load.Canonical.item {q : Parse} {x : Sect} {l : Load} (h : l.Canonical) :
    Settles Load.Canonical (l.item q x n) := by
  unfold Load.item
  extract_lets d a strict
  split
  · split
    · exact h
    · exact h
  split
  · exact h
  split
  · exact h
  split
  · exact h
  · exact h.write

theorem Load.Canonical.items {q : Parse} {x : Sect} {l : Load} (h : l.Canonical) : Settles Load.Canonical (l.items q x) :=
  .foldlM h fun _ _ h1 => h1.item

theorem Load.Canonical.field {q : Parse} {x : Sect} {l : Load} {mask : Nat} (h : l.Canonical) :
    Settles (fun _ => True) (l.field q x a n mask) := by
  unfold Load.field
  extract_lets v
  split
  · exact h
  · trivial

theorem Load.Canonical.slotWord {q : Parse} {x : Sect} {l : Load} (h : l.Canonical) :
    Settles Load.Canonical (l.slotWord q x n) := by
  refine .bind h.field fun v _ => ?_
  exact Machine.Canonical.ite (Machine.Canonical.setSlottab h) (Machine.Canonical.setThcfg h)

theorem Load.Canonical.progWord {q : Parse} {x : Sect} {l : Load} (h : l.Canonical) :
    Settles Load.Canonical (l.progWord q x k n) :=
  .bind h.field fun _ _ => Machine.Canonical.modGrove h

theorem Load.Canonical.program {q : Parse} {x : Sect} {l : Load} (h : l.Canonical) :
    Settles Load.Canonical (l.program q x) :=
  .bind h.field fun _ _ => .foldlM h fun _ _ h1 => h1.progWord

theorem Load.Canonical.engineWord {q : Parse} {x : Sect} {l : Load} (h : l.Canonical) :
    Settles Load.Canonical (l.engineWord q x n) :=
  .bind h.field fun _ _ => Machine.Canonical.modPort h

theorem Load.Canonical.initEntry {q : Parse} {x : Sect} {l : Load} (h : l.Canonical) :
    Settles Load.Canonical (l.initEntry q x n) :=
  .bind h.field fun _ _ => Machine.Canonical.modStart h

theorem Load.Canonical.apply {q : Parse} {stopped : Bool} {x : Sect} {l : Load} (h : l.Canonical) :
    Settles Load.Canonical (l.apply q stopped x) := by
  unfold Load.apply
  split
  · exact h
  split
  · generalize upto 640 = words
    exact .foldlM h fun _ _ h1 => h1.slotWord
  · exact h.program
  · split
    · exact h
    · generalize upto 48 = words
      exact .foldlM h fun _ _ h1 => h1.engineWord
  · exact Machine.Canonical.modStart h
  · exact Settles.foldlM h fun _ _ h1 => h1.initEntry
  · exact h.items

theorem Load.Canonical.sect {q : Parse} {stopped : Bool} {x : Sect} {l : Load} (h : l.Canonical) :
    Settles Load.Canonical (l.sect q stopped x) := by
  unfold Load.sect
  extract_lets u
  have h1 : u.Canonical := Machine.Canonical.nvmRead h
  split
  · split
    · exact h1.apply
    · exact h1
  · exact h.apply

/-! ### Machine/Start.lean -/

theorem Canonical.powered {phase : Phase} : Canonical (s.powered phase) := ⟨rfl, fun _ => rfl⟩

theorem Canonical.srstAssert (h : Canonical s) : Canonical (s.srstAssert) := by
  unfold State.srstAssert
  dsimp only
  split
  · exact h.modStart
  · exact h.modStart
  · exact h.modStart.requestStart.startReset.modStart

theorem Canonical.srstRelease (h : Canonical s) : Canonical (s.srstRelease) := .ite h.modStart.requestStart h.modStart

theorem Canonical.retry (h : Canonical s) : Canonical (s.retry) := .ite h.modStart h

theorem Canonical.attemptBegin {env : StartEnv} (h : Canonical s) : Canonical (s.attemptBegin env) := by
  unfold State.attemptBegin
  extract_lets u v w z
  have h1 : Canonical u := h.startReset
  have h2 : Canonical v := .ite h1.eccEvent.orReg.modStart h1
  have h3 : Canonical w := h2.modStart
  exact .startEvent (.ite h3.same h3)

theorem Canonical.step2Begin (h : Canonical s) : Canonical (s.step2Begin) := h.same.modStart

theorem Canonical.noteLink {env : StartEnv} (h : Canonical s) : Canonical (s.noteLink env) := by
  unfold State.noteLink
  split
  · exact h.modStart
  · exact h

theorem Canonical.clearHeartImage (h : Canonical s) : Canonical s.clearHeartImage :=
  .ite h (h.regsOnly (wf_mask (q := fun a => a = 0x10028) (SMap.wf_filter h.regs_wf _)))

theorem Canonical.takeHeader {b : List Byte} (h : Canonical s) : Canonical (s.takeHeader b) := h.modStart.modLookup

theorem Canonical.startPort (h : Canonical s) : Canonical (s.startPort p) := h.writePortctl

theorem Canonical.openEarly (h : Canonical s) : Canonical (s.openEarly) :=
  h.foldl fun _ _ h1 => .ite h1.startPort.startPort.openLane h1

theorem Canonical.step7 {b : List Byte} (h : Canonical s) : Canonical (s.step7 b) := by
  unfold State.step7
  extract_lets u q
  have h1 : Canonical u := h.modStart.clearHeartImage.takeHeader
  have h2 : Settles Load.Canonical ((loadOrder b).foldlM (Load.sect q u.start.stopped) { st := u, absent := [] }) :=
    .foldlM h1 fun _ _ h2 => h2.sect
  split
  · next e =>
    rw [e] at h2
    exact Canonical.startFail h2
  · next e =>
    rw [e] at h2
    split
    · exact Canonical.startFail h2
    · exact (Canonical.recActivate h2).openEarly.startEvent.modStart

theorem Canonical.step6 {b : List Byte} (h : Canonical s) : Canonical (s.step6 b) := by
  unfold State.step6
  dsimp only
  split
  · exact h.nvmPower.startEvent.modStart.startFail
  · exact h.nvmPower.startEvent.modStart.modStart.startEvent.step7

theorem Canonical.step5Reads {env : StartEnv} {b : List Byte} (h : Canonical s) : Canonical (s.step5Reads env b) := by
  unfold State.step5Reads
  extract_lets u _ v
  have h1 : Canonical u := h.nvmBegin.nvmBoot
  have h2 : Canonical v := h1.same
  exact .ite h1 h2.nvmRead

theorem Canonical.step5 {env : StartEnv} (h : Canonical s) : Canonical (s.step5 env) := by
  unfold State.step5
  dsimp only
  split
  · exact h.modStart.step5Reads.startFail
  · refine .ite (.step7 (.startEvent (.startEvent (.modStart (.ite h.modStart.step5Reads.orReg h.modStart.step5Reads))))) ?_
    split
    · exact .startFail (.ite h.modStart.step5Reads.orReg h.modStart.step5Reads)
    · exact .step6 (.ite h.modStart.step5Reads.orReg h.modStart.step5Reads)

theorem Canonical.runStart {env : StartEnv} (h : Canonical s) : Canonical (s.runStart env) := by
  unfold State.runStart
  extract_lets u v
  have h1 : Canonical u := h.attemptBegin.step2Begin
  refine .ite h ?_
  split
  · exact h1.noteLink.startFail
  have h2 : Canonical v := h1.startEvent.modStart
  split
  · exact h2.startFail
  · exact h2.startEvent.modStart.startEvent.step5.nvmPower

theorem Canonical.recResume {retained : Bool} (h : Canonical s) : Canonical (s.recResume retained) :=
  .modStart (.modRec (.ite h.count.count.modRec h.modRec))

theorem Canonical.step8Pass {retained : Bool} (h : Canonical s) : Canonical (s.step8Pass retained) := by
  unfold State.step8Pass
  extract_lets v w u x
  have h1 : Canonical u := h.recResume
  have h2 : Canonical x := h1.same
  exact h2.modStart.startEvent.writeHeld

theorem Canonical.tableResume (h : Canonical s) : Canonical (s.tableResume t) := by
  unfold State.tableResume
  refine .ite h ?_
  split
  next e =>
  refine .rebuildFilters (.setTbl (.countTable ?_))
  have h1 := congrArg Prod.snd e
  dsimp only at h1
  rw [← h1]
  split
  · split
    · exact h
    · exact h.fresh
  · exact h.fresh

theorem Canonical.loadWrite {w : LkWrite} (h : Canonical s) : Canonical (s.loadWrite t w) := by
  unfold State.loadWrite
  split
  · exact h.modTbl.addFilter.cacheIn.countSlot
  · exact h.modTbl

theorem Canonical.loadInsert {c : Cmd} (h : Canonical s) : Canonical (s.loadInsert t c).2 := by
  unfold State.loadInsert
  extract_lets u d v e w
  have h1 : Canonical u := h.setCmd
  have h2 : Canonical v := .ite h1.cmdRan (.ite h1.cmdRan h1.cmdInsert)
  have h3 : Canonical w := (h2.foldl fun _ _ h3 => h3.loadWrite).setCmd
  exact .ite h3.tblCount h3

theorem Canonical.loadRecord {b : List Byte} {relaxed : Bool} {x : TblSect} (h : Canonical s) :
    Settles Canonical (s.loadRecord b relaxed x n) := by
  unfold State.loadRecord
  extract_lets o word bad u
  have h1 : Canonical u.2 := h.loadInsert
  split
  · exact h
  split
  · exact h
  split
  · exact h1
  · exact h1

theorem Canonical.clearLoad (h : Canonical s) : Settles Canonical (s.clearLoad t) := h.tblEmpty.countTable

/-- A unit of the table load that keeps the maps canonical. -/
def LoadUnit.Keeps (f : LoadUnit) : Prop := ∀ s, Canonical s → Settles Canonical (f s)

theorem loadTable_keeps {nvm : List Byte} {x : TblSect} {f : LoadUnit} (hf : f ∈ s.loadTable nvm x) : f.Keeps := by
  unfold State.loadTable at hf
  rcases List.mem_cons.1 hf with rfl | hf
  · intro u h
    beta_reduce
    extract_lets v
    have h1 : Canonical v := .ite h.nvmRead h
    generalize decide (sha256 _ ≠ _) = bad
    split
    · exact h1
    · exact h1
  · obtain ⟨i, -, rfl⟩ := List.mem_map.1 hf
    exact fun u h => h.loadRecord

theorem loadUnits_keeps {nvm : List Byte} : ∀ f ∈ s.loadUnits nvm, f.Keeps := by
  intro f hf
  unfold State.loadUnits at hf
  dsimp only at hf
  split at hf
  · obtain ⟨t, -, rfl⟩ := List.mem_map.1 hf
    exact fun u h => h.tableResume
  rcases List.mem_append.1 hf with hf | hf
  · obtain ⟨t, -, rfl⟩ := List.mem_map.1 hf
    exact fun u h => h.clearLoad
  · obtain ⟨x, -, hf⟩ := List.mem_flatMap.1 hf
    exact loadTable_keeps hf

theorem Canonical.runLoad {us : List LoadUnit} (h : Canonical s) (hu : ∀ f ∈ us, f.Keeps) :
    Settles Canonical (s.runLoad us) := by
  induction us generalizing s with
  | nil => exact h
  | cons f us ih =>
    exact .bind (hu f List.mem_cons_self s h) fun u h1 => ih h1 fun f hf => hu f (List.mem_cons_of_mem _ hf)

theorem Canonical.beginInit (h : Canonical s) : Canonical (s.beginInit) := h.modStart

theorem Canonical.step9Pass (h : Canonical s) : Canonical (s.step9Pass) :=
  .ite h.modLookup.startEvent.startEvent.beginInit h.modLookup.startEvent.modStart

theorem Canonical.loadFail (h : Canonical s) : Canonical (s.loadFail p) := by
  unfold State.loadFail
  split
  next e =>
  split
  next e' =>
  have h1 := (h.freshOf e).freshOf e'
  extract_lets v write q tag sent out
  have h2 : ∀ u, Canonical u → Canonical (out u) := fun _ h2 => h2.mpstat.count.memEvent
  split
  · exact (h2 _ h1.count).modMem
  · exact h2 _ h1
  · exact h1.count.memErr

theorem Canonical.partLoad {u : LoadUnit} (h : Canonical s) : Canonical (s.partLoad u) :=
  h.fresh.foldl fun _ _ h2 => h2.foldl fun _ _ h3 => h3.count

theorem Canonical.loadBroken {us : List LoadUnit} (h : Canonical s) (hu : ∀ f ∈ us, f.Keeps) :
    Canonical (s.loadBroken us p) := by
  unfold State.loadBroken
  split
  next e =>
  have h1 := fun k => (h.freshOf e).runLoad fun f hf => hu f (List.mem_of_mem_take (i := k) hf)
  extract_lets k
  replace h1 := h1 k
  split
  · next e1 =>
    rw [e1] at h1
    exact Canonical.startFail h1
  · next e1 =>
    rw [e1] at h1
    replace h1 : Canonical _ := h1
    dsimp only
    split
    · exact h1.partLoad.loadFail.startFail
    · exact h1.loadFail.startFail

theorem Canonical.step9 {nvm : List Byte} {fail : Option (Fin 12)} (h : Canonical s) : Canonical (s.step9 nvm fail) := by
  unfold State.step9
  extract_lets u us
  have h1 : Canonical u := h.modStart
  have h2 : Settles Canonical (u.runLoad us) := h1.runLoad loadUnits_keeps
  have h3 : Canonical (match u.runLoad us with | .error (f, s) => s.startFail 9 f | .ok s => s.step9Pass) := by
    split
    · next e =>
      rw [e] at h2
      exact Canonical.startFail h2
    · next e =>
      rw [e] at h2
      exact Canonical.step9Pass h2
  split
  · exact .ite (h1.loadBroken loadUnits_keeps) h3
  · exact h3

theorem Canonical.memoryStep {nvm : List Byte} {retained : Bool} {fail : Option (Fin 12)} (h : Canonical s) :
    Canonical (s.memoryStep nvm retained fail) :=
  .ite h h.step8Pass.step9.nvmPower

theorem Canonical.memoryTimeout (h : Canonical s) : Canonical (s.memoryTimeout) := by
  unfold State.memoryTimeout
  split
  · exact .ite h.startFail h
  · exact h

theorem Canonical.timeStep10 (h : Canonical s) : Canonical (s.timeStep10) :=
  .ite h (.ite h.acquireFree.startEvent.beginInit (.ite h.acquirePps.startEvent.beginInit h))

theorem Canonical.timeTimeout (h : Canonical s) : Canonical (s.timeTimeout) := .ite h.acquireFree.startEvent.beginInit h

theorem Canonical.initBegin (h : Canonical s) : Canonical (s.initBegin) :=
  .modStart (.foldl (h.foldl fun _ _ h5 => .ite h5.startThread h5) fun _ _ h3 => .ite
    (h3.foldl fun _ _ h4 => h4.requestService) h3)

theorem Canonical.initMask (h : Canonical s) : Canonical (s.initMask) := h.foldl fun _ _ h1 => .ite h1.orReg h1

theorem Canonical.dispRise (h : Canonical s) : Canonical (s.dispRise) := h.foldl fun _ _ h1 => h1.same.modPort

theorem Canonical.step12 (h : Canonical s) : Canonical (s.step12) :=
  .ringsAttach (.startEvent (.modStart (.orReg (.dispRise (.orReg (.foldl
    (h.modStart.foldl fun _ _ h7 => .ite h7.startPort h7) fun _ _ h6 => .ite h6.openLane h6))))))

theorem Canonical.initStep (h : Canonical s) : Canonical (s.initStep) := by
  unfold State.initStep
  dsimp only
  split
  · exact h.startFail
  · exact h.startFail
  · exact h.initBegin
  · exact .ite h.initMask.startEvent.step12 h.initMask
  · exact h

theorem Canonical.initTimeout (h : Canonical s) : Canonical (s.initTimeout) := by
  unfold State.initTimeout
  split
  · exact .ite h.startFail h
  · exact h

/-! ### Machine/Dispatch.lean -/

/-- The state that a command's answer carries, if any, is canonical. -/
def Kept : Host.Outcome State Fault Refusal → Prop
  | .next t => Canonical t
  | .fault _ | .refused _ => True

theorem Canonical.aluCommand {mn : Mn} {op : FInstr → Thread → Thread} {id : Thid} (h : Canonical s) :
    Kept (aluCommand mn op id s) := Canonical.runInstr h fun _ _ h => h.regStep

theorem Canonical.execDone {th : Thid} (h : Canonical s) : Kept (execDone th s) :=
  Canonical.ite (h.runInstr fun _ _ h => h.bodyDone) h

theorem Canonical.execDonePark {th : Thid} (h : Canonical s) : Kept (execDonePark th s) :=
  Canonical.ite h (h.runInstr fun _ _ h => h.bodyDone)

theorem Canonical.execDebugHaltTaken {th : Thid} (h : Canonical s) : Kept (execDebugHaltTaken th s) := by
  unfold Machine.execDebugHaltTaken
  refine Canonical.ite h ?_
  split
  · exact h.cancelWait.modThread
  · exact h.modThread
  · exact h

theorem Canonical.execIdleSlot {g : Fin 8} {c : Fin 32} (h : Canonical s) : Kept (execIdleSlot g c s) :=
  Canonical.ite h.openCycle.coreTick h

theorem Canonical.execSlotTableActivate {g : Fin 8} {c : Fin 32} (h : Canonical s) : Kept (execSlotTableActivate g c s) := by
  unfold Machine.execSlotTableActivate
  dsimp only
  split
  · exact .ite h.modCore h
  · exact h

theorem Canonical.execServiceModeEntry {g : Fin 8} {c : Fin 32} (h : Canonical s) : Kept (execServiceModeEntry g c s) :=
  Canonical.ite h.enterService h

theorem Canonical.execMaintenanceModeEntry {g : Fin 8} {c : Fin 32} (h : Canonical s) : Kept (execMaintenanceModeEntry g c s) :=
  Canonical.ite h.enterMaint h

theorem Canonical.execHelperResult {th : Thid} (h : Canonical s) : Kept (execHelperResult th s) :=
  Canonical.ite h.helperResult h

theorem Canonical.execExtensionRequestTransfer {g : Fin 8} (h : Canonical s) : Kept (execExtensionRequestTransfer g s) := by
  unfold Machine.execExtensionRequestTransfer
  split
  · exact .ite h.modGrove h
  · exact h

theorem Canonical.execExtensionAnswer {g : Fin 8} {xathid : Thid} {err : Bool} {data : Word} (h : Canonical s) :
    Kept (execExtensionAnswer g xathid err data s) := by
  unfold Machine.execExtensionAnswer
  refine Canonical.ite h ?_
  refine .ite h.modGrove.xErr.failLoad ?_
  split
  · split
    · exact h.modGrove.modThread
    · exact h.modGrove
  · exact h.modGrove

theorem Canonical.execExtensionTimeout {th : Thid} (h : Canonical s) : Kept (execExtensionTimeout th s) :=
  Canonical.ite h.modGrove.xErr.failLoad h

theorem Canonical.execWatchdogExpiry {g : Fin 8} (h : Canonical s) : Kept (execWatchdogExpiry g s) :=
  Canonical.ite (.ite h.modGrove.orReg.groveFatal h.modGrove.orReg) h

theorem Canonical.execAbandonCompletionEntry {g : Fin 8} (h : Canonical s) : Kept (execAbandonCompletionEntry g s) :=
  Canonical.ite h.serveAband h

theorem Canonical.execIngressWord {p : Fin 128} (h : Canonical s) : Kept (execIngressWord p s) := by
  unfold Machine.execIngressWord
  split
  · exact h.popLink.ingressWord
  · exact h

theorem Canonical.execFrameEnd {p : Fin 128} (h : Canonical s) : Kept (execFrameEnd p s) := by
  unfold Machine.execFrameEnd
  split
  · exact h
  · exact h.popLink.endFrame
  · exact h

theorem Canonical.execDescriptorIssue (h : Canonical s) : Kept (execDescriptorIssue s) :=
  Canonical.ite h.releaseLost.issueDescs h

theorem Canonical.execGroveCreditReturn {g : Fin 8} (h : Canonical s) : Kept (execGroveCreditReturn g s) := by
  unfold Machine.execGroveCreditReturn
  split
  · exact h.popLink.modTrunk
  · exact h

theorem Canonical.execDescriptorArrival {g : Fin 8} (h : Canonical s) : Kept (execDescriptorArrival g s) := by
  unfold Machine.execDescriptorArrival
  split
  · exact .ite h.popLink.placeDesc h
  · exact h

theorem Canonical.execStoreBufferDrain {th : Thid} {other : Option Thid} (h : Canonical s) :
    Kept (execStoreBufferDrain th other s) :=
  Canonical.ite h.drain h

theorem Canonical.execStoreTimeout {th : Thid} (h : Canonical s) : Kept (execStoreTimeout th s) :=
  Canonical.ite h.storeTimeout h

theorem Canonical.execLoadTimeout {th : Thid} (h : Canonical s) : Kept (execLoadTimeout th s) := Canonical.ite h.loadTimeout h

theorem Canonical.execEngineReservedFetch {p : Fin 128} {e : Fin 4} (h : Canonical s) : Kept (execEngineReservedFetch p e s) :=
  Canonical.ite h.engError h

theorem Canonical.execEngineSignal {g : Fin 8} (h : Canonical s) : Kept (execEngineSignal g s) := by
  unfold Machine.execEngineSignal
  split
  · exact .ite h.popLink.setLine h.popLink
  · exact h

theorem Canonical.execHandoverComplete {g : Fin 8} {bp : Fin 34} (h : Canonical s) : Kept (execHandoverComplete g bp s) :=
  Canonical.ite h.modGrove.wakeBank h

theorem Canonical.execBankClearComplete {g : Fin 8} {bank : Fin 32} (h : Canonical s) :
    Kept (execBankClearComplete g bank s) := by
  unfold Machine.execBankClearComplete
  split
  · exact .ite (h.eraseBank.modGrove.foldl fun _ _ h2 => h2.wakeBank) h
  · exact h

theorem Canonical.execEccWriteback {g : Fin 8} {word : BitVec 17} (h : Canonical s) : Kept (execEccWriteback g word s) :=
  Canonical.ite h.modGrove h

theorem Canonical.execScrubRead {g : Fin 8} {bank : Fin 32} (h : Canonical s) : Kept (execScrubRead g bank s) :=
  Canonical.ite h.readSpad.modGrove h

theorem Canonical.execDmaWord {g k : Fin 8} (h : Canonical s) : Kept (execDmaWord g k s) := Canonical.ite h.modGrove.dmaWord h

theorem Canonical.execStallCensus {g : Fin 8} (h : Canonical s) : Kept (execStallCensus g s) := Canonical.ite h.census h

theorem Canonical.execLookupRequest {g : Fin 8} (h : Canonical s) : Kept (execLookupRequest g s) := by
  unfold Machine.execLookupRequest
  split
  · exact .ite h.popLink.lkAccept h
  · exact h

theorem Canonical.execLookupProbeReturn {th : Thid} (h : Canonical s) : Kept (execLookupProbeReturn th s) := by
  unfold Machine.execLookupProbeReturn
  split
  · exact h.probeDone.cmdKick
  · exact h

theorem Canonical.execLookupResult {th : Thid} (h : Canonical s) : Kept (execLookupResult th s) := by
  unfold Machine.execLookupResult
  split
  · exact h
  · dsimp only
    split
    · exact h.modLookup.cmdKick
    · refine .ite h.modLookup.cmdKick ?_
      split
      · exact h.modLookup.cmdKick.failLoad
      · exact h.modLookup.cmdKick.deliver

theorem Canonical.execBadop {sl : LkSlot} (h : Canonical s) : Kept (execBadop sl s) := Canonical.ite h.cmdRun h

theorem Canonical.execLkcmdStatusRead {th : Thid} {i : Fin 16} (h : Canonical s) : Kept (execLkcmdStatusRead th i s) := by
  unfold Machine.execLkcmdStatusRead
  split
  · exact .ite h.readLkWord.deliver h
  · exact h

theorem Canonical.execTimerMatch {g : Fin 8} {k : Fin 32} (h : Canonical s) : Kept (execTimerMatch g k s) :=
  Canonical.ite h.timMatch h

theorem Canonical.execTimerCapture {g : Fin 8} {k : Fin 32} (h : Canonical s) : Kept (execTimerCapture g k s) :=
  Canonical.ite h.timCapture h

theorem Canonical.execLlynonWordDelivery {path : LinkPath} (h : Canonical s) : Kept (execLlynonWordDelivery path s) := by
  unfold Machine.execLlynonWordDelivery
  split
  · exact h.laneDeliver
  · exact h.copyDeliver
  · exact h.linkDeliver

theorem Canonical.execRecordStage {i : Fin 18} (h : Canonical s) : Kept (execRecordStage i s) := by
  unfold Machine.execRecordStage
  split
  · exact .ite h.popLink.recStage h
  · exact h

theorem Canonical.execRecordWrite (h : Canonical s) : Kept (execRecordWrite s) := Canonical.ite h.recWrite h

theorem Canonical.execMemoryRequestTransfer {p : Fin 12} {write : Bool} (h : Canonical s) :
    Kept (execMemoryRequestTransfer p write s) :=
  Canonical.ite h.memTransfer h

theorem Canonical.execMemoryReadResponse {p : Fin 12} {tag : Fin 512} {err : Bool} {data : Word} (h : Canonical s) :
    Kept (execMemoryReadResponse p tag err data s) :=
  Canonical.ite h.memReadResp h

theorem Canonical.execMemoryWriteAck {p : Fin 12} {tag : Fin 512} {err : Bool} (h : Canonical s) :
    Kept (execMemoryWriteAck p tag err s) :=
  Canonical.ite h.memWriteAck h

theorem Canonical.execMemoryTimeout {p : Fin 12} (h : Canonical s) : Kept (execMemoryTimeout p s) :=
  Canonical.ite h.memTimeout h

theorem Canonical.execSlewComplete (h : Canonical s) : Kept (execSlewComplete s) := Canonical.ite h.modTime h

theorem Canonical.execLoadDataReturn {th : Thid} (h : Canonical s) : Kept (execLoadDataReturn th s) := by
  unfold Machine.execLoadDataReturn
  split
  · exact .ite h.loadReturn h
  · exact h

theorem Canonical.execStoreAcceptance {th : Thid} (h : Canonical s) : Kept (execStoreAcceptance th s) :=
  Canonical.ite h.storeAccept h

theorem Canonical.execStartcmdGo {src : Src} {d : BitVec 32} (h : Canonical s) : Kept (execStartcmdGo src d s) :=
  Canonical.ite h.viaWrite h

theorem Canonical.execDabandon {src : Src} {g : Fin 8} {d : BitVec 32} (h : Canonical s) : Kept (execDabandon src g d s) := by
  unfold Machine.execDabandon
  split
  · exact .ite h.dabandon h
  · exact h.viaWrite

theorem Canonical.execEngineHalt {src : Src} {p : Fin 128} {e : Fin 4} {d : BitVec 32} (h : Canonical s) :
    Kept (execEngineHalt src p e d s) :=
  Canonical.ite h.viaWrite h

theorem Canonical.execEngineFlush {src : Src} {p : Fin 128} {e : Fin 4} {d : BitVec 32} (h : Canonical s) :
    Kept (execEngineFlush src p e d s) :=
  Canonical.ite h.viaWrite h

theorem Canonical.execEngineResume {src : Src} {p : Fin 128} {e : Fin 4} {d : BitVec 32} (h : Canonical s) :
    Kept (execEngineResume src p e d s) :=
  Canonical.ite h.viaWrite h

theorem Canonical.execEngineStateWrite {src : Src} {p : Fin 128} {e : Fin 4} {r : EngineReg} {d : Word} (h : Canonical s) :
    Kept (execEngineStateWrite src p e r d s) := by
  unfold Machine.execEngineStateWrite
  split
  · exact h.viaWide
  · exact h.viaWide
  · exact h.viaWrite

theorem Canonical.execDebugHalt {src : Src} {target : HaltTarget} (h : Canonical s) : Kept (execDebugHalt src target s) := by
  unfold Machine.execDebugHalt
  split <;> exact h.viaWrite

theorem Canonical.execDebugResume {src : Src} {target : HaltTarget} (h : Canonical s) : Kept (execDebugResume src target s) :=
    by
  unfold Machine.execDebugResume
  split <;> exact h.viaWrite

theorem Canonical.execDmaGo {src : Src} {g k : Fin 8} {d : BitVec 32} (h : Canonical s) : Kept (execDmaGo src g k d s) :=
  Canonical.ite h.viaWrite h

theorem Canonical.execDmaStop {src : Src} {g k : Fin 8} {d : BitVec 32} (h : Canonical s) : Kept (execDmaStop src g k d s) :=
  Canonical.ite h.viaWrite h

theorem Canonical.execTableEnable {src : Src} {t : Fin 64} {d : BitVec 32} (h : Canonical s) :
    Kept (execTableEnable src t d s) :=
  Canonical.ite h.viaWrite h

theorem Canonical.execTableDisable {src : Src} {t : Fin 64} {d : BitVec 32} (h : Canonical s) :
    Kept (execTableDisable src t d s) :=
  Canonical.ite h h.viaWrite

theorem Canonical.execTimeStep {src : Src} {d : BitVec 32} (h : Canonical s) : Kept (execTimeStep src d s) :=
  Canonical.ite h.viaWrite h

theorem Canonical.execTimeSlew {src : Src} {d : BitVec 32} (h : Canonical s) : Kept (execTimeSlew src d s) :=
  Canonical.ite h h.viaWrite

theorem Canonical.execIslandWake {src : Src} {i : Fin 18} (h : Canonical s) : Kept (execIslandWake src i s) :=
  Canonical.ite h (.ite h.viaWrite h.viaWrite)

theorem Canonical.execLatchRead {src : Src} {a : BitVec 24} (h : Canonical s) : Kept (execLatchRead src a s) :=
  Canonical.ite h.viaRead h

theorem Canonical.execTapUpdateDr (h : Canonical s) : Kept (execTapUpdateDr s) := Canonical.ite h.tapUpdate h

theorem Canonical.execTckEdge {rising tms tdi : Bool} (h : Canonical s) : Kept (execTckEdge rising tms tdi s) :=
  Canonical.ite h (.ite h.tckRise h.tckFall)

theorem Canonical.execPowerOn (h : Canonical s) : Kept (execPowerOn s) := Canonical.ite .powered h

/-- Every command answers with a canonical state. -/
theorem Canonical.exec (h : Canonical s) : ∀ i, Kept (exec i s)
  | .powerOn => h.execPowerOn
  | .srstAssert => h.srstAssert
  | .srstRelease => h.srstRelease
  | .startcmdGo _ _ => h.execStartcmdGo
  | .startReset _ => h.runStart
  | .memoryStep _ _ _ => h.memoryStep
  | .memoryStepTimeout => h.memoryTimeout
  | .timeAcquisition => h.timeStep10
  | .acquisitionTimeout => h.timeTimeout
  | .initialisation => h.initStep
  | .initialisationTimeout => h.initTimeout
  | .retryBackoffExpiry => h.retry
  | .initrptWrite _ _ _ => h.viaWrite
  | .llynonWordDelivery _ => h.execLlynonWordDelivery
  | .canopyTick => h.canopyTick
  | .ingressWord _ => h.execIngressWord
  | .frameEnd _ => h.execFrameEnd
  | .sequenceAssignment => h.assign
  | .descriptorIssue => h.execDescriptorIssue
  | .groveCreditReturn _ => h.execGroveCreditReturn
  | .descriptorArrival _ => h.execDescriptorArrival
  | .completionAccept _ => h.acceptEntry
  | .retirement => h.retirement
  | .holtTimeout _ => h.holTimeout
  | .dabandon _ _ _ => h.execDabandon
  | .abandonCompletionEntry _ => h.execAbandonCompletionEntry
  | .dommapWrite _ _ _ _ => h.viaWrite
  | .bufcfgWrite _ _ _ => h.viaWrite
  | .shareWrite _ _ _ _ => h.viaWrite
  | .infpeakRead _ => h.viaRead
  | .copySelect _ => h.copySelect
  | .pauseLimitExpiry _ _ => h.pauseExpire
  | .gateEntryChange _ => h.gateEval
  | .glswap _ _ => h.viaWrite
  | .gateBankSwap _ => h.gateSwap
  | .gateListWrite _ _ _ => h.viaWrite
  | .etsqRead _ _ => h.viaRead
  | .portEnableWrite _ _ _ => h.viaWrite
  | .portUp _ => h.portUp
  | .drainFlush _ => h.drainFlush
  | .drainComplete _ => h.drainComplete
  | .expressFrame _ _ => h.express
  | .duplicateDiscardRequest _ => h.dupRequest
  | .ringcfgWrite _ _ _ => h.viaWrite
  | .rxWord _ _ => h.rxWord
  | .pinEdge _ _ _ => h.pinEdge
  | .txTransferSlot _ => h.txSlot
  | .engineMov _ _ => h.runEngine fun _ _ _ h => h.engMov
  | .shin _ _ => h.runEngine fun _ _ _ h => h.engShin
  | .shout _ _ => h.runEngine fun _ _ _ h => h.engShout
  | .wait _ _ => h.runEngine fun _ _ _ h => h.engWait
  | .jmp _ _ => h.runEngine fun _ _ _ h => h.engJmp
  | .setp _ _ => h.runEngine fun _ _ _ h => h.engSetp
  | .enginePush _ _ => h.runEngine fun _ _ _ h => h.engPush
  | .pull _ _ => h.runEngine fun _ _ _ h => h.engPull
  | .cnt _ _ => h.runEngine fun _ _ _ h => h.engCnt
  | .mark _ _ => h.runEngine fun _ _ _ h => h.engMark
  | .engineReservedFetch _ _ => h.execEngineReservedFetch
  | .engineSignal _ => h.execEngineSignal
  | .engineHalt _ _ _ _ => h.execEngineHalt
  | .engineFlush _ _ _ _ => h.execEngineFlush
  | .engineResume _ _ _ _ => h.execEngineResume
  | .ectlWrite _ _ _ _ => h.viaWrite
  | .estatWrite _ _ _ _ => h.viaWrite
  | .engineStateWrite _ _ _ _ _ => h.execEngineStateWrite
  | .pullqWrite _ _ _ _ => h.viaWide
  | .pushqRead _ _ _ => h.viaRead
  | .engineStoreWrite _ _ _ _ => h.viaWrite
  | .pecfgWrite _ _ _ => h.viaWrite
  | .slotTableActivate _ _ => h.execSlotTableActivate
  | .syncRegisterWrite _ _ _ _ _ => h.viaWrite
  | .coresyncCore _ _ _ => h.viaWrite
  | .coresyncThreads _ _ _ _ => h.viaWrite
  | .loadDataReturn _ => h.execLoadDataReturn
  | .storeBufferDrain _ _ => h.execStoreBufferDrain
  | .storeAcceptance _ => h.execStoreAcceptance
  | .storeTimeout _ => h.execStoreTimeout
  | .loadTimeout _ => h.execLoadTimeout
  | .packetWindowRequest _ => h.servePacket
  | .thcmdStart _ _ => h.viaWrite
  | .thcmdPark _ _ => h.viaWrite
  | .thpcWrite _ _ _ => h.viaWrite
  | .serviceModeRequest _ _ _ => h.viaWrite
  | .serviceModeEntry _ _ => h.execServiceModeEntry
  | .maintenanceModeRequest _ _ _ => h.viaWrite
  | .maintenanceModeEntry _ _ => h.execMaintenanceModeEntry
  | .istoreCommit _ _ _ => h.viaWrite
  | .istoreRead _ _ => h.viaRead
  | .nop _ => h.aluCommand
  | .add _ => h.aluCommand
  | .adc _ => h.aluCommand
  | .sub _ => h.aluCommand
  | .sbc _ => h.aluCommand
  | .and _ => h.aluCommand
  | .or _ => h.aluCommand
  | .xor _ => h.aluCommand
  | .andn _ => h.aluCommand
  | .shl _ => h.aluCommand
  | .shr _ => h.aluCommand
  | .sar _ => h.aluCommand
  | .rol _ => h.aluCommand
  | .cmp _ => h.aluCommand
  | .tst _ => h.aluCommand
  | .mul _ => h.aluCommand
  | .mov _ => h.aluCommand
  | .neg _ => h.aluCommand
  | .addi _ => h.aluCommand
  | .adci _ => h.aluCommand
  | .subi _ => h.aluCommand
  | .sbci _ => h.aluCommand
  | .andi _ => h.aluCommand
  | .ori _ => h.aluCommand
  | .xori _ => h.aluCommand
  | .andni _ => h.aluCommand
  | .shli _ => h.aluCommand
  | .shri _ => h.aluCommand
  | .sari _ => h.aluCommand
  | .roli _ => h.aluCommand
  | .cmpi _ => h.aluCommand
  | .tsti _ => h.aluCommand
  | .movi _ => h.aluCommand
  | .insi _ => h.aluCommand
  | .ext _ => h.aluCommand
  | .ins _ => h.aluCommand
  | .clz _ => h.aluCommand
  | .sel _ => h.aluCommand
  | .pset _ => h.aluCommand
  | .ldw _ => h.runInstr fun _ _ h => h.bodyLdw
  | .stw _ => h.runInstr fun _ _ h => h.bodyStw
  | .ld _ => h.runInstr fun _ _ h => h.bodyLd
  | .st _ => h.runInstr fun _ _ h => h.bodySt
  | .stm _ => h.runInstr fun _ _ h => h.bodyStm
  | .lds _ => h.runInstr fun _ _ h => h.bodyLds
  | .sts _ => h.runInstr fun _ _ h => h.bodySts
  | .push _ => h.runInstr fun _ _ h => h.bodyPush
  | .pop _ => h.runInstr fun _ _ h => h.bodyPop
  | .bmov _ => h.runInstr fun _ _ h => h.bodyBmov
  | .macx _ => h.runInstr fun _ _ h => h.bodyMacx
  | .macxI _ => h.runInstr fun _ _ h => h.bodyMacxI
  | .macxC _ => h.runInstr fun _ _ h => h.bodyMacxC
  | .aadd _ => h.runInstr fun _ _ h => h.bodyAadd
  | .aswp _ => h.runInstr fun _ _ h => h.bodyAswp
  | .b _ => h.runInstr fun _ _ h => h.bodyB
  | .call _ => h.runInstr fun _ _ h => h.bodyCall
  | .jr _ => h.runInstr fun _ _ h => h.bodyJr
  | .callr _ => h.runInstr fun _ _ h => h.bodyCallr
  | .ret _ => h.runInstr fun _ _ h => h.bodyRet
  | .retx _ => h.runInstr fun _ _ h => h.bodyRetx
  | .mfc _ => h.runInstr fun _ _ h => h.bodyMfc
  | .mtc _ => h.runInstr fun _ _ h => h.bodyMtc
  | .sync _ => h.runInstr fun _ _ h => h.bodySync
  | .trap _ => h.runInstr fun _ _ h => h.bodyTrap
  | .done _ => h.execDone
  | .donePark _ => h.execDonePark
  | .lock _ => h.runInstr fun _ _ h => h.bodyLock
  | .tryl _ => h.runInstr fun _ _ h => h.bodyTryl
  | .unlk _ => h.runInstr fun _ _ h => h.bodyUnlk
  | .waite _ => h.runInstr fun _ _ h => h.bodyWaite
  | .sige _ => h.runInstr fun _ _ h => h.bodySige
  | .clre _ => h.runInstr fun _ _ h => h.bodyClre
  | .send _ => h.runInstr fun _ _ h => h.bodySend
  | .recv _ => h.runInstr fun _ _ h => h.bodyRecv
  | .parse _ => h.runInstr fun _ _ h => h.bodyParse
  | .crcf _ => h.runInstr fun _ _ h => h.bodyCrcf
  | .csum _ => h.runInstr fun _ _ h => h.bodyCsum
  | .tscf _ => h.runInstr fun _ _ h => h.bodyTscf
  | .helperResult _ => h.execHelperResult
  | .lkup _ => h.runInstr fun _ _ h => h.bodyLkup
  | .lookupRequest _ => h.execLookupRequest
  | .lookupProbeReturn _ => h.execLookupProbeReturn
  | .lookupResult _ => h.execLookupResult
  | .extensionOp _ => h.runInstr fun _ _ h => h.bodyXop
  | .extensionProbe _ => h.runInstr fun _ _ h => h.bodyXop
  | .extensionRequestTransfer _ => h.execExtensionRequestTransfer
  | .extensionAnswer _ _ _ _ => h.execExtensionAnswer
  | .extensionTimeout _ => h.execExtensionTimeout
  | .exceptionEntry _ => h.boundaryEntry
  | .iraiseLines _ _ _ => h.viaWrite
  | .iraiseNmi _ _ => h.viaWrite
  | .nmiraise _ _ _ => h.viaWrite
  | .ipendClear _ _ _ => h.viaWrite
  | .recovWrite _ _ _ => h.viaWrite
  | .hrelPark _ _ _ => h.viaWrite
  | .hrelRetry _ _ _ => h.viaWrite
  | .wdkick _ _ => h.viaWrite
  | .watchdogExpiry _ => h.execWatchdogExpiry
  | .debugHalt _ _ => h.execDebugHalt
  | .debugHaltTaken _ => h.execDebugHaltTaken
  | .debugResume _ _ => h.execDebugResume
  | .debugStep _ _ _ => h.viaWrite
  | .abortch _ _ => h.viaWrite
  | .dbgselWrite _ _ _ _ => h.viaWrite
  | .dbgdataCommit _ _ _ _ => h.viaWrite
  | .tapUpdateDr => h.execTapUpdateDr
  | .tapReset => h.tapReset
  | .bownWrite _ _ _ _ => h.viaWrite
  | .handoverComplete _ _ => h.execHandoverComplete
  | .bankClearComplete _ _ => h.execBankClearComplete
  | .eccWriteback _ _ => h.execEccWriteback
  | .scrubRead _ _ => h.execScrubRead
  | .bankWindowRead _ _ => h.viaRead
  | .bankWindowCommit _ _ _ => h.viaWrite
  | .dmaGo _ _ _ _ => h.execDmaGo
  | .dmaStop _ _ _ _ => h.execDmaStop
  | .dmaWord _ _ => h.execDmaWord
  | .lkrelLock _ _ _ => h.viaWrite
  | .lkrelThread _ _ _ => h.viaWrite
  | .evset _ _ _ _ => h.viaWrite
  | .evclr _ _ _ _ => h.viaWrite
  | .chflush _ _ _ => h.viaWrite
  | .stallCensus _ => h.execStallCensus
  | .insert _ => h.cmdRun
  | .replace _ => h.cmdRun
  | .delete _ => h.cmdRun
  | .read _ => h.cmdRun
  | .testins _ => h.cmdRun
  | .scan _ => h.cmdRun
  | .flush _ => h.cmdRun
  | .frebuild _ => h.cmdRun
  | .badop _ => h.execBadop
  | .lookupCommandComplete _ => h.cmdComplete
  | .lkcmdStatusRead _ _ => h.execLkcmdStatusRead
  | .sweepVisit => h.sweepVisit
  | .tableEnable _ _ _ => h.execTableEnable
  | .tableDisable _ _ _ => h.execTableDisable
  | .tblcfgWrite _ _ _ => h.viaWrite
  | .trateWrite _ _ => h.viaWrite
  | .timeStep _ _ => h.execTimeStep
  | .timeSlew _ _ => h.execTimeSlew
  | .slewComplete => h.execSlewComplete
  | .tsetCommit _ _ => h.viaWrite
  | .timeMirrorWrite _ _ _ => h.viaWrite
  | .ppsEdge _ => h.ppsEdge
  | .ppsTimeout => h.ppsTimeout
  | .recordStage _ => h.execRecordStage
  | .recordWrite => h.execRecordWrite
  | .boundaryMarker _ => h.recMarker
  | .recorderCommit => h.recCommit
  | .recorderRegionWrite _ _ _ => h.viaWrite
  | .recrdWrite _ _ => h.viaWrite
  | .timerArm _ _ _ => h.viaWrite
  | .timerDisarm _ _ _ => h.viaWrite
  | .timerCompareCommit _ _ _ _ => h.viaWrite
  | .timerCountCommit _ _ _ _ => h.viaWrite
  | .timerMatch _ _ => h.execTimerMatch
  | .timerPinAction _ => h.timPin
  | .timerCapture _ _ => h.execTimerCapture
  | .tcapRead _ _ _ => h.viaRead
  | .goutWrite _ _ _ => h.viaWrite
  | .memoryRequestTransfer _ _ => h.execMemoryRequestTransfer
  | .memoryReadResponse _ _ _ _ => h.execMemoryReadResponse
  | .memoryWriteAck _ _ _ => h.execMemoryWriteAck
  | .memoryTimeout _ => h.execMemoryTimeout
  | .memReadyChange _ _ => h.same.memReady
  | .clockLoss _ => h.clockLoss
  | .clockReturn _ => h.clockReturn
  | .refclkLoss => h.modTime.orReg
  | .refclkReturn => h.modTime
  | .groveGateWrite _ _ _ => h.viaWrite
  | .groveClkoffEntry _ => h.clkoffEntry
  | .islandWake _ _ => h.execIslandWake
  | .islandWakeComplete _ => h.wakeComplete
  | .portIslandGateWrite _ _ _ => h.viaWrite
  | .clockPointWrite _ _ _ => h.viaWrite
  | .clockPointChange _ => h.pointChange
  | .registerWrite _ _ _ => h.viaWrite
  | .latchRead _ _ => h.execLatchRead
  | .accessTimeout _ _ _ _ => h.accTimeout
  | .irqtest _ _ => h.viaWrite
  | .idleSlot _ _ => h.execIdleSlot
  | .managementRead _ _ => h.viaRead
  | .tckEdge _ _ _ => h.execTckEdge
  | .pwrgoodFall => Canonical.powered
  | .islandChangeComplete _ => h.changeComplete

theorem Kept.of_next {o : Host.Outcome State Fault Refusal} {t : State} (h : Kept o) (ho : o = .next t) : Canonical t := by
  rw [ho] at h
  exact h

theorem Canonical.step (h : Canonical s) : Kept (step s) := by
  unfold Machine.step
  split
  · exact h.idle
  · exact Canonical.exec h.same _

/-- Settles O60: each operation of the model keeps the maps canonical, and so each command does. -/
theorem stepKeepsCanonical : Obligations.StepKeepsCanonical := fun _ _ h hs => h.step.of_next hs

end Sys2Proof.Machine
end

section
/-!
PROOFS. One access of the host or the TAP that completes at once (R474 to R484): what a write leaves beside the effect on its register,
and what a read shows.
-/
set_option Elab.async false

namespace Sys2Proof.Machine

variable {s : State} {src : Src} {a : Nat} {d : BitVec 32}

/-! ### Accesses that begin -/

theorem State.accServe_nil (h : s.mgmt.waiting = []) : s.accServe = s := by
  unfold State.accServe
  rw [h]
  rfl

/-- With nothing waiting, an access that is ready completes as it begins. -/
theorem State.accBegin_ready {x : Access} (hw : s.mgmt.waiting = []) (hp : s.pathUp x.src = true)
    (hr : s.accReady x = true) : s.accBegin x = s.accRun x := by
  have hf : s.accFront = none := by simp [State.accFront, hw]
  unfold State.accBegin
  simp [State.accServe_nil hw, hp, hf, hr]

/-- What a completed write leaves beside its register: no read data, the flag of its path and the HOSTW record. -/
def State.wrote (s : State) (src : Src) (a : BitVec 24) (d : BitVec 32) : State := ((s.setRdata 0).seen src).logWrite src a d

theorem State.viaWrite_bus (h : src = .mgmt ∨ src = .tap) : s.viaWrite src a d = s.busWrite src (BitVec.ofNat 24 a) d := by
  rcases h with rfl | rfl <;> rfl

theorem State.viaRead_bus (h : src = .mgmt ∨ src = .tap) : s.viaRead src a = s.busRead src (BitVec.ofNat 24 a) := by
  rcases h with rfl | rfl <;> rfl

theorem lt_of_islandOf {i : Nat} (h : islandOf a = some i) : a < 0x1000000 := by
  unfold islandOf at h
  grind

/-! ### What a completed access leaves -/

/-- The flag of the path in STATUS (R483). -/
def pathFlag (src : Src) : BitVec 32 := if src = .tap then 0x10 else 8

theorem State.seen_eq (h : src = .mgmt ∨ src = .tap) : s.seen src = s.orReg 0x20 (pathFlag src) := by
  rcases h with rfl | rfl <;> rfl

/-- The HOSTW record and WRCOUNT change counters, the recorder's numbers and a link, and nothing else. -/
theorem State.logWrite_eq {b : BitVec 24} : ∃ r l, s.logWrite src b d =
    { s with ctrs := (s.count 0x30).ctrs, recd := r, links := l } := by
  unfold State.logWrite State.ctrlRec
  split
  · exact ⟨s.recd, s.links, rfl⟩
  · exact ⟨_, _, rfl⟩

theorem State.wrote_eq {b : BitVec 24} (h : src = .mgmt ∨ src = .tap) : ∃ r l, s.wrote src b d =
    { s.orReg 0x20 (pathFlag src) with
      mgmt := { s.mgmt with rdata := 0 }, ctrs := (s.count 0x30).ctrs, recd := r, links := l } := by
  unfold State.wrote
  rw [State.seen_eq h]
  exact State.logWrite_eq

theorem State.wrote_reg {b : BitVec 24} {x : Nat} (h : src = .mgmt ∨ src = .tap) :
    (s.wrote src b d).reg x = (s.orReg 0x20 (pathFlag src)).reg x := by
  obtain ⟨r, l, e⟩ := State.wrote_eq (s := s) (b := b) (d := d) h
  rw [e]
  rfl

theorem State.wrote_reg_other {b : BitVec 24} {x : Nat} (h : src = .mgmt ∨ src = .tap) (hx : x ≠ 0x20) :
    (s.wrote src b d).reg x = s.reg x := by
  rw [State.wrote_reg h, State.reg_orReg, if_neg hx]

/-- The flag of the path is set in STATUS. -/
theorem bit_pathFlag {v : BitVec 32} : bit (v ||| pathFlag src) (if src = .tap then 4 else 3) = true := by
  unfold pathFlag bit
  split <;> simp

theorem State.wrote_seen {b : BitVec 24} (h : src = .mgmt ∨ src = .tap) :
    bit ((s.wrote src b d).reg 0x20) (if src = .tap then 4 else 3) = true := by
  rw [State.wrote_reg h, State.reg_orReg, if_pos rfl]
  exact bit_pathFlag

theorem State.wrote_port {b : BitVec 24} {p : Nat} (h : src = .mgmt ∨ src = .tap) : (s.wrote src b d).port p = s.port p := by
  obtain ⟨r, l, e⟩ := State.wrote_eq (s := s) (b := b) (d := d) h
  rw [e]
  rfl

theorem State.wrote_eng {b : BitVec 24} {p e : Nat} (h : src = .mgmt ∨ src = .tap) :
    (s.wrote src b d).eng p e = s.eng p e := by
  unfold State.eng
  rw [State.wrote_port h]

theorem State.wrote_stag {b : BitVec 24} (h : src = .mgmt ∨ src = .tap) : (s.wrote src b d).stag = s.stag := by
  obtain ⟨r, l, e⟩ := State.wrote_eq (s := s) (b := b) (d := d) h
  rw [e]
  rfl

theorem State.wrote_ctr {b : BitVec 24} (h : src = .mgmt ∨ src = .tap) :
    (s.wrote src b d).ctr 0x30 = s.ctr 0x30 + 1 := by
  obtain ⟨r, l, e⟩ := State.wrote_eq (s := s) (b := b) (d := d) h
  rw [e]
  exact (State.ctr_count s 0x30 0x30 1).trans (if_pos rfl)

theorem State.wrote_rdata {b : BitVec 24} (h : src = .mgmt ∨ src = .tap) : (s.wrote src b d).mgmt.rdata = 0 := by
  obtain ⟨r, l, e⟩ := State.wrote_eq (s := s) (b := b) (d := d) h
  rw [e]

theorem State.wrote_ties {b : BitVec 24} (h : src = .mgmt ∨ src = .tap) : (s.wrote src b d).ties = s.ties := by
  obtain ⟨r, l, e⟩ := State.wrote_eq (s := s) (b := b) (d := d) h
  rw [e]
  rfl

/-! ### Accesses that complete at once -/

/-- The address of a register as 24 bits. -/
theorem State.HostReaches.addr (h : s.HostReaches src a) : (BitVec.ofNat 24 a).toNat = a := by
  obtain ⟨-, -, -, -, -, i, hi, -⟩ := h
  have hlt := lt_of_islandOf hi
  rw [BitVec.toNat_ofNat]
  omega

/-- A write of a register that the host reaches is the write of the register, and what every write leaves. -/
theorem State.HostReaches.viaWrite (h : s.HostReaches src a) (ha : a % 4 = 0) :
    s.viaWrite src a d = (s.writeReg src a d).wrote src (BitVec.ofNat 24 a) d := by
  have hb := h.addr
  obtain ⟨hs, hp, hw, hr, hn, i, hi, ho⟩ := h
  rw [State.viaWrite_bus hs]
  unfold State.busWrite
  rw [State.accBegin_ready hw hp (hr _)]
  simp [State.accRun, State.mgWrite, State.wrote, hn, hb, ha, hi, ho]

/-- A read of a register that the host reaches. -/
theorem State.HostReaches.viaRead (h : s.HostReaches src a) (ha : a % 4 = 0) :
    s.viaRead src a = (s.latchedRead (BitVec.ofNat 24 a)).seen src := by
  have hb := h.addr
  obtain ⟨hs, hp, hw, hr, hn, i, hi, ho⟩ := h
  rw [State.viaRead_bus hs]
  unfold State.busRead
  rw [State.accBegin_ready hw hp (hr _)]
  simp [State.accRun, State.mgRead, hn, hb, ha, hi, ho]

/-- A read of the first word of a wide register loads the shared latch (R480). -/
theorem State.HostReaches.readWide {k v : Nat} {t : State} (h : s.HostReaches src a) (ha : a % 4 = 0)
    (hw : wideAt a = some (a, k)) (hr : s.readWide a = (v, t)) : s.viaRead src a =
      State.orReg { t with mgmt := { t.mgmt with
        latchV := true, latchA := BitVec.ofNat 24 a, latchW := upperWords v k, rdata := word32 v 0 } } 0x20 (pathFlag src) := by
  rw [h.viaRead ha, State.seen_eq h.1]
  unfold State.latchedRead
  rw [h.addr]
  dsimp only
  rw [hw]
  dsimp only
  rw [if_pos rfl, hr]
  rfl

/-- A read of a register of one word shows it. -/
theorem State.HostReaches.readPlain (h : s.HostReaches src a) (ha : a % 4 = 0) (hw : wideAt a = none) (hp : a ≠ 0x80014) :
    s.viaRead src a = (s.setRdata (s.peek a)).orReg 0x20 (pathFlag src) := by
  rw [h.viaRead ha, State.seen_eq h.1]
  unfold State.latchedRead State.readPlain
  rw [h.addr]
  dsimp only
  rw [hw]
  dsimp only
  rw [if_neg hp]

/-- What decides whether the host reaches a register is unchanged: the start, the clocks, the islands, the accesses that wait or are
owed, and the bank windows. -/
structure State.SameReach (s u : State) : Prop where
  start : u.start = s.start
  time : u.time = s.time
  power : u.power = s.power
  waiting : u.mgmt.waiting = s.mgmt.waiting
  owed : u.mgmt.owed = s.mgmt.owed
  waits : ∀ a wr, u.regWaits a wr = s.regWaits a wr

theorem State.regWaits_congr {u : State} {wr : Bool} (hr : ∀ x, x ≠ 0x20 → u.reg x = s.reg x) (hg : u.groves = s.groves) :
    u.regWaits a wr = s.regWaits a wr := by
  have hw : ∀ g, u.bwWaits g = s.bwWaits g := fun g => by
    have h1 : u.reg (aBw g) = s.reg (aBw g) := hr _ (by unfold aBw aBanks aGrove; omega)
    have h2 : ∀ bp, u.bown g bp = s.bown g bp := fun bp => hr _ (by unfold aBanks aGrove; omega)
    unfold State.bwWaits State.bwBad State.ownerKind State.bwPort State.grove
    simp only [h1, h2, hg]
  unfold State.regWaits
  simp only [hw]

theorem State.HostReaches.of_same {u : State} (h : s.HostReaches src a) (e : s.SameReach u) : u.HostReaches src a := by
  obtain ⟨hs, hp, hw, hr, hn, i, hi, ho⟩ := h
  have ho' : ∀ i, u.islandOpen i = s.islandOpen i := fun i => by
    unfold State.islandOpen State.islandUp State.isl
    rw [e.start, e.power]
  refine ⟨hs, ?_, e.waiting.trans hw, fun wr => ?_, ?_, i, hi, (ho' i).trans ho⟩
  · rw [← hp]
    unfold State.pathUp State.inReset State.clkGone
    rw [e.start, e.time]
  · rw [← hr wr]
    simp only [State.accReady, State.inReset, State.accWaits, State.clkGone, ho', e.start, e.time, e.owed, e.waits]
  · unfold State.inReset at hn ⊢
    rwa [e.start]

/-- A low word of a wide register is staged: every register stays within reach, and nothing but the staged word changes. -/
theorem State.HostReaches.staged {b : BitVec 24} {x : Nat} (h : s.HostReaches src a) :
    ((s.stage x d).wrote src b d).HostReaches src a := by
  have hs := h.1
  refine h.of_same ?_
  have hr : ∀ y, y ≠ 0x20 → ((s.stage x d).wrote src b d).reg y = s.reg y := fun y hy => State.wrote_reg_other hs hy
  obtain ⟨r, l, e⟩ := State.wrote_eq (s := s.stage x d) (b := b) (d := d) hs
  rw [e] at hr ⊢
  exact ⟨rfl, rfl, rfl, rfl, rfl, fun a wr => State.regWaits_congr hr rfl⟩

end Sys2Proof.Machine
end

section
/-!
PROOFS. Fields and bits of a word after a mask or after the write of a field.
-/
set_option Elab.async false

namespace Sys2Proof.Machine

theorem fld_eq_extract {n lo len : Nat} (v : BitVec n) : fld v lo len = (v.extractLsb' lo len).toNat :=
  (BitVec.extractLsb'_toNat lo len v).symm

/-- A mask that covers a field leaves it. -/
theorem fld_and {n lo len : Nat} {v m : BitVec n} (h : m.extractLsb' lo len = BitVec.allOnes len) :
    fld (v &&& m) lo len = fld v lo len := by
  rw [fld_eq_extract, fld_eq_extract, BitVec.extractLsb'_and, h, BitVec.and_allOnes]

/-- A field of a word as a part of the number. -/
theorem fld_eq_div {n lo len m : Nat} (v : BitVec n) (hm : 2 ^ len = m) : fld v lo len = v.toNat / 2 ^ lo % m := by
  unfold fld
  rw [Nat.shiftRight_eq_div_pow, hm]

theorem bit_setFld {n lo len x j : Nat} {v : BitVec n} (hn : lo + len ≤ n) :
    bit (setFld v lo len x) j = if lo ≤ j ∧ j < lo + len then x.testBit (j - lo) else bit v j := by
  have hj : lo ≤ j ∧ j < lo + len → j < n := fun h => by omega
  unfold bit setFld
  simp only [BitVec.getLsbD_or, BitVec.getLsbD_and, BitVec.getLsbD_not, BitVec.getLsbD_ofNat, Nat.testBit_shiftLeft,
    Nat.testBit_two_pow_sub_one, Nat.testBit_mod_two_pow]
  split
  · next h =>
    have h1 : j - lo < len := by omega
    simp [hj h, h.1, h1]
  · next h =>
    by_cases hl : lo ≤ j
    · have h1 : ¬ j - lo < len := by omega
      by_cases hjn : j < n
      · simp [h1, hjn]
      · simp [h1, hjn, BitVec.getLsbD_of_ge v j (by omega)]
    · by_cases hjn : j < n
      · simp [hl, hjn]
      · simp [hl, hjn, BitVec.getLsbD_of_ge v j (by omega)]

theorem bit_setBit {n i j : Nat} {v : BitVec n} {b : Bool} (hn : i < n) :
    bit (setBit v i b) j = if j = i then b else bit v j := by
  unfold setBit
  rw [bit_setFld hn]
  by_cases h : j = i
  · subst h
    cases b <;> simp [b1]
  · rw [if_neg (by omega), if_neg h]

theorem fld_setFld {n lo len x : Nat} {v : BitVec n} (hn : lo + len ≤ n) : fld (setFld v lo len x) lo len = x % 2 ^ len := by
  apply Nat.eq_of_testBit_eq
  intro i
  have hb : (fld (setFld v lo len x) lo len).testBit i = (decide (i < len) && bit (setFld v lo len x) (lo + i)) := by
    unfold fld bit BitVec.getLsbD
    rw [Nat.testBit_mod_two_pow, Nat.testBit_shiftRight]
  rw [hb, bit_setFld hn, Nat.testBit_mod_two_pow]
  by_cases h : i < len
  · simp [h]
  · simp [h]

end Sys2Proof.Machine
end

section
/-!
PROOFS. The registers of a port and its engines (O40): the map leads a write or a read of one of them to its own operation, and each
operation does what the statement says.
-/
set_option Elab.async false

namespace Sys2Proof.Machine

variable {s : State} {src : Src} {p e : Nat} {d : BitVec 32} {w : Word}

/-! ### The place of a port's registers in the map -/

/-- Register r of port p. -/
def aPortReg (p r : Nat) : Nat := aIsland p + 0x400 * (p % 32) + r

theorem aEngine_add {off : Nat} : aEngine p e + off = aPortReg p (0x100 + 0x80 * e + off) := by
  unfold aEngine aPortReg
  omega

theorem aPortReg_bounds {r : Nat} (hp : p < 128) (hr : r < 0x400) :
    0x40000 ≤ aPortReg p r ∧ aPortReg p r < 0x80000 ∧ (aPortReg p r - 0x40000) / 0x10000 = p / 32 ∧
      aPortReg p r % 0x10000 = 0x400 * (p % 32) + r := by
  unfold aPortReg aIsland
  omega

theorem aPortReg_aligned {r : Nat} (hr : r % 4 = 0) : aPortReg p r % 4 = 0 := by
  unfold aPortReg aIsland
  omega

theorem shapeIsland_port {r : Nat} (hr : r < 0x400) : shapeIsland (0x400 * (p % 32) + r) = shapeIsland r := by
  have h1 : 0x400 * (p % 32) + r < 0x8000 := by omega
  have h2 : (0x400 * (p % 32) + r) % 0x400 = r := by omega
  have h3 : r < 0x8000 := by omega
  have h4 : r % 0x400 = r := by omega
  unfold shapeIsland
  simp only [h1, h2, h3, h4, if_true]

theorem State.writeReg_port {r : Nat} (hp : p < 128) (hr : r < 0x400) (h4 : r % 4 = 0) (hs : (shapeIsland r).isSome = true) :
    s.writeReg src (aPortReg p r) d = s.writeIsland (p / 32) (0x400 * (p % 32) + r) d (isImage src) := by
  obtain ⟨lo, hi, hk, ho⟩ := aPortReg_bounds hp hr
  have ha := aPortReg_aligned (p := p) h4
  have hshape : regShape (aPortReg p r) = shapeIsland r := by
    unfold regShape
    rw [ho, shapeIsland_port hr]
    grind
  have hn : (shapeIsland r).isNone = false := Option.isNone_eq_false_iff.2 hs
  unfold State.writeReg
  rw [hk, ho, hshape, hn]
  grind

/-- A write of engine register `off` is that of the engine. -/
theorem State.writeReg_engine {off : Nat} (hp : p < 128) (he : e < 4) (ho : off < 0x80) (h4 : off % 4 = 0)
    (hs : (shapeEngine off).isSome = true) : s.writeReg src (aEngine p e + off) d = s.writeEngine p e off d := by
  have h1 : (0x100 + 0x80 * e + off - 0x100) % 0x80 = off := by omega
  have h2 : (0x100 + 0x80 * e + off - 0x100) / 0x80 = e := by omega
  have hsh : shapeIsland (0x100 + 0x80 * e + off) = shapeEngine off := by
    unfold shapeIsland
    grind
  rw [aEngine_add, State.writeReg_port hp (by omega) (by omega) (hsh ▸ hs)]
  have h3 : (0x400 * (p % 32) + (0x100 + 0x80 * e + off)) % 0x400 = 0x100 + 0x80 * e + off := by omega
  have h4 : 32 * (p / 32) + (0x400 * (p % 32) + (0x100 + 0x80 * e + off)) / 0x400 = p := by omega
  unfold State.writeIsland
  simp only [h3, h4, h1, h2]
  grind

/-- A write of store word k of a port. -/
theorem State.writeReg_store {k : Nat} (hp : p < 128) (hk : k < 48) :
    s.writeReg src (aPortReg p (4 * k)) d = s.writeEngStore p k d := by
  have hsh : (shapeIsland (4 * k)).isSome = true := by
    unfold shapeIsland
    grind
  rw [State.writeReg_port hp (by omega) (by omega) hsh]
  have h1 : (0x400 * (p % 32) + 4 * k) % 0x400 = 4 * k := by omega
  have h2 : 32 * (p / 32) + (0x400 * (p % 32) + 4 * k) / 0x400 = p := by omega
  have h3 : 4 * k / 4 = k := by omega
  unfold State.writeIsland
  simp only [h1, h2, h3]
  grind

theorem State.writeReg_pecfg (hp : p < 128) :
    s.writeReg src (aPortReg p 0xC0) d = s.writePecfg p d (isImage src) := by
  rw [State.writeReg_port hp (by omega) (by omega) (by decide)]
  have h1 : (0x400 * (p % 32) + 0xC0) % 0x400 = 0xC0 := by omega
  have h2 : 32 * (p / 32) + (0x400 * (p % 32) + 0xC0) / 0x400 = p := by omega
  unfold State.writeIsland
  simp only [h1, h2]
  grind

/-! ### Accesses to an engine -/

theorem State.HostReaches.engineWrite {off : Nat} (h : s.HostReaches src (aEngine p e + off)) (hp : p < 128) (he : e < 4)
    (ho : off < 0x80) (h4 : off % 4 = 0) (hs : (shapeEngine off).isSome = true) :
    s.viaWrite src (aEngine p e + off) d =
      (s.writeEngine p e off d).wrote src (BitVec.ofNat 24 (aEngine p e + off)) d := by
  have ha : (aEngine p e + off) % 4 = 0 := by
    unfold aEngine aIsland
    omega
  rw [h.viaWrite ha, State.writeReg_engine hp he ho h4 hs]

theorem State.eng_setReg {x : Nat} {v : BitVec 32} : (s.setReg x v).eng p e = s.eng p e := rfl

theorem State.eng_modEng {f : Engine → Engine} : (s.modEng p e f).eng p e = f (s.eng p e) :=
  (State.eng_setEng s p e e _).trans (if_pos rfl)

theorem State.reg_setEng {x : Nat} {v : Engine} : (s.setEng p e v).reg x = s.reg x := rfl

theorem aEngine_ne_status {off : Nat} : aEngine p e + off ≠ 0x20 := by
  unfold aEngine aIsland
  omega

/-! ### HALT, ECTL and ESTAT (R139, R141, R142, R148) -/

/-- REQ halts the engine where it stands, with FLUSH or without. -/
theorem State.engHalt_req (h : bit d 0 = true) :
    ((s.engHalt p e d).eng p e).st = .halted ∧ ((s.engHalt p e d).eng p e).pc = (s.eng p e).pc := by
  unfold State.engHalt
  simp only [h, if_true, State.eng_setEng]
  split
  · exact ⟨rfl, rfl⟩
  · exact ⟨rfl, rfl⟩

theorem State.engHalt_flush (h0 : bit d 0 = false) (h1 : bit d 1 = true) (hx : (s.eng p e).st = .halted) :
    (s.engHalt p e d).eng p e = (s.eng p e).flush := by
  unfold State.engHalt
  simp [h0, h1, hx, State.eng_setEng]

/-- ECTL of a halted engine is written whole; RUN starts it when nothing is against it. -/
theorem State.writeEctl_halted (hx : (s.eng p e).st = .halted) : s.writeEctl p e d =
    (let u := s.setReg (aEngine p e) (d &&& 0x78FFFFC0)
    if bit d 31 && !bit (u.reg (aEngine p e + 8)) 29 && u.pcOk p e (u.eng p e).pc.toNat then
      u.modEng p e (fun y => { y with st := .running })
    else u) := by
  unfold State.writeEctl
  simp [hx]

theorem State.writeEctl_reg (hx : (s.eng p e).st = .halted) :
    (s.writeEctl p e d).reg (aEngine p e) = d &&& 0x78FFFFC0 := by
  have hs : (s.setReg (aEngine p e) (d &&& 0x78FFFFC0)).reg (aEngine p e) = d &&& 0x78FFFFC0 := s.reg_setReg_same _ _
  rw [State.writeEctl_halted hx]
  dsimp only
  split
  · exact hs
  · exact hs

/-- RUN 1 starts a halted engine without ERR whose PC lies in the range written (R141; log entry 124). -/
theorem State.writeEctl_run (hd : bit d 31 = true) (hx : (s.eng p e).st = .halted)
    (herr : bit (s.reg (aEngine p e + 8)) 29 = false) (hlo : d.toNat / 2 ^ 12 % 64 ≤ (s.eng p e).pc.toNat)
    (hhi : (s.eng p e).pc.toNat ≤ d.toNat / 2 ^ 6 % 64) (hpc : (s.eng p e).pc.toNat < 48) :
    (s.writeEctl p e d).eng p e = { s.eng p e with st := .running } := by
  rw [State.writeEctl_halted hx]
  extract_lets u
  have hreg : u.ectl p e = d &&& 0x78FFFFC0 := s.reg_setReg_same _ _
  have herr' : bit (u.reg (aEngine p e + 8)) 29 = false := by
    rw [State.reg_setReg_other s _ (by omega)]
    exact herr
  have hok : u.pcOk p e (u.eng p e).pc.toNat = true := by
    unfold State.pcOk State.engLo State.engHi
    rw [hreg, fld_and (by decide), fld_and (by decide), fld_eq_div d (m := 64) rfl, fld_eq_div d (m := 64) rfl]
    simp only [Bool.and_eq_true, decide_eq_true_eq]
    exact ⟨⟨hlo, hhi⟩, hpc⟩
  have hc : (bit d 31 && !bit (u.reg (aEngine p e + 8)) 29 && u.pcOk p e (u.eng p e).pc.toNat) = true := by
    rw [hd, herr', hok]
    rfl
  have heng : u.eng p e = s.eng p e := rfl
  rw [if_pos hc, State.eng_modEng, heng]

/-- ESTAT of a halted engine: PC and BCNT are written, and the bits that are written 1 clear. -/
theorem State.writeEstat_halted (hx : (s.eng p e).st = .halted) : s.writeEstat p e d =
    (s.setReg (aEngine p e + 8) (s.reg (aEngine p e + 8) &&& ~~~(d &&& 0x27E00000))).setEng p e
      { s.eng p e with pc := d.extractLsb' 0 6, bcnt := min 72 (fld d 6 7) } := by
  unfold State.writeEstat
  simp [hx]

theorem State.writeEstat_eng (hx : (s.eng p e).st = .halted) : (s.writeEstat p e d).eng p e =
    { s.eng p e with pc := d.extractLsb' 0 6, bcnt := min 72 (d.toNat / 2 ^ 6 % 128) } := by
  rw [State.writeEstat_halted hx, State.eng_setEng, if_pos rfl, fld_eq_div d (m := 128) rfl]

theorem State.writeEstat_reg (hx : (s.eng p e).st = .halted) : (s.writeEstat p e d).reg (aEngine p e + 8) =
    s.reg (aEngine p e + 8) &&& ~~~(d &&& 0x27E00000) := by
  rw [State.writeEstat_halted hx]
  exact s.reg_setReg_same _ _

/-! ### CNT and the 72-bit registers (R128, R138, R139, R146) -/

theorem State.writeEngCnt_eng {w : Word} (hx : (s.eng p e).st = .halted) :
    ((s.writeEngCnt p e (w.setWidth 32)).eng p e).cnta = w.extractLsb' 0 16 ∧
      ((s.writeEngCnt p e (w.setWidth 32)).eng p e).cntb = w.extractLsb' 16 16 := by
  unfold State.writeEngCnt
  simp only [hx, ne_eq, not_true_eq_false, if_false, State.eng_setEng, if_true]
  constructor
  · ext i hi
    simp
    omega
  · ext i hi
    simp
    omega

theorem State.writeShr_eng {w : Word} (hx : (s.eng p e).st = .halted) :
    (s.writeShr p e w).eng p e = { s.eng p e with shr := w } := by
  unfold State.writeShr
  simp only [hx, ne_eq, not_true_eq_false, if_false, State.eng_setEng, if_true]

theorem State.writeX_eng {w : Word} (hx : (s.eng p e).st = .halted) :
    (s.writeX p e w).eng p e = { s.eng p e with x := w } := by
  unfold State.writeX
  simp only [hx, ne_eq, not_true_eq_false, if_false, State.eng_setEng, if_true]

/-- PULLQ takes a value while it is empty; a full one keeps its own and sets PLOVR. -/
theorem State.writePullq_eng {w : Word} : ((s.writePullq p e w).eng p e).pullf = true ∧
    ((s.eng p e).pullf = false → ((s.writePullq p e w).eng p e).pullq = w) ∧
    ((s.eng p e).pullf = true → ((s.writePullq p e w).eng p e).pullq = (s.eng p e).pullq ∧
      bit ((s.writePullq p e w).reg (aEngine p e + 8)) 22 = true) := by
  unfold State.writePullq
  by_cases h : (s.eng p e).pullf = true
  · simp only [h, if_true]
    refine ⟨h, fun hc => absurd hc (by decide), fun _ => ⟨rfl, ?_⟩⟩
    rw [State.reg_orReg, if_pos rfl]
    unfold bit
    rw [BitVec.getLsbD_or]
    exact Bool.or_true _
  · simp [h, State.eng_setEng]

/-- The three words of a 72-bit value, two of them staged, give it back. -/
theorem State.staged72_words {w : Word} {x : Nat} {m : SMap (BitVec 32)}
    (h : s.stag = mput 0 (mput 0 m x (word32 w.toNat 0)) (x + 4) (word32 w.toNat 1)) :
    s.staged72 x (word32 w.toNat 2) = w := by
  have h0 : mget 0 s.stag x = word32 w.toNat 0 := by
    rw [h, mget_mput, if_neg (by omega), mget_mput, if_pos rfl]
  have h1 : mget 0 s.stag (x + 4) = word32 w.toNat 1 := by
    rw [h, mget_mput, if_pos rfl]
  unfold State.staged72
  rw [h0, h1, fld_eq_div (word32 w.toNat 2) (len := 8) (m := 256) rfl]
  apply BitVec.eq_of_toNat_eq
  unfold wordOf word32
  simp only [BitVec.toNat_ofNat, Nat.shiftRight_eq_div_pow, Nat.reduceMul, Nat.reducePow, Nat.div_one]
  have := w.isLt
  omega

/-- A write of a 72-bit register: the first two words are staged, and the third finds the whole value. -/
theorem State.HostReaches.wideWrite {off : Nat} {w : Word} (h0 : s.HostReaches src (aEngine p e + off))
    (h1 : s.HostReaches src (aEngine p e + off + 4)) (h2 : s.HostReaches src (aEngine p e + off + 8))
    (hp : p < 128) (he : e < 4) (ho : off = 0x10 ∨ off = 0x1C ∨ off = 0x34) :
    ∃ (u : State) (b : BitVec 24), s.viaWide src (aEngine p e + off) w =
        (u.writeEngine p e (off + 8) (word32 w.toNat 2)).wrote src b (word32 w.toNat 2) ∧
      u.eng p e = s.eng p e ∧ u.staged72 (aEngine p e + off) (word32 w.toNat 2) = w := by
  have hs := h0.1
  have hst : ∀ (u : State) d, u.writeEngine p e off d = u.stage (aEngine p e + off) d ∧
      u.writeEngine p e (off + 4) d = u.stage (aEngine p e + off + 4) d := fun u d => by
    rcases ho with rfl | rfl | rfl <;> exact ⟨rfl, rfl⟩
  have hsh : (shapeEngine off).isSome = true ∧ (shapeEngine (off + 4)).isSome = true ∧ (shapeEngine (off + 8)).isSome = true := by
    rcases ho with rfl | rfl | rfl <;> decide
  have hoff : off % 4 = 0 ∧ off + 8 < 0x80 := by omega
  let u1 := (s.stage (aEngine p e + off) (word32 w.toNat 0)).wrote src (BitVec.ofNat 24 (aEngine p e + off)) (word32 w.toNat 0)
  let u2 := (u1.stage (aEngine p e + off + 4) (word32 w.toNat 1)).wrote src (BitVec.ofNat 24 (aEngine p e + off + 4))
    (word32 w.toNat 1)
  have e1 : s.viaWrite src (aEngine p e + off) (word32 w.toNat 0) = u1 := by
    rw [h0.engineWrite hp he (by omega) hoff.1 hsh.1, (hst s _).1]
  have r1 : u1.HostReaches src (aEngine p e + (off + 4)) := h1.staged
  have e2 : u1.viaWrite src (aEngine p e + (off + 4)) (word32 w.toNat 1) = u2 := by
    rw [r1.engineWrite hp he (by omega) (by omega) hsh.2.1, (hst u1 _).2]
    rfl
  have r2 : u2.HostReaches src (aEngine p e + (off + 8)) :=
    (h2.staged (x := aEngine p e + off) (d := word32 w.toNat 0)).staged
  refine ⟨u2, BitVec.ofNat 24 (aEngine p e + off + 8), ?_, ?_, ?_⟩
  · have e3 := r2.engineWrite (d := word32 w.toNat 2) hp he (by omega) (by omega) hsh.2.2
    refine Eq.trans ?_ e3
    rw [← e2, ← e1]
    rcases hs with rfl | rfl <;> rfl
  · rw [State.wrote_eng hs]
    exact State.wrote_eng hs
  · apply State.staged72_words (m := s.stag)
    rw [State.wrote_stag hs]
    show mput 0 u1.stag _ _ = _
    rw [State.wrote_stag hs]
    rfl

/-! ### PUSHQ and the store (R138, R143, R148) -/

theorem wideAt_engine {off : Nat} (hp : p < 128) (he : e < 4) (ho : off < 0x80) :
    wideAt (aEngine p e + off) = wideEngine (aEngine p e + off) off := by
  have hr : 0x100 + 0x80 * e + off < 0x400 := by omega
  obtain ⟨lo, hi, -, hoff⟩ := aPortReg_bounds hp hr
  rw [← aEngine_add] at lo hi hoff
  have h1 : (aEngine p e + off) % 0x10000 % 0x400 = 0x100 + 0x80 * e + off := by omega
  have h2 : (0x100 + 0x80 * e + off - 0x100) % 0x80 = off := by omega
  have h3 : (aEngine p e + off) % 0x10000 < 0x8000 := by omega
  unfold wideAt wideIsland
  simp only [h1, h2, h3]
  grind

/-- An address is that of engine e of port p at offset off, said of the parts that the map takes it into. -/
theorem aEngine_parts {off : Nat} (hp : p < 128) (he : e < 4) (ho : off < 0x80) :
    (0x40000 ≤ aEngine p e + off ∧ aEngine p e + off < 0x80000) ∧ (aEngine p e + off) % 0x10000 < 0x8000 ∧
      32 * ((aEngine p e + off - 0x40000) / 0x10000) + (aEngine p e + off) % 0x10000 / 0x400 = p ∧
      ((aEngine p e + off) % 0x10000 % 0x400 - 0x100) / 0x80 = e ∧
      ((aEngine p e + off) % 0x10000 % 0x400 - 0x100) % 0x80 = off := by
  unfold aEngine aIsland
  omega

/-- The value of a wide register of an engine. -/
theorem State.wideVal_engine {off : Nat} (hp : p < 128) (he : e < 4) (ho : off < 0x80) :
    s.wideVal (aEngine p e + off) = (s.eng p e).wide off := by
  obtain ⟨hin, hlow, hport, heng, hoff⟩ := aEngine_parts hp he ho
  generalize aEngine p e + off = A at *
  have hin' : (decide (0x40000 ≤ A) && decide (A < 0x80000)) = true := by simpa using hin
  unfold State.wideVal
  rw [if_neg (by omega), if_neg (by omega), if_neg (by omega), if_neg (by omega), if_neg (by omega), if_neg (by omega),
    if_pos hin']
  dsimp only
  rw [if_pos hlow, hport, heng, hoff]

/-- A read of the first word of PUSHQ takes the value and empties it. -/
theorem State.readWide_pushq (hp : p < 128) (he : e < 4) :
    s.readWide (aEngine p e + 0x28) = ((s.eng p e).pushq.toNat, s.readPushq p e) := by
  have hv : s.wideVal (aEngine p e + 0x28) = (s.eng p e).pushq.toNat := State.wideVal_engine hp he (by decide)
  obtain ⟨hin, hlow, hport, heng, hoff⟩ := aEngine_parts hp he (off := 0x28) (by decide)
  generalize aEngine p e + 0x28 = A at *
  have hin' : (decide (0x40000 ≤ A) && decide (A < 0x80000)) = true := by simpa using hin
  unfold State.readWide
  rw [if_pos hin']
  dsimp only
  rw [if_neg (by omega), if_pos hoff, hv, hport, heng]

theorem State.eng_congr {u : State} (h : u.ports = s.ports) : u.eng p e = s.eng p e := by
  unfold State.eng State.port
  rw [h]

theorem State.HostReaches.pushqRead (h : s.HostReaches src (aEngine p e + 0x28)) (hp : p < 128) (he : e < 4) :
    ((s.viaRead src (aEngine p e + 0x28)).eng p e).pushf = false ∧
      (s.viaRead src (aEngine p e + 0x28)).mgmt.rdata = (s.eng p e).pushq.setWidth 32 := by
  have hw : wideAt (aEngine p e + 0x28) = some (aEngine p e + 0x28, 3) := wideAt_engine hp he (by decide)
  have hread := s.readWide_pushq hp he
  have ha : (aEngine p e + 0x28) % 4 = 0 := by
    unfold aEngine aIsland
    omega
  rw [h.readWide ha hw hread]
  constructor
  · refine (congrArg Engine.pushf (State.eng_congr (s := s.readPushq p e) rfl)).trans ?_
    unfold State.readPushq
    rw [State.eng_modEng]
  · show word32 (s.eng p e).pushq.toNat 0 = _
    apply BitVec.eq_of_toNat_eq
    simp [word32]

/-- With every engine halted a store word is written. -/
theorem State.writeEngStore_halted {k : Nat} (hx : ∀ j, j < 4 → (s.eng p j).st = .halted) : s.writeEngStore p k d =
    s.modPort p (fun q => { q with store := mput 0 q.store k (d.setWidth 24) }) := by
  have hbad : (upto 4).filter (fun e => (s.eng p e).st ≠ .halted && s.engLo p e ≤ k && k ≤ s.engHi p e) = [] := by
    rw [List.filter_eq_nil_iff]
    intro j hj
    simp [hx j (List.mem_range.1 hj)]
  unfold State.writeEngStore
  simp only [hbad, if_true]

/-! ### PECFG (R7, R89, R112, R116, R147) -/

/-- The mode that a write of PECFG asks for: it changes only while the port is OFF. -/
def State.newMode (s : State) (p : Nat) (d : BitVec 32) : Bool := if (s.port p).st = .off then bit d 31 else s.pinMode p

/-- The rate that a write of PECFG asks for: it changes only while the port is OFF, and 5 to 7 are ignored. -/
def State.newRate (s : State) (p : Nat) (d : BitVec 32) : Nat :=
  if (s.port p).st = .off ∧ d.toNat / 2 ^ 28 % 8 ≤ 4 then d.toNat / 2 ^ 28 % 8 else (s.pecfg p).toNat / 2 ^ 28 % 8

/-- Ring r is enabled, and a mode and a rate of its port p would break its pair. -/
def State.Breaks (s : State) (p : Nat) (mode : Bool) (rate r : Nat) : Prop :=
  r < 16 ∧ s.ringEn r = true ∧ (s.portA r = p ∨ s.portB r = p) ∧
    (mode = true ∨ rate ≠ (s.pecfg (if s.portA r = p then s.portB r else s.portA r)).toNat / 2 ^ 28 % 8)

theorem fld_rate (v : BitVec 32) : fld v 28 3 = v.toNat / 2 ^ 28 % 8 := fld_eq_div v rfl

theorem State.breaksRing_test {mode : Bool} {rate r : Nat} (hr : r < 16) :
    (s.ringEn r && (s.portA r = p || s.portB r = p) &&
      (mode || rate ≠ fld (s.pecfg (if s.portA r = p then s.portB r else s.portA r)) 28 3)) = true ↔
      s.Breaks p mode rate r := by
  unfold State.Breaks
  rw [fld_rate]
  simp [hr, and_assoc]

theorem State.breaksRing_some {mode : Bool} {rate r : Nat} (h : s.breaksRing p mode rate = some r) :
    s.Breaks p mode rate r := by
  unfold State.breaksRing at h
  have hr : r < 16 := List.mem_range.1 (List.mem_of_find?_eq_some h)
  have ht := List.find?_some (p := fun r => s.ringEn r && (s.portA r = p || s.portB r = p) &&
    (mode || rate ≠ fld (s.pecfg (if s.portA r = p then s.portB r else s.portA r)) 28 3)) h
  exact (State.breaksRing_test hr).1 ht

theorem State.breaksRing_none {mode : Bool} {rate : Nat} :
    s.breaksRing p mode rate = none ↔ ∀ r, ¬ s.Breaks p mode rate r := by
  unfold State.breaksRing
  rw [List.find?_eq_none]
  constructor
  · intro h r hb
    exact h r (List.mem_range.2 hb.1) ((State.breaksRing_test hb.1).2 hb)
  · intro h r hr hb
    exact h r ((State.breaksRing_test (List.mem_range.1 hr)).1 hb)

/-- The bits that a write of PECFG leaves in the register. -/
def pecfgValue (d : BitVec 32) (mode : Bool) (rate : Nat) : BitVec 32 := setFld (setBit (d &&& 0x0FFFC000) 31 mode) 28 3 rate

theorem State.writePecfg_noPads (h : ¬ (bit d 31 = true → bit s.ties.pinpads p = true)) : s.writePecfg p d false = s := by
  obtain ⟨h1, h2⟩ := Classical.not_imp.1 h
  unfold State.writePecfg
  simp [h1, h2]

/-- A write whose mode or rate would break the pair of an enabled ring changes nothing but the ring's CFGERR. -/
theorem State.writePecfg_breaks {r : Nat} (hpads : bit d 31 = true → bit s.ties.pinpads p = true)
    (hch : ¬ (s.newMode p d = s.pinMode p ∧ s.newRate p d = (s.pecfg p).toNat / 2 ^ 28 % 8))
    (hr : s.breaksRing p (s.newMode p d) (s.newRate p d) = some r) :
    s.writePecfg p d false = s.orReg (aRing r + 0x14) 0x4000000 := by
  have hp : (bit d 31 && !bit s.ties.pinpads p) ≠ true := by simpa using hpads
  unfold State.writePecfg
  extract_lets a old off mode rate same
  have hmode : mode = s.newMode p d := rfl
  have hrate : rate = s.newRate p d := by
    dsimp only [rate, off, old]
    simp only [fld_rate, Bool.and_eq_true, decide_eq_true_eq]
    rfl
  have hsame : ¬ (false || same) = true := by
    dsimp only [same]
    rw [hmode, hrate, fld_rate]
    simp only [Bool.false_or, Bool.and_eq_true, decide_eq_true_eq]
    exact hch
  rw [if_neg hp, if_neg hsame, hmode, hrate, hr]

/-- A write that breaks no pair, or changes neither mode nor rate, lands. -/
theorem State.writePecfg_lands (hpads : bit d 31 = true → bit s.ties.pinpads p = true)
    (hr : ¬ (s.newMode p d = s.pinMode p ∧ s.newRate p d = (s.pecfg p).toNat / 2 ^ 28 % 8) →
      s.breaksRing p (s.newMode p d) (s.newRate p d) = none) :
    (s.writePecfg p d false).pecfg p = pecfgValue d (s.newMode p d) (s.newRate p d) := by
  have hp : (bit d 31 && !bit s.ties.pinpads p) ≠ true := by simpa using hpads
  unfold State.writePecfg
  extract_lets a old off mode rate same
  have hmode : mode = s.newMode p d := rfl
  have hrate : rate = s.newRate p d := by
    dsimp only [rate, off, old]
    simp only [fld_rate, Bool.and_eq_true, decide_eq_true_eq]
    rfl
  have hnone : (if (false || same) = true then none else s.breaksRing p mode rate) = none := by
    split
    · rfl
    · next hs =>
      rw [hmode, hrate]
      apply hr
      dsimp only [same] at hs
      rw [hmode, hrate, fld_rate] at hs
      simp only [Bool.false_or, Bool.and_eq_true, decide_eq_true_eq] at hs
      exact hs
  rw [if_neg hp, hnone, hmode, hrate]
  exact s.reg_setReg_same a _

theorem pecfgValue_bit {mode : Bool} {rate j : Nat} (h1 : 14 ≤ j) (h2 : j < 28) : bit (pecfgValue d mode rate) j = bit d j := by
  have hm : ∀ i, 14 ≤ i → i < 28 → bit (0x0FFFC000 : BitVec 32) i = true := by decide
  unfold pecfgValue
  rw [bit_setFld (by decide), if_neg (by omega), bit_setBit (by decide), if_neg (by omega)]
  unfold bit at hm ⊢
  rw [BitVec.getLsbD_and, hm j h1 h2, Bool.and_true]

theorem pecfgValue_mode {mode : Bool} {rate : Nat} : bit (pecfgValue d mode rate) 31 = mode := by
  unfold pecfgValue
  rw [bit_setFld (by decide), if_neg (by omega), bit_setBit (by decide), if_pos rfl]

theorem pecfgValue_rate {mode : Bool} {rate : Nat} (h : rate < 8) : (pecfgValue d mode rate).toNat / 2 ^ 28 % 8 = rate := by
  rw [← fld_rate]
  unfold pecfgValue
  rw [fld_setFld (by decide)]
  exact Nat.mod_eq_of_lt h

theorem State.newRate_lt : s.newRate p d < 8 := by
  unfold State.newRate
  split
  · exact Nat.mod_lt _ (by decide)
  · exact Nat.mod_lt _ (by decide)

/-! ### The clauses of O40 -/

/-- A write of an engine's register by the host or the TAP: the engine is as its operation leaves it, and so is every other register than
STATUS. -/
theorem State.HostReaches.engineWritten {off : Nat} (h : s.HostReaches src (aEngine p e + off)) (hp : p < 128) (he : e < 4)
    (ho : off < 0x80) (h4 : off % 4 = 0) (hs : (shapeEngine off).isSome = true) :
    (s.viaWrite src (aEngine p e + off) d).eng p e = (s.writeEngine p e off d).eng p e ∧
      ∀ x, x ≠ 0x20 → (s.viaWrite src (aEngine p e + off) d).reg x = (s.writeEngine p e off d).reg x := by
  rw [h.engineWrite hp he ho h4 hs]
  exact ⟨State.wrote_eng h.1, fun x hx => State.wrote_reg_other h.1 hx⟩

theorem State.HostReaches.halt (h : s.HostReaches src (aEngine p e + 4)) (hp : p < 128) (he : e < 4) (h0 : bit d 0 = true) :
    ((s.viaWrite src (aEngine p e + 4) d).eng p e).st = .halted ∧
      ((s.viaWrite src (aEngine p e + 4) d).eng p e).pc = (s.eng p e).pc := by
  rw [(h.engineWritten hp he (by decide) (by decide) (by decide)).1]
  exact State.engHalt_req h0

theorem State.HostReaches.flush (h : s.HostReaches src (aEngine p e + 4)) (hp : p < 128) (he : e < 4) (h0 : bit d 0 = false)
    (h1 : bit d 1 = true) (hx : (s.eng p e).st = .halted) :
    let y := (s.viaWrite src (aEngine p e + 4) d).eng p e
    y.shr = 0 ∧ y.bcnt = 0 ∧ y.new = false ∧ y.rise = 0 ∧ y.fall = 0 ∧ y.st = .halted := by
  rw [(h.engineWritten hp he (by decide) (by decide) (by decide)).1]
  have hw : (s.writeEngine p e 4 d).eng p e = (s.eng p e).flush := State.engHalt_flush h0 h1 hx
  rw [hw]
  exact ⟨rfl, rfl, rfl, rfl, rfl, hx⟩

theorem State.HostReaches.resume (h : s.HostReaches src (aEngine p e)) (hp : p < 128) (he : e < 4) (hd : bit d 31 = true)
    (hx : (s.eng p e).st = .halted) (herr : bit (s.reg (aEngine p e + 8)) 29 = false)
    (hlo : d.toNat / 2 ^ 12 % 64 ≤ (s.eng p e).pc.toNat) (hhi : (s.eng p e).pc.toNat ≤ d.toNat / 2 ^ 6 % 64)
    (hpc : (s.eng p e).pc.toNat < 48) :
    ((s.viaWrite src (aEngine p e) d).eng p e).st = .running ∧ ((s.viaWrite src (aEngine p e) d).eng p e).pc = (s.eng p e).pc := by
  have hw : (s.viaWrite src (aEngine p e) d).eng p e = (s.writeEctl p e d).eng p e :=
    (State.HostReaches.engineWritten (off := 0) h hp he (by decide) (by decide) (by decide)).1
  rw [hw, State.writeEctl_run hd hx herr hlo hhi hpc]
  exact ⟨rfl, rfl⟩

theorem State.HostReaches.ectl (h : s.HostReaches src (aEngine p e)) (hp : p < 128) (he : e < 4)
    (hx : (s.eng p e).st = .halted) : (s.viaWrite src (aEngine p e) d).reg (aEngine p e) = d &&& 0x78FFFFC0 := by
  have hw : (s.viaWrite src (aEngine p e) d).reg (aEngine p e) = (s.writeEctl p e d).reg (aEngine p e) :=
    (State.HostReaches.engineWritten (off := 0) h hp he (by decide) (by decide) (by decide)).2 _ (aEngine_ne_status (off := 0))
  rw [hw, State.writeEctl_reg hx]

theorem State.HostReaches.estat (h : s.HostReaches src (aEngine p e + 8)) (hp : p < 128) (he : e < 4)
    (hx : (s.eng p e).st = .halted) :
    let u := s.viaWrite src (aEngine p e + 8) d
    (u.eng p e).pc = d.extractLsb' 0 6 ∧ (u.eng p e).bcnt = min 72 (d.toNat / 2 ^ 6 % 128) ∧
      u.reg (aEngine p e + 8) = s.reg (aEngine p e + 8) &&& ~~~(d &&& 0x27E00000) := by
  obtain ⟨heng, hreg⟩ := h.engineWritten (d := d) hp he (by decide) (by decide) (by decide)
  have hw : (s.writeEngine p e 8 d).eng p e = _ := State.writeEstat_eng hx
  intro u
  rw [heng, hw, hreg _ aEngine_ne_status]
  exact ⟨rfl, rfl, State.writeEstat_reg hx⟩

theorem State.HostReaches.cnt (h : s.HostReaches src (aEngine p e + 0xC)) (hp : p < 128) (he : e < 4)
    (hx : (s.eng p e).st = .halted) :
    let u := s.viaWrite src (aEngine p e + 0xC) (w.setWidth 32)
    (u.eng p e).cnta = w.extractLsb' 0 16 ∧ (u.eng p e).cntb = w.extractLsb' 16 16 := by
  intro u
  rw [(h.engineWritten hp he (by decide) (by decide) (by decide)).1]
  exact State.writeEngCnt_eng hx

theorem State.HostReaches.shr (h0 : s.HostReaches src (aEngine p e + 0x10)) (h1 : s.HostReaches src (aEngine p e + 0x10 + 4))
    (h2 : s.HostReaches src (aEngine p e + 0x10 + 8)) (hp : p < 128) (he : e < 4) (hx : (s.eng p e).st = .halted) :
    ((s.viaWide src (aEngine p e + 0x10) w).eng p e).shr = w := by
  obtain ⟨u, b, hu, heng, hst⟩ := h0.wideWrite (w := w) h1 h2 hp he (.inl rfl)
  have hw : u.writeEngine p e 0x18 (word32 w.toNat 2) = u.writeShr p e w := congrArg (u.writeShr p e) hst
  rw [hu, State.wrote_eng h0.1, hw, State.writeShr_eng (heng ▸ hx)]

theorem State.HostReaches.x (h0 : s.HostReaches src (aEngine p e + 0x1C)) (h1 : s.HostReaches src (aEngine p e + 0x1C + 4))
    (h2 : s.HostReaches src (aEngine p e + 0x1C + 8)) (hp : p < 128) (he : e < 4) (hx : (s.eng p e).st = .halted) :
    ((s.viaWide src (aEngine p e + 0x1C) w).eng p e).x = w := by
  obtain ⟨u, b, hu, heng, hst⟩ := h0.wideWrite (w := w) h1 h2 hp he (.inr (.inl rfl))
  have hw : u.writeEngine p e 0x24 (word32 w.toNat 2) = u.writeX p e w := congrArg (u.writeX p e) hst
  rw [hu, State.wrote_eng h0.1, hw, State.writeX_eng (heng ▸ hx)]

theorem State.HostReaches.pullq (h0 : s.HostReaches src (aEngine p e + 0x34)) (h1 : s.HostReaches src (aEngine p e + 0x34 + 4))
    (h2 : s.HostReaches src (aEngine p e + 0x34 + 8)) (hp : p < 128) (he : e < 4) :
    let u := s.viaWide src (aEngine p e + 0x34) w
    (u.eng p e).pullf = true ∧ ((s.eng p e).pullf = false → (u.eng p e).pullq = w) ∧
      ((s.eng p e).pullf = true → (u.eng p e).pullq = (s.eng p e).pullq ∧ bit (u.reg (aEngine p e + 8)) 22 = true) := by
  intro u'
  obtain ⟨u, b, hu, heng, hst⟩ := h0.wideWrite (w := w) h1 h2 hp he (.inr (.inr rfl))
  have hw : u.writeEngine p e 0x3C (word32 w.toNat 2) = u.writePullq p e w := congrArg (u.writePullq p e) hst
  have hres := u.writePullq_eng (p := p) (e := e) (w := w)
  have e1 : u'.eng p e = (u.writePullq p e w).eng p e := by
    rw [← hw]
    exact (congrArg (fun t : State => t.eng p e) hu).trans (State.wrote_eng h0.1)
  have e2 : u'.reg (aEngine p e + 8) = (u.writePullq p e w).reg (aEngine p e + 8) := by
    rw [← hw]
    exact (congrArg (fun t : State => t.reg (aEngine p e + 8)) hu).trans (State.wrote_reg_other h0.1 aEngine_ne_status)
  rw [e1, e2, ← heng]
  exact hres

theorem State.HostReaches.storeWord {k : Nat} (h : s.HostReaches src (aPortReg p (4 * k))) (hp : p < 128) (hk : k < 48)
    (hx : ∀ j, j < 4 → (s.eng p j).st = .halted) (j : Nat) :
    mget 0 ((s.viaWrite src (aPortReg p (4 * k)) d).port p).store j =
      if j = k then d.setWidth 24 else mget 0 (s.port p).store j := by
  rw [h.viaWrite (aPortReg_aligned (by omega)), State.wrote_port h.1, State.writeReg_store hp hk,
    State.writeEngStore_halted hx, State.port_modPort, if_pos rfl]
  exact mget_mput _ _ _ _ _

/-- A write of PECFG lands, or it is ignored: for want of pads, or for the pair of a ring that it would break. -/
theorem State.HostReaches.pecfg (h : s.HostReaches src (aPortReg p 0xC0)) (hp : p < 128) :
    let u := s.viaWrite src (aPortReg p 0xC0) d
    let pads := bit d 31 = true → bit s.ties.pinpads p = true
    let changes := ¬ (s.newMode p d = s.pinMode p ∧ s.newRate p d = (s.pecfg p).toNat / 2 ^ 28 % 8)
    let breaks := s.Breaks p (s.newMode p d) (s.newRate p d)
    (¬ pads → u.pecfg p = s.pecfg p) ∧
    (pads → changes → (∃ r, breaks r) → u.pecfg p = s.pecfg p ∧ ∃ r, breaks r ∧ bit (u.reg (aRing r + 0x14)) 26 = true) ∧
    (pads → (changes → ∀ r, ¬ breaks r) → (∀ j, 14 ≤ j → j < 28 → bit (u.pecfg p) j = bit d j) ∧
      u.pinMode p = s.newMode p d ∧ (u.pecfg p).toNat / 2 ^ 28 % 8 = s.newRate p d) := by
  intro u pads changes breaks
  have himg : isImage src = false := by
    rcases h.1 with rfl | rfl <;> rfl
  have hreg : ∀ x, x ≠ 0x20 → u.reg x = (s.writePecfg p d false).reg x := fun x hx => by
    dsimp only [u]
    rw [h.viaWrite (aPortReg_aligned (by decide)), State.wrote_reg_other h.1 hx, State.writeReg_pecfg hp, himg]
  have hpe : u.pecfg p = (s.writePecfg p d false).pecfg p := hreg _ (by unfold aIsland; omega)
  refine ⟨fun hpads => ?_, fun hpads hch hbr => ?_, fun hpads hnb => ?_⟩
  · rw [hpe, State.writePecfg_noPads hpads]
  · cases hf : s.breaksRing p (s.newMode p d) (s.newRate p d) with
    | none =>
      obtain ⟨r, hr⟩ := hbr
      exact absurd hr (State.breaksRing_none.1 hf r)
    | some r =>
      have he := State.writePecfg_breaks hpads hch hf
      have hr := (State.breaksRing_some hf).1
      refine ⟨?_, r, State.breaksRing_some hf, ?_⟩
      · rw [hpe, he]
        exact State.reg_setReg_other _ _ (by unfold aRing aIsland; omega)
      · rw [hreg _ (by unfold aRing; omega), he, State.reg_orReg, if_pos rfl]
        unfold bit
        rw [BitVec.getLsbD_or]
        exact Bool.or_true _
  · have he : u.pecfg p = pecfgValue d (s.newMode p d) (s.newRate p d) :=
      hpe.trans (State.writePecfg_lands hpads fun hch => State.breaksRing_none.2 (hnb hch))
    have hm : u.pinMode p = bit (u.pecfg p) 31 := rfl
    rw [hm, he]
    exact ⟨fun j h1 h2 => pecfgValue_bit h1 h2, pecfgValue_mode, pecfgValue_rate State.newRate_lt⟩

/-- Settles O40: each write or read reaches the operation of its register, which does what is asked. -/
theorem engineRegisters : Obligations.EngineRegisters := by
  intro src p e d w s n i a x lo hi wide
  have hp : n < 128 := p.isLt
  have he : i < 4 := e.isLt
  refine ⟨fun h => ⟨fun h0 => ?_, fun h0 h1 hx => ?_⟩, fun h => ⟨fun hd hx herr hlo hhi hpc => ?_, fun hx => ?_⟩,
    fun h hx => ?_, fun hx => ⟨fun hw => ?_, fun hw => ?_, fun h => ?_⟩, fun hw => ?_, fun h => ?_, fun k h hx => ?_, fun h => ?_⟩
  · exact ⟨_, congrArg Host.Outcome.next (if_pos h0), h.halt hp he h0⟩
  · exact ⟨_, congrArg Host.Outcome.next (if_pos h1), h.flush hp he h0 h1 hx⟩
  · exact ⟨_, congrArg Host.Outcome.next (if_pos hd), h.resume hp he hd hx herr hlo hhi hpc⟩
  · exact ⟨_, rfl, h.ectl hp he hx⟩
  · exact ⟨_, rfl, h.estat hp he hx⟩
  · exact ⟨_, rfl, hw.1.shr hw.2.1 hw.2.2 hp he hx⟩
  · exact ⟨_, rfl, hw.1.x hw.2.1 hw.2.2 hp he hx⟩
  · exact ⟨_, rfl, h.cnt hp he hx⟩
  · exact ⟨_, rfl, hw.1.pullq hw.2.1 hw.2.2 hp he⟩
  · exact ⟨_, rfl, h.pushqRead hp he⟩
  · exact ⟨_, rfl, State.HostReaches.storeWord h hp k.isLt hx⟩
  · exact ⟨_, rfl, State.HostReaches.pecfg h hp⟩

end Sys2Proof.Machine
end

section
/-!
PROOFS. The registers that only hold what was written (O54): each is one word of the map, a read shows it as it stands, and a write stores
its fields and does nothing else.
-/
set_option Elab.async false

namespace Sys2Proof.Machine

variable {s : State} {src : Src} {a : Nat} {d m : BitVec 32}

/-- Register a is one word that reads as it stands, and a write stores the bits of m in it. -/
structure State.HoldsOnly (s : State) (a : Nat) (m : BitVec 32) : Prop where
  aligned : a % 4 = 0
  notStatus : a ≠ 0x20
  notPeak : a ≠ 0x80014
  narrow : wideAt a = none
  peek : s.peek a = s.reg a
  write : ∀ src d, s.writeReg src a d = s.setReg a (d &&& m)

theorem and_whole : d &&& 0xFFFFFFFF = d := BitVec.and_allOnes

/-! ### The regions of the map -/

theorem State.peek_narrow (hw : wideAt a = none) (hs : (regShape a).isSome = true) (hi : 0x12000 ≤ a) : s.peek a =
    if a < 0x12200 then if a % 0x20 = 0x14 then s.ringStat ((a - 0x12000) / 0x20) else s.reg a
    else if a < 0x15000 then s.readStart (a - 0x14000)
    else if a < 0x21000 then s.readIrq (a - 0x20000)
    else if a < 0x80000 then s.readIsland ((a - 0x40000) / 0x10000) (a % 0x10000)
    else if a < 0x86000 then s.readTrunk (a - 0x80000)
    else if a < 0x8D000 then s.readEgress (a - 0x88000)
    else if a < 0xC0000 then s.readLookup (a - 0xA0000)
    else if a < 0xE1000 then s.readMemory (a - 0xC0000)
    else if a % 0x100000 < 0x20000 then
      s.readCore ((a - 0x800000) / 0x100000) (a % 0x100000 / 0x1000) (a % 0x100000 % 0x1000)
    else s.readUnit ((a - 0x800000) / 0x100000) (a % 0x100000 / 0x10000) (a % 0x100000 % 0x10000) := by
  have hn : (regShape a).isNone = false := Option.isNone_eq_false_iff.2 hs
  unfold State.peek
  rw [hw]
  dsimp only
  rw [hn, if_neg (by decide), if_neg (by omega), if_neg (by omega), if_neg (by omega)]

theorem State.writeReg_known (hs : (regShape a).isSome = true) (hi : 0x12000 ≤ a) : s.writeReg src a d =
    if a < 0x12200 then s.writeRing ((a - 0x12000) / 0x20) (a % 0x20) d (isImage src)
    else if a < 0x14000 then s
    else if a < 0x15000 then s.writeStart (a - 0x14000) d
    else if a < 0x21000 then s.writeIrq (a - 0x20000) d
    else if a < 0x80000 then s.writeIsland ((a - 0x40000) / 0x10000) (a % 0x10000) d (isImage src)
    else if a < 0x86000 then s.writeTrunk (a - 0x80000) d (isImage src)
    else if a < 0x8D000 then s.writeEgress (a - 0x88000) d (isImage src)
    else if a < 0xC0000 then s.writeLookup (a - 0xA0000) d (isImage src)
    else if a < 0xE0000 then s.writeMemReg (a - 0xC0000) d (isImage src)
    else if a < 0xE1000 then s.writeRecorder (a - 0xE0000) d (isImage src)
    else if a % 0x100000 < 0x20000 then
      s.writeCore ((a - 0x800000) / 0x100000) (a % 0x100000 / 0x1000) (a % 0x100000 % 0x1000) d (isImage src)
    else s.writeUnit src ((a - 0x800000) / 0x100000) (a % 0x100000 / 0x10000) (a % 0x100000 % 0x10000) d := by
  have hn : (regShape a).isNone = false := Option.isNone_eq_false_iff.2 hs
  unfold State.writeReg
  rw [hn, if_neg (by decide), if_neg (by omega), if_neg (by omega), if_neg (by omega)]

/-! ### The groups -/

theorem first_holdsOnly (h : (a, m) ∈ [(0x28, (0xFFFFFFFF : BitVec 32)), (0x2C, 0xFFFFFFFF), (0x38, 0xFFFF), (0x20004, 0x00FF1FFF),
    (0x14010, 0xFFFFFFFF), (0x8000C, 0xFFFF), (0xA0000, 0x8000FFFF)]) : s.HoldsOnly a m := by
  have hc : a % 4 = 0 ∧ a ≠ 0x20 ∧ a ≠ 0x80014 ∧ wideAt a = none := by
    fin_cases h <;> decide
  obtain ⟨h4, h20, hpeak, hn⟩ := hc
  refine ⟨h4, h20, hpeak, hn, ?_, fun src d => ?_⟩
  · fin_cases h <;> rfl
  · fin_cases h
    · exact congrArg (s.setReg _) and_whole.symm
    · exact congrArg (s.setReg _) and_whole.symm
    · rfl
    · rfl
    · exact congrArg (s.setReg _) and_whole.symm
    · rfl
    · rfl

/-- The memory and recorder registers that show a word of the map. -/
theorem State.readMemory_plain {off : Nat} (h1 : off < 0x1000 ∨ 0x2000 ≤ off)
    (h2 : off ≠ 8 ∧ off < 0x20014 ∨ 0x20020 ≤ off ∧ off < 0x20030) :
    s.readMemory off = s.reg (0xC0000 + off) := by
  unfold State.readMemory
  rw [if_neg (by omega), if_neg (by grind), if_neg (by grind), if_neg (by omega), if_neg (by omega), if_neg (by omega),
    if_neg (by omega)]

/-- A register of the memory ports or of the recorder that is one of those of the map, and is written through its mask. -/
theorem memory_holdsOnly {off : Nat} (ha : 0xC0000 + off = a) (h1 : off < 0x1000 ∨ 0x20000 ≤ off)
    (h2 : off ≠ 8 ∧ off < 0x20014 ∨ 0x20020 ≤ off ∧ off < 0x20030) (h4 : off % 4 = 0) (hsh : (shapeMemory off).isSome = true)
    (hw : ∀ src d, (if off < 0x20000 then s.writeMemReg off d (isImage src) else s.writeRecorder (off - 0x20000) d (isImage src)) =
      s.setReg a (d &&& m)) : s.HoldsOnly a m := by
  have hparts : 0xC0000 ≤ a ∧ a < 0xE1000 ∧ a - 0xC0000 = off ∧ a % 4 = 0 ∧ a - 0xE0000 = off - 0x20000 := by omega
  obtain ⟨lo, hi, hsub, ha4, hrec⟩ := hparts
  have hn : wideAt a = none := by
    unfold wideAt
    grind
  have hs : regShape a = shapeMemory off := by
    unfold regShape
    rw [hsub]
    grind
  refine ⟨ha4, by omega, by omega, hn, ?_, fun src d => ?_⟩
  · rw [State.peek_narrow hn (hs ▸ hsh) (by omega), if_neg (by omega), if_neg (by omega), if_neg (by omega), if_neg (by omega),
      if_neg (by omega), if_neg (by omega), if_neg (by omega), if_pos hi, hsub, ← ha]
    exact State.readMemory_plain (by omega) h2
  · rw [← hw src d, State.writeReg_known (hs ▸ hsh) (by omega), if_neg (by omega), if_neg (by omega), if_neg (by omega),
      if_neg (by omega), if_neg (by omega), if_neg (by omega), if_neg (by omega), if_neg (by omega), hsub, hrec]
    by_cases h : off < 0x20000
    · rw [if_pos h, if_pos (by omega)]
    · rw [if_neg h, if_neg (by omega), if_pos hi]

theorem memoryPort_holdsOnly (h : (a, m) ∈ [(0xC0000, (0xFF : BitVec 32)), (0xC0010, 0xFFFFFFFF), (0xC0014, 0xFF)]) :
    s.HoldsOnly a m := by
  fin_cases h
  · exact memory_holdsOnly (off := 0) rfl (by decide) (by decide) (by decide) (by decide) fun _ _ => rfl
  · exact memory_holdsOnly (off := 0x10) rfl (by decide) (by decide) (by decide) (by decide) fun _ _ =>
      congrArg (s.setReg _) and_whole.symm
  · exact memory_holdsOnly (off := 0x14) rfl (by decide) (by decide) (by decide) (by decide) fun _ _ => rfl

theorem recctl_holdsOnly : s.HoldsOnly 0xE0000 0xF80000FF :=
  memory_holdsOnly (off := 0x20000) rfl (by decide) (by decide) (by decide) (by decide) fun _ _ => rfl

theorem recFilter_holdsOnly {k : Nat} (hk : k < 4) : s.HoldsOnly (0xE0020 + 4 * k) 0xFFFFFFFF := by
  have hparts : 0xC0000 + (0x20020 + 4 * k) = 0xE0020 + 4 * k ∧ 0x20020 + 4 * k - 0x20000 = 0x20 + 4 * k := by omega
  have hsh : (shapeMemory (0x20020 + 4 * k)).isSome = true := by
    interval_cases k <;> decide
  obtain ⟨ha, hsub⟩ := hparts
  obtain ⟨A, hA⟩ : ∃ A, A = 0xE0020 + 4 * k := ⟨_, rfl⟩
  rw [← hA] at ha ⊢
  refine memory_holdsOnly ha (by omega) (by omega) (by omega) hsh fun src d => ?_
  rw [if_neg (by omega), hsub, and_whole]
  unfold State.writeRecorder
  dsimp only
  rw [if_neg (by omega), if_neg (by grind), if_neg (by omega), if_pos (by grind)]
  rw [show 0xE0000 + (0x20 + 4 * k) = A by omega]

/-- What the map takes a ring's register into. -/
theorem aRing_parts {r off : Nat} (hr : r < 16) (ho : off < 0x20) :
    0x12000 ≤ aRing r + off ∧ aRing r + off < 0x12200 ∧ (aRing r + off - 0x12000) / 0x20 = r ∧ (aRing r + off) % 0x20 = off := by
  unfold aRing
  omega

theorem ring_holdsOnly {r off : Nat} (hr : r < 16)
    (h : (off, m) ∈ [(4, (0xFFFF : BitVec 32)), (8, 0xFFFFFFFF), (0xC, 0xFFFF), (0x10, 0x80FF)]) : s.HoldsOnly (aRing r + off) m := by
  have hw : ∀ src d, s.writeRing r off d (isImage src) = s.setReg (aRing r + off) (d &&& m) := by
    intro src d
    fin_cases h
    · rfl
    · exact congrArg (s.setReg _) and_whole.symm
    · rfl
    · rfl
  have hoff : off % 4 = 0 ∧ off < 0x14 ∧ (shapeRing off).isSome = true := by
    fin_cases h <;> decide
  obtain ⟨h4, h14, hsh⟩ := hoff
  obtain ⟨lo, hi, hr', ho⟩ := aRing_parts hr (show off < 0x20 by omega)
  generalize aRing r + off = A at *
  have hs : regShape A = shapeRing off := by
    unfold regShape
    grind
  have hn : wideAt A = none := by
    unfold wideAt
    grind
  refine ⟨by omega, by omega, by omega, hn, ?_, fun src d => ?_⟩
  · rw [State.peek_narrow hn (hs ▸ hsh) lo, if_pos hi, if_neg (by omega)]
  · rw [← hw src d, State.writeReg_known (hs ▸ hsh) lo, if_pos hi, hr', ho]

theorem egress_holdsOnly {p off : Nat} (hp : p < 128)
    (h : (∃ k, k < 4 ∧ off = 4 + 4 * k ∧ m = 0xFFFFFFFF) ∨ (off = 0x24 ∧ m = 0xFFFF)) : s.HoldsOnly (aEgress p + off) m := by
  have hw : ∀ src d, s.writeEgressPort p off d (isImage src) = s.setReg (aEgress p + off) (d &&& m) := by
    intro src d
    unfold State.writeEgressPort
    rcases h with ⟨k, hk, rfl, rfl⟩ | ⟨rfl, rfl⟩
    · rw [and_whole, if_neg (by omega), if_pos (by omega)]
    · rfl
  have hoff : off % 4 = 0 ∧ off < 0x28 := by
    rcases h with ⟨k, hk, rfl, -⟩ | ⟨rfl, -⟩ <;> omega
  have hsh : (shapeEgress (0x40 * p + off)).isSome = true := by
    have h1 : (0x40 * p + off) % 0x40 = off := by omega
    unfold shapeEgress
    rw [if_pos (by omega), h1]
    rcases h with ⟨k, hk, rfl, rfl⟩ | ⟨rfl, rfl⟩
    · interval_cases k <;> rfl
    · rfl
  have hparts : aEgress p + off - 0x88000 = 0x40 * p + off ∧ 0x88000 + (0x40 * p + off) = aEgress p + off ∧
      0x88000 ≤ aEgress p + off ∧ aEgress p + off < 0x8A000 ∧ (aEgress p + off) % 4 = 0 := by
    unfold aEgress
    omega
  have hport : (0x40 * p + off) / 0x40 = p ∧ (0x40 * p + off) % 0x40 = off := by omega
  obtain ⟨hsub, hadd, lo, hi, h4⟩ := hparts
  generalize hA : aEgress p + off = A at *
  have hs : regShape A = shapeEgress (0x40 * p + off) := by
    rw [← hsub]
    unfold regShape
    grind
  have hn : wideAt A = none := by
    unfold wideAt
    grind
  refine ⟨h4, by omega, by omega, hn, ?_, fun src d => ?_⟩
  · rw [State.peek_narrow hn (hs ▸ hsh) (by omega), if_neg (by omega), if_neg (by omega), if_neg (by omega), if_neg (by omega),
      if_neg (by omega), if_pos (by omega), hsub]
    unfold State.readEgress
    rw [if_pos (by omega), if_neg (by omega), hadd]
  · rw [← hw src d, State.writeReg_known (hs ▸ hsh) (by omega), if_neg (by omega), if_neg (by omega), if_neg (by omega),
      if_neg (by omega), if_neg (by omega), if_neg (by omega), if_pos (by omega)]
    unfold State.writeEgress
    rw [hsub, if_pos (by omega), hport.1, hport.2]

theorem maxlen_holdsOnly {p : Nat} (hp : p < 128) (hf : (s.port p).frame = none) : s.HoldsOnly (0x83008 + 16 * p) 0x3FFF := by
  have hw : ∀ d, s.writeMaxlen p d = s.setReg (0x83008 + 16 * p) (d &&& 0x3FFF) := by
    intro d
    have hf' : ((s.setReg (0x83008 + 16 * p) (d &&& 0x3FFF)).port p).frame = none := hf
    unfold State.writeMaxlen
    dsimp only
    rw [hf']
  have hparts : 0x83008 + 16 * p = 0x80000 + (0x3008 + 16 * p) ∧ (0x3008 + 16 * p) % 16 = 8 ∧ (0x3008 + 16 * p - 0x3000) / 16 = p ∧
      0x3008 ≤ 0x3008 + 16 * p ∧ 0x3008 + 16 * p < 0x3800 ∧ (0x3008 + 16 * p) % 4 = 0 := by omega
  obtain ⟨ha, h16, hport, lo, hi, h4⟩ := hparts
  rw [ha] at hw ⊢
  generalize 0x3008 + 16 * p = off at *
  have hsh : shapeTrunk off = some (0x3FFF, 0) := by
    unfold shapeTrunk
    rw [if_neg (by omega), if_neg (by omega), if_neg (by grind), if_neg (by grind), if_pos (by grind), h16]
    rfl
  have hsub : 0x80000 + off - 0x80000 = off := by omega
  have hbounds : 0x80000 ≤ 0x80000 + off ∧ 0x80000 + off < 0x84000 ∧ (0x80000 + off) % 4 = 0 ∧ 0x80000 + off ≠ 0x80014 := by omega
  obtain ⟨alo, ahi, a4, apeak⟩ := hbounds
  have hpeek : s.readTrunk off = s.reg (0x80000 + off) := by
    unfold State.readTrunk
    dsimp only
    rw [if_neg (by omega), if_neg (by omega), if_neg (by omega), if_neg (by omega), if_neg (by grind), if_neg (by grind)]
  have hwrite : ∀ d i, s.writeTrunk off d i = s.setReg (0x80000 + off) (d &&& 0x3FFF) := by
    intro d i
    rw [← hw d]
    unfold State.writeTrunk
    dsimp only
    rw [if_neg (by omega), if_neg (by omega), if_neg (by omega), if_neg (by grind), if_pos (by grind), h16, hport]
    rfl
  generalize 0x80000 + off = A at *
  have hs : regShape A = some (0x3FFF, 0) := by
    rw [← hsh, ← hsub]
    unfold regShape
    grind
  have hn : wideAt A = none := by
    unfold wideAt
    grind
  have hsome : (regShape A).isSome = true := by rw [hs]; rfl
  refine ⟨a4, by omega, apeak, hn, ?_, fun src d => ?_⟩
  · rw [State.peek_narrow hn hsome (by omega), if_neg (by omega), if_neg (by omega), if_neg (by omega), if_neg (by omega),
      if_pos (by omega), hsub, hpeek]
  · rw [← hwrite d (isImage src), State.writeReg_known hsome (by omega), if_neg (by omega), if_neg (by omega), if_neg (by omega),
      if_neg (by omega), if_neg (by omega), if_pos (by omega), hsub]

/-! ### Registers of a grove -/

/-- What the map takes a register of a grove into. -/
theorem aGrove_parts {g off : Nat} (hg : g < 8) (ho : off < 0x100000) (h4 : off % 4 = 0) :
    0x800000 ≤ aGrove g + off ∧ aGrove g + off < 0x1000000 ∧ (aGrove g + off - 0x800000) / 0x100000 = g ∧
      (aGrove g + off) % 0x100000 = off ∧ (aGrove g + off) % 4 = 0 := by
  unfold aGrove
  omega

/-- A register of a core or a thread that shows a word of the map and is written through its mask. -/
theorem core_holdsOnly {g off : Nat} (hg : g < 8) (ho : off < 0x20000) (h4 : off % 4 = 0)
    (hwide : ∀ a, wideCore a (off % 0x1000) = none) (hsh : (shapeCore (off % 0x1000)).isSome = true)
    (hr : s.readCore g (off / 0x1000) (off % 0x1000) = s.reg (aGrove g + off))
    (hw : ∀ d i, s.writeCore g (off / 0x1000) (off % 0x1000) d i = s.setReg (aGrove g + off) (d &&& m)) :
    s.HoldsOnly (aGrove g + off) m := by
  obtain ⟨lo, hi, hgrove, hoff, ha4⟩ := aGrove_parts hg (by omega) h4
  generalize aGrove g + off = A at *
  have hn : wideAt A = none := by
    rw [← hwide A, ← hoff]
    unfold wideAt
    grind
  have hs : regShape A = shapeCore (off % 0x1000) := by
    rw [← hoff]
    unfold regShape
    grind
  refine ⟨ha4, by omega, by omega, hn, ?_, fun src d => ?_⟩
  · rw [State.peek_narrow hn (hs ▸ hsh) (by omega), if_neg (by omega), if_neg (by omega), if_neg (by omega), if_neg (by omega),
      if_neg (by omega), if_neg (by omega), if_neg (by omega), if_neg (by omega), hgrove, hoff, if_pos ho, hr]
  · rw [← hw d (isImage src), State.writeReg_known (hs ▸ hsh) (by omega), if_neg (by omega), if_neg (by omega), if_neg (by omega),
      if_neg (by omega), if_neg (by omega), if_neg (by omega), if_neg (by omega), if_neg (by omega), if_neg (by omega),
      if_neg (by omega), hgrove, hoff, if_pos ho]

/-- A register of a unit of a grove that shows a word of the map and is written through its mask. -/
theorem unit_holdsOnly {g unit off : Nat} (hg : g < 8) (h7 : 7 ≤ unit) (hu : unit < 0x10) (ho : off < 0x10000) (h4 : off % 4 = 0)
    (hwide : ∀ a, wideUnit a unit off = none) (hsh : (shapeUnit unit off).isSome = true)
    (hr : s.readUnit g unit off = s.reg (aGrove g + 0x10000 * unit + off))
    (hw : ∀ src d, s.writeUnit src g unit off d = s.setReg (aGrove g + 0x10000 * unit + off) (d &&& m)) :
    s.HoldsOnly (aGrove g + 0x10000 * unit + off) m := by
  have hadd : aGrove g + 0x10000 * unit + off = aGrove g + (0x10000 * unit + off) := by omega
  obtain ⟨lo, hi, hgrove, hoff, ha4⟩ := aGrove_parts (off := 0x10000 * unit + off) hg (by omega) (by omega)
  rw [hadd] at hr hw ⊢
  generalize aGrove g + (0x10000 * unit + off) = A at *
  have hunit : A % 0x100000 / 0x10000 = unit ∧ A % 0x100000 % 0x10000 = off ∧ ¬ A % 0x100000 < 0x20000 := by omega
  obtain ⟨hu1, hu2, hu3⟩ := hunit
  have hn : wideAt A = none := by
    rw [← hwide A, ← hu1, ← hu2]
    unfold wideAt
    grind
  have hs : regShape A = shapeUnit unit off := by
    rw [← hu1, ← hu2]
    unfold regShape
    grind
  refine ⟨ha4, by omega, by omega, hn, ?_, fun src d => ?_⟩
  · rw [State.peek_narrow hn (hs ▸ hsh) (by omega), if_neg (by omega), if_neg (by omega), if_neg (by omega), if_neg (by omega),
      if_neg (by omega), if_neg (by omega), if_neg (by omega), if_neg (by omega), hgrove, if_neg hu3, hu1, hu2, hr]
  · rw [← hw src d, State.writeReg_known (hs ▸ hsh) (by omega), if_neg (by omega), if_neg (by omega), if_neg (by omega),
      if_neg (by omega), if_neg (by omega), if_neg (by omega), if_neg (by omega), if_neg (by omega), if_neg (by omega),
      if_neg (by omega), hgrove, if_neg hu3, hu1, hu2]

/-- The registers of a core from 0x80 to 0x9F. -/
theorem coreReg_holdsOnly {g c r : Nat} (hg : g < 8) (hc : c < 32) (lo : 0x80 ≤ r) (hi : r < 0xA0) (h4 : r % 4 = 0) :
    s.HoldsOnly (aCore g c + r) (if r % 8 = 0 then 0xFFFFFF else 0xC000FFFF) := by
  have hadd : aCore g c + r = aGrove g + (0x1000 * c + r) := by
    unfold aCore
    omega
  have hparts : (0x1000 * c + r) / 0x1000 = c ∧ (0x1000 * c + r) % 0x1000 = r := by omega
  have hr : s.readCore g c r = s.reg (aCore g c + r) := by
    unfold State.readCore
    dsimp only
    rw [if_neg (by omega), if_neg (by omega), if_neg (by grind)]
  have hw : ∀ d i, s.writeCore g c r d i = s.setReg (aCore g c + r) (d &&& if r % 8 = 0 then 0xFFFFFF else 0xC000FFFF) := by
    intro d i
    unfold State.writeCore State.writeCoreReg
    dsimp only
    rw [if_pos (by omega), if_neg (by omega), if_neg (by omega), if_neg (by omega), if_neg (by grind), if_pos (by grind)]
  rw [hadd] at hr hw ⊢
  refine core_holdsOnly hg (by omega) (by omega) (fun a => ?_) ?_ (by rw [hparts.1, hparts.2]; exact hr)
    (by rw [hparts.1, hparts.2]; exact hw)
  · rw [hparts.2]
    unfold wideCore
    rw [if_neg (by grind), if_neg (by grind)]
  · rw [hparts.2]
    unfold shapeCore
    rw [if_neg (by omega), if_neg (by omega), if_neg (by grind), if_neg (by grind), if_pos (by grind)]
    rfl

theorem core_group {g c k : Nat} (hg : g < 8) (hc : c < 32) (hk : k < 4)
    (h : (a = aCore g c + 0x80 + 8 * k ∧ m = 0xFFFFFF) ∨ (a = aCore g c + 0x84 + 8 * k ∧ m = 0xC000FFFF)) : s.HoldsOnly a m := by
  rcases h with ⟨rfl, rfl⟩ | ⟨rfl, rfl⟩
  · have hh := coreReg_holdsOnly (s := s) (r := 0x80 + 8 * k) hg hc (by omega) (by omega) (by omega)
    rwa [if_pos (by omega), ← Nat.add_assoc] at hh
  · have hh := coreReg_holdsOnly (s := s) (r := 0x84 + 8 * k) hg hc (by omega) (by omega) (by omega)
    rwa [if_neg (by omega), ← Nat.add_assoc] at hh

/-- THDATA of a thread. -/
theorem thread_group {x : Nat} (hx : x < 4096) : s.HoldsOnly (aThread x + 0xC) 0xFFFFFF := by
  have hth : thid (thG x) (thC x) (thT x) = x ∧ thG x < 8 ∧ thC x < 32 ∧ thT x < 16 := by
    unfold thid thG thC thT
    omega
  obtain ⟨hid, hg, hc, ht⟩ := hth
  have hadd : aThread x + 0xC = aGrove (thG x) + (0x1000 * thC x + (0x100 + 0x40 * thT x + 0xC)) := by
    unfold aThread aCore
    omega
  have hr : s.readCore (thG x) (thC x) (0x100 + 0x40 * thT x + 0xC) = s.reg (aThread x + 0xC) := by
    have h1 : (0x100 + 0x40 * thT x + 0xC - 0x100) / 0x40 = thT x ∧ (0x100 + 0x40 * thT x + 0xC - 0x100) % 0x40 = 0xC := by omega
    unfold State.readCore
    dsimp only
    rw [if_pos (by omega), if_pos (by omega), h1.1, h1.2, hid]
    rfl
  have hw : ∀ d i, s.writeCore (thG x) (thC x) (0x100 + 0x40 * thT x + 0xC) d i = s.setReg (aThread x + 0xC) (d &&& 0xFFFFFF) := by
    intro d i
    have h1 : (0x100 + 0x40 * thT x + 0xC - 0x100) / 0x40 = thT x ∧ (0x100 + 0x40 * thT x + 0xC - 0x100) % 0x40 = 0xC := by omega
    unfold State.writeCore
    rw [if_neg (by omega), if_pos (by omega), h1.1, h1.2, hid]
    rfl
  have hsh : (shapeCore (0x100 + 0x40 * thT x + 0xC)).isSome = true := by
    have h1 : (0x100 + 0x40 * thT x + 0xC - 0x100) % 0x40 = 0xC := by omega
    unfold shapeCore
    rw [if_pos (by omega), if_pos (by omega), h1]
    rfl
  have hwide : ∀ a, wideCore a (0x100 + 0x40 * thT x + 0xC) = none := by
    intro a
    unfold wideCore
    rw [if_neg (by grind), if_neg (by grind)]
  have hoff : 0x100 + 0x40 * thT x + 0xC < 0x1000 ∧ (0x100 + 0x40 * thT x + 0xC) % 4 = 0 := by omega
  obtain ⟨hlt, h4⟩ := hoff
  rw [hadd] at hr hw ⊢
  generalize 0x100 + 0x40 * thT x + 0xC = r at *
  have hparts : (0x1000 * thC x + r) / 0x1000 = thC x ∧ (0x1000 * thC x + r) % 0x1000 = r := by omega
  refine core_holdsOnly hg (by omega) (by omega) ?_ ?_ ?_ ?_
  · rw [hparts.2]
    exact hwide
  · rw [hparts.2]
    exact hsh
  · rw [hparts.1, hparts.2]
    exact hr
  · rw [hparts.1, hparts.2]
    exact hw

theorem unit_group {g : Nat} (hg : g < 8) (h : (a, m) ∈ [(aExc g + 0x18, (0xFFFF : BitVec 32)), (aBanks g + 0x200, 0x8000FFFF),
    (aHelp g, 0xFFFF), (aLocks g + 0x498, 0xFFFFFFFF), (aLocks g + 0x49C, 0xFFFFFFFF)]) : s.HoldsOnly a m := by
  fin_cases h
  · exact unit_holdsOnly (unit := 0xD) (off := 0x18) hg (by decide) (by decide) (by decide) (by decide) (fun _ => rfl) rfl rfl
      fun _ _ => rfl
  · exact unit_holdsOnly (unit := 9) (off := 0x200) hg (by decide) (by decide) (by decide) (by decide) (fun _ => rfl) rfl rfl
      fun _ _ => rfl
  · exact unit_holdsOnly (unit := 0xE) (off := 0) hg (by decide) (by decide) (by decide) (by decide) (fun _ => rfl) rfl rfl
      fun _ _ => rfl
  · exact unit_holdsOnly (unit := 8) (off := 0x498) hg (by decide) (by decide) (by decide) (by decide) (fun _ => rfl) rfl rfl
      fun _ _ => congrArg (s.setReg _) and_whole.symm
  · exact unit_holdsOnly (unit := 8) (off := 0x49C) hg (by decide) (by decide) (by decide) (by decide) (fun _ => rfl) rfl rfl
      fun _ _ => congrArg (s.setReg _) and_whole.symm

/-- The registers of the lock unit from 0x400 to 0x47F and from 0x500 to 0x5FF. -/
theorem locks_holdsOnly {g off : Nat} (hg : g < 8) (h4 : off % 4 = 0)
    (h : (0x400 ≤ off ∧ off < 0x480 ∧ m = 0xFFFF) ∨ (0x500 ≤ off ∧ off < 0x600 ∧ m = 0x80003FE7)) :
    s.HoldsOnly (aLocks g + off) m := by
  have ho : (0x400 ≤ off ∧ off < 0x480) ∨ (0x500 ≤ off ∧ off < 0x600) := by tauto
  have hr : s.readUnit g 8 off = s.reg (aLocks g + off) := by
    show s.readLocks g off = _
    unfold State.readLocks
    dsimp only
    rw [if_neg (by omega), if_neg (by omega), if_neg (by omega), if_neg (by omega), if_neg (by omega), if_neg (by grind)]
  have hw : ∀ src d, s.writeUnit src g 8 off d = s.setReg (aLocks g + off) (d &&& m) := by
    intro src d
    show s.writeLocks src g off d = _
    unfold State.writeLocks
    dsimp only
    rcases h with ⟨lo, hi, rfl⟩ | ⟨lo, hi, rfl⟩
    · rw [if_pos (by grind)]
    · rw [if_neg (by grind), if_pos (by grind)]
  refine unit_holdsOnly (unit := 8) hg (by decide) (by decide) (by omega) h4 (fun a => ?_) ?_ hr hw
  · show (if 0x4B8 ≤ off && off < 0x4C0 then pair a off else none) = none
    rw [if_neg (by grind)]
  · show (shapeLocks off).isSome = true
    unfold shapeLocks
    grind

/-- The registers of a ring. -/
theorem ring_group {r : Nat} (hr : r < 16) (h : (a, m) ∈ [(aRing r + 4, (0xFFFF : BitVec 32)), (aRing r + 8, 0xFFFFFFFF),
    (aRing r + 0xC, 0xFFFF), (aRing r + 0x10, 0x80FF)]) : s.HoldsOnly a m := by
  fin_cases h
  · exact ring_holdsOnly hr (by simp)
  · exact ring_holdsOnly hr (by simp)
  · exact ring_holdsOnly hr (by simp)
  · exact ring_holdsOnly hr (by simp)

/-- The registers at fixed addresses. -/
theorem fixed_group (h : (a, m) ∈ [(0x28, (0xFFFFFFFF : BitVec 32)), (0x2C, 0xFFFFFFFF), (0x38, 0xFFFF), (0x20004, 0x00FF1FFF),
    (0x14010, 0xFFFFFFFF), (0x8000C, 0xFFFF), (0xA0000, 0x8000FFFF), (0xC0000, 0xFF), (0xC0010, 0xFFFFFFFF), (0xC0014, 0xFF),
    (0xE0000, 0xF80000FF)]) : s.HoldsOnly a m := by
  rcases (List.mem_append (s := [(0x28, (0xFFFFFFFF : BitVec 32)), (0x2C, 0xFFFFFFFF), (0x38, 0xFFFF), (0x20004, 0x00FF1FFF),
    (0x14010, 0xFFFFFFFF), (0x8000C, 0xFFFF), (0xA0000, 0x8000FFFF)])).1 h with h | h
  · exact first_holdsOnly h
  rcases (List.mem_append (s := [(0xC0000, (0xFF : BitVec 32)), (0xC0010, 0xFFFFFFFF), (0xC0014, 0xFF)])).1 h with h | h
  · exact memoryPort_holdsOnly h
  · cases List.mem_singleton.1 h
    exact recctl_holdsOnly

/-- Every register of the plain ones only holds what was written. -/
theorem PlainReg.holdsOnly (h : PlainReg s a m) : s.HoldsOnly a m := by
  rcases h with h | ⟨k, hk, rfl, rfl⟩ | ⟨r, hr, h⟩ | ⟨p, hp, h⟩ | ⟨g, c, k, hg, hc, hk, h⟩ | ⟨x, hx, rfl, rfl⟩ | ⟨g, hg, h⟩
  · exact fixed_group h
  · exact recFilter_holdsOnly hk
  · exact ring_group hr h
  · rcases h with ⟨k, hk, rfl, rfl⟩ | ⟨rfl, rfl⟩ | ⟨hf, rfl, rfl⟩
    · rw [Nat.add_assoc]
      exact egress_holdsOnly hp (.inl ⟨k, hk, rfl, rfl⟩)
    · exact egress_holdsOnly hp (.inr ⟨rfl, rfl⟩)
    · exact maxlen_holdsOnly hp hf
  · exact core_group hg hc hk h
  · exact thread_group hx
  · rcases h with h | ⟨k, hk, rfl, rfl⟩ | ⟨u, hu, rfl, rfl⟩
    · exact unit_group hg h
    · rw [Nat.add_assoc]
      exact locks_holdsOnly hg (by omega) (.inl ⟨by omega, by omega, rfl⟩)
    · rw [Nat.add_assoc]
      exact locks_holdsOnly hg (by omega) (.inr ⟨by omega, by omega, rfl⟩)

end Sys2Proof.Machine
end

section
/-!
PROOFS. Accesses of the management port and of the TAP (O54): plain and read-only registers, misaligned and refused accesses, the shared
latch, accesses that wait, and accesses that time out.
-/
set_option Elab.async false

namespace Sys2Proof.Machine

variable {s : State} {src : Src} {d : BitVec 32} {a : BitVec 24}

/-! ### Plain and read-only registers -/

theorem ofNat_addr : BitVec.ofNat 24 a.toNat = a := by
  rw [BitVec.ofNat_toNat, BitVec.setWidth_eq]

/-- A write of a register that only holds what was written. -/
theorem State.HoldsOnly.written {m : BitVec 32} (hm : s.HoldsOnly a.toNat m) (h : s.HostReaches src a.toNat) :
    let u := s.viaWrite src a.toNat d
    u.reg a.toNat = d &&& m ∧ u.ctr 0x30 = s.ctr 0x30 + 1 ∧ u.mgmt.rdata = 0 ∧
      bit (u.reg 0x20) (if src = .tap then 4 else 3) = true ∧ ∀ b, b ≠ a.toNat → b ≠ 0x20 → u.reg b = s.reg b := by
  intro u
  have hu : u = (s.setReg a.toNat (d &&& m)).wrote src (BitVec.ofNat 24 a.toNat) d := by
    dsimp only [u]
    rw [h.viaWrite hm.aligned, hm.write]
  rw [hu]
  refine ⟨?_, State.wrote_ctr h.1, State.wrote_rdata h.1, State.wrote_seen h.1, fun b hb h20 => ?_⟩
  · rw [State.wrote_reg_other h.1 hm.notStatus, State.reg_setReg_same]
  · rw [State.wrote_reg_other h.1 h20, State.reg_setReg_other _ _ hb]

/-- A read of a register of one word. -/
theorem State.HostReaches.readNarrow (h : s.HostReaches src a.toNat) (h4 : a.toNat % 4 = 0) (hw : wideAt a.toNat = none)
    (hp : a.toNat ≠ 0x80014) :
    let u := s.viaRead src a.toNat
    u.mgmt.rdata = s.peek a.toNat ∧ u.ctrs = s.ctrs ∧ bit (u.reg 0x20) (if src = .tap then 4 else 3) = true ∧
      ∀ b, b ≠ 0x20 → u.reg b = s.reg b := by
  intro u
  have hu : u = (s.setRdata (s.peek a.toNat)).orReg 0x20 (pathFlag src) := h.readPlain h4 hw hp
  rw [hu]
  refine ⟨rfl, rfl, ?_, fun b hb => State.reg_setReg_other _ _ hb⟩
  rw [State.reg_orReg, if_pos rfl]
  exact bit_pathFlag

/-- VERSION, CONFIG and PINPADS: address a reads v, and a write of it does nothing (R4, R8, R9). -/
structure State.ReadOnly (s : State) (a : BitVec 24) (v : BitVec 32) : Prop where
  aligned : a.toNat % 4 = 0
  narrow : wideAt a.toNat = none
  notPeak : a.toNat ≠ 0x80014
  peek : s.peek a.toNat = v
  write : ∀ src d, s.writeReg src a.toNat d = s

theorem pinpads_readOnly {k : Nat} (hk : k < 4) (ha : a.toNat = 0x10 + 4 * k) :
    s.ReadOnly a (s.ties.pinpads.extractLsb' (32 * k) 32) := by
  have hp : s.peek (0x10 + 4 * k) = word32 s.ties.pinpads.toNat k := by
    interval_cases k <;> rfl
  have hv : word32 s.ties.pinpads.toNat k = s.ties.pinpads.extractLsb' (32 * k) 32 := by
    apply BitVec.eq_of_toNat_eq
    simp [word32, BitVec.extractLsb'_toNat]
  refine ⟨by omega, ?_, by omega, ?_, fun src d => ?_⟩
  · rw [ha]
    interval_cases k <;> rfl
  · rw [ha, hp, hv]
  · rw [ha]
    interval_cases k <;> rfl

theorem State.readOnly_of {v : BitVec 32} (h : (a = 0 ∧ v = 0x00020100) ∨
    (a = 4 ∧ v = BitVec.ofNat 32 (s.ties.xupres.toNat * 0x10000 + s.ties.memports * 0x100 + 0x34)) ∨
    ∃ k, k < 4 ∧ a.toNat = 0x10 + 4 * k ∧ v = s.ties.pinpads.extractLsb' (32 * k) 32) : s.ReadOnly a v := by
  rcases h with ⟨rfl, rfl⟩ | ⟨rfl, rfl⟩ | ⟨k, hk, ha, rfl⟩
  · exact ⟨by decide, rfl, by decide, rfl, fun _ _ => rfl⟩
  · exact ⟨by decide, rfl, by decide, rfl, fun _ _ => rfl⟩
  · exact pinpads_readOnly hk ha

theorem State.ReadOnly.written {v : BitVec 32} (hv : s.ReadOnly a v) (h : s.HostReaches src a.toNat) :
    let u := s.viaWrite src a.toNat d
    u.ctr 0x30 = s.ctr 0x30 + 1 ∧ u.ties = s.ties ∧ ∀ b, b ≠ 0x20 → u.reg b = s.reg b := by
  intro u
  have hu : u = s.wrote src (BitVec.ofNat 24 a.toNat) d := by
    dsimp only [u]
    rw [h.viaWrite hv.aligned, hv.write]
  rw [hu]
  exact ⟨State.wrote_ctr h.1, State.wrote_ties h.1, fun b hb => State.wrote_reg_other h.1 hb⟩

/-! ### Accesses that are refused (R415, R477) -/

/-- No access waits and the path is there, outside a start reset: the next access of the path is not held up. -/
def State.Free (s : State) (src : Src) : Prop :=
  (src = .mgmt ∨ src = .tap) ∧ s.mgmt.waiting = [] ∧ s.pathUp src = true ∧ s.inReset = false

theorem State.Free.write (h : s.Free src) (hr : s.accReady { src := src, addr := a, wr := some d } = true) :
    s.viaWrite src a.toNat d = s.mgWrite src a d := by
  obtain ⟨hs, hw, hp, hn⟩ := h
  rw [State.viaWrite_bus hs, ofNat_addr]
  unfold State.busWrite
  rw [State.accBegin_ready hw hp hr]
  simp [State.accRun, hn]

theorem State.Free.read (h : s.Free src) (hr : s.accReady { src := src, addr := a, wr := none } = true) :
    s.viaRead src a.toNat = s.mgRead src a := by
  obtain ⟨hs, hw, hp, hn⟩ := h
  rw [State.viaRead_bus hs, ofNat_addr]
  unfold State.busRead
  rw [State.accBegin_ready hw hp hr]
  simp [State.accRun, hn]

/-- A misaligned write sets MISAL and writes nothing else. -/
theorem State.Free.misaligned (h : s.Free src) (h4 : a.toNat % 4 ≠ 0) :
    bit ((s.viaWrite src a.toNat d).reg 0x20) 6 = true ∧ ∀ b, b ≠ 0x20 → (s.viaWrite src a.toNat d).reg b = s.reg b := by
  have hu : s.viaWrite src a.toNat d = (s.orReg 0x20 0x40).wrote src a d := by
    rw [h.write (by simp [State.accReady, h4])]
    unfold State.mgWrite State.wrote
    dsimp only
    rw [if_pos h4]
  rw [hu]
  constructor
  · rw [State.wrote_reg h.1, State.reg_orReg, if_pos rfl, State.reg_orReg, if_pos rfl]
    unfold bit
    rw [BitVec.getLsbD_or, BitVec.getLsbD_or]
    simp
  · intro b hb
    rw [State.wrote_reg_other h.1 hb]
    exact State.reg_setReg_other _ _ hb

theorem bit_or_pow {v : BitVec 32} {i : Nat} (hi : i < 32) : bit (v ||| BitVec.ofNat 32 (2 ^ i)) i = true := by
  unfold bit
  rw [BitVec.getLsbD_or, BitVec.getLsbD_ofNat, Nat.testBit_two_pow_self]
  simp [hi]

theorem islandOf_lt {n i : Nat} (h : islandOf n = some i) : i < 18 := by
  unfold islandOf at h
  rcases Nat.lt_or_ge n 0x80000 with hn | hn
  · grind
  · grind

/-- An access to an island that is not open sets its PWRACC bit; a write changes nothing else, and a read gives 0. -/
theorem State.Free.closed {i : Nat} (h : s.Free src) (h4 : a.toNat % 4 = 0) (hi : islandOf a.toNat = some i)
    (ho : s.islandOpen i = false) :
    (bit ((s.viaWrite src a.toNat d).reg 0x1100C) i = true ∧
      ∀ b, b ≠ 0x20 → b ≠ 0x1100C → (s.viaWrite src a.toNat d).reg b = s.reg b) ∧
    (s.viaRead src a.toNat).mgmt.rdata = 0 ∧ bit ((s.viaRead src a.toNat).reg 0x1100C) i = true := by
  have hr : ∀ wr, s.accReady { src := src, addr := a, wr := wr } = true := fun wr => by simp [State.accReady, hi, ho]
  have hlt : i < 32 := by
    have := islandOf_lt hi
    omega
  have hw : s.viaWrite src a.toNat d = (s.pwracc i).wrote src a d := by
    rw [h.write (hr _)]
    simp [State.mgWrite, State.wrote, h4, hi, ho]
  have hd : s.viaRead src a.toNat = ((s.setRdata 0).pwracc i).orReg 0x20 (pathFlag src) := by
    rw [h.read (hr _), ← State.seen_eq h.1]
    simp [State.mgRead, h4, hi, ho]
  rw [hw, hd]
  refine ⟨⟨?_, fun b hb hb' => ?_⟩, rfl, ?_⟩
  · rw [State.wrote_reg_other h.1 (by decide)]
    unfold State.pwracc
    rw [State.reg_orReg, if_pos rfl]
    exact bit_or_pow hlt
  · rw [State.wrote_reg_other h.1 hb]
    exact State.reg_setReg_other _ _ hb'
  · rw [State.reg_orReg, if_neg (by decide)]
    unfold State.pwracc
    rw [State.reg_orReg, if_pos rfl]
    exact bit_or_pow hlt

/-! ### The shared latch (R480) -/

theorem word32_low {v : BitVec 64} : word32 v.toNat 0 = v.setWidth 32 := by
  apply BitVec.eq_of_toNat_eq
  simp [word32]

theorem word32_high {v : BitVec 64} : word32 v.toNat 1 = v.extractLsb' 32 32 := by
  apply BitVec.eq_of_toNat_eq
  simp [word32, BitVec.extractLsb'_toNat]

/-- A read of the low word of WRCOUNT loads the latch. -/
theorem State.HostReaches.latches (h : s.HostReaches src (0x30 : BitVec 24).toNat) :
    let u := s.viaRead src (0x30 : BitVec 24).toNat
    u.mgmt.rdata = (s.ctr 0x30).setWidth 32 ∧ u.mgmt.latchV = true ∧ u.mgmt.latchA = 0x30 ∧
      u.mgmt.latchW = [(s.ctr 0x30).extractLsb' 32 32] := by
  intro u
  have hu : u = _ := State.HostReaches.readWide (a := 0x30) (k := 2) (v := (s.ctr 0x30).toNat) (t := s) h rfl rfl rfl
  rw [hu]
  refine ⟨word32_low, rfl, rfl, ?_⟩
  show [word32 (s.ctr 0x30).toNat 1] = _
  rw [word32_high]

/-- A read of the high word of WRCOUNT gives the latched word. -/
theorem State.HostReaches.latched {w : BitVec 32} (h : s.HostReaches src (0x34 : BitVec 24).toNat) (hv : s.mgmt.latchV = true)
    (ha : s.mgmt.latchA = 0x30) (hw : s.mgmt.latchW = [w]) : (s.viaRead src (0x34 : BitVec 24).toNat).mgmt.rdata = w := by
  have hl : s.latchedRead 0x34 = s.setRdata w := by
    show (if s.mgmt.latchV && s.mgmt.latchA.toNat = 0x30 then s.setRdata ((s.mgmt.latchW[0]?).getD 0)
      else (s.setRdata (s.peek 0x34)).orReg 0x20 0x20) = _
    rw [hv, ha, hw]
    rfl
  rw [h.viaRead rfl, State.seen_eq h.1]
  exact congrArg (fun t : State => t.mgmt.rdata) hl

/-- With the latch empty it reads as it stands and sets LATCHMISS. -/
theorem State.HostReaches.latchMiss (h : s.HostReaches src (0x34 : BitVec 24).toNat) (hv : s.mgmt.latchV = false) :
    let u := s.viaRead src (0x34 : BitVec 24).toNat
    u.mgmt.rdata = (s.ctr 0x30).extractLsb' 32 32 ∧ bit (u.reg 0x20) 5 = true := by
  have hl : s.latchedRead 0x34 = (s.setRdata (word32 (s.ctr 0x30).toNat 1)).orReg 0x20 0x20 := by
    show (if s.mgmt.latchV && s.mgmt.latchA.toNat = 0x30 then s.setRdata ((s.mgmt.latchW[0]?).getD 0)
      else (s.setRdata (s.peek 0x34)).orReg 0x20 0x20) = _
    rw [hv]
    rfl
  have hu : s.viaRead src (0x34 : BitVec 24).toNat =
      ((s.setRdata (word32 (s.ctr 0x30).toNat 1)).orReg 0x20 0x20).orReg 0x20 (pathFlag src) := by
    rw [h.viaRead rfl, State.seen_eq h.1, ← hl]
    rfl
  intro u
  dsimp only [u]
  rw [hu]
  constructor
  · exact word32_high
  · rw [State.reg_orReg, if_pos rfl, State.reg_orReg, if_pos rfl]
    unfold bit
    rw [BitVec.getLsbD_or, BitVec.getLsbD_or]
    simp

/-! ### Accesses that wait (R474, R478, R479) -/

/-- An access waits, behind those that began before it. -/
def State.queued (s : State) (x : Access) : State := { s with mgmt := { s.mgmt with waiting := s.mgmt.waiting ++ [x] } }

/-- An access that finds its target not ready begins to wait. -/
theorem State.Free.waits {x : Access} (h : s.Free x.src) (hr : s.accReady x = false) :
    s.accBegin x = { s with mgmt := { s.mgmt with waiting := [x] } } := by
  obtain ⟨hs, hw, hp, hn⟩ := h
  unfold State.accBegin
  rw [State.accServe_nil hw]
  simp [hp, hr, hw]

/-- An open island that owes an answer, or a port island whose clock is lost, is not ready. -/
theorem State.accReady_waits {x : Access} {i : Nat} (hn : s.inReset = false) (h4 : x.addr.toNat % 4 = 0)
    (hi : islandOf x.addr.toNat = some i) (ho : s.islandOpen i = true)
    (h : s.mgmt.owed.any (fun o => o.island = i) = true ∨ ∃ p, p < 4 ∧ i = p + 6 ∧ s.clkGone (p + 2) = true) :
    s.accReady x = false := by
  have hw : s.accWaits i = true := by
    unfold State.accWaits
    rcases h with h | ⟨p, hp, rfl, hc⟩
    · rw [h]
      rfl
    · have h1 : p + 6 - 4 = p + 2 := by omega
      simp [h1, hc, show p + 6 < 10 by omega]
  simp [State.accReady, hn, h4, hi, ho, hw]

/-- While the oldest access is held up, none is served. -/
theorem State.accServe_blocked {y : Access} {ys : List Access} (hw : s.mgmt.waiting = y :: ys) (hp : s.pathUp y.src = true)
    (hr : s.accReady y = false) : s.accServe = s := by
  have hf : s.accFront = some y := by simp [State.accFront, hw, hp]
  have hstep : ∀ l : List Nat, l.foldl (fun (s : State) _ =>
      match s.accFront with
      | some x => if s.accReady x then (s.accDrop x).accRun x else s
      | none => s) s = s := fun l => by
    induction l with
    | nil => rfl
    | cons n l ih => simpa [hf, hr] using ih
  exact hstep _

/-- A later access waits behind one that is held up. -/
theorem State.accBegin_behind {x y : Access} {ys : List Access} (hw : s.mgmt.waiting = y :: ys) (hp : s.pathUp y.src = true)
    (hr : s.accReady y = false) (hx : s.pathUp x.src = true) :
    s.accBegin x = { s with mgmt := { s.mgmt with waiting := s.mgmt.waiting ++ [x] } } := by
  have hf : s.accFront = some y := by simp [State.accFront, hw, hp]
  unfold State.accBegin
  rw [State.accServe_blocked hw hp hr]
  simp [hx, hf]

/-- The one access that waits is served when it can complete. -/
theorem State.accServe_one {y : Access} (hw : s.mgmt.waiting = [y]) (hp : s.pathUp y.src = true) (hr : s.accReady y = true) :
    s.accServe = State.accRun { s with mgmt := { s.mgmt with waiting := [] } } y := by
  have hf : s.accFront = some y := by simp [State.accFront, hw, hp]
  have hd : s.accDrop y = { s with mgmt := { s.mgmt with waiting := [] } } := by
    unfold State.accDrop
    rw [hw]
    simp
  unfold State.accServe
  rw [hw]
  show (match s.accFront with
    | some x => if s.accReady x then (s.accDrop x).accRun x else s
    | none => s) = _
  rw [hf]
  dsimp only
  rw [hr, if_pos rfl, hd]

/-- The access that a row of a write or a read makes. -/
def rowAccess (src : Src) (a : BitVec 24) (d : BitVec 32) (wr : Bool) : Access :=
  { src := src, addr := a, wr := if wr then some d else none }

theorem exec_row {wr : Bool} (h : src = .mgmt ∨ src = .tap) :
    exec (if wr then .registerWrite src a d else .managementRead src a) s = .next (s.accBegin (rowAccess src a d wr)) := by
  cases wr
  · show Host.Outcome.next (s.viaRead src a.toNat) = _
    rw [State.viaRead_bus h, ofNat_addr]
    rfl
  · show Host.Outcome.next (s.viaWrite src a.toNat d) = _
    rw [State.viaWrite_bus h, ofNat_addr]
    rfl

/-! ### Accesses that time out (R478) -/

theorem State.bwDone_mgmt {q : Prop} [Decidable q] {g : Nat} : (if q then s.bwDone g else s).mgmt = s.mgmt := by
  split
  · rfl
  · rfl

theorem State.bwGiveUp_mgmt {wr : Bool} : (s.bwGiveUp a wr).mgmt = s.mgmt := by
  unfold State.bwGiveUp
  exact State.bwDone_mgmt

/-- What a timed-out access leaves. -/
theorem State.accExpire_result {x : Access} {i : Nat} (h : x.src = .mgmt ∨ x.src = .tap) :
    let u := s.accExpire x i
    u.mgmt.rdata = 0 ∧ u.mgmt.waiting = s.mgmt.waiting ∧ bit (u.reg 0x20) 7 = true ∧
      (x.src = .tap → u.tap.ready = true ∧ u.tap.data = 0) ∧
      u.mgmt.owed = s.mgmt.owed ++ [{ island := i, wr := x.wr.map (fun d => (x.addr, d)) }] := by
  unfold State.accExpire
  extract_lets u o _ v w z _ y
  have hu : u.mgmt = s.mgmt := by
    dsimp only [u]
    split
    · exact State.bwGiveUp_mgmt
    · rfl
  have hw : w.mgmt = { s.mgmt with owed := s.mgmt.owed ++ [o], rdata := 0 } ∧ bit (w.reg 0x20) 7 = true := by
    dsimp only [w, v]
    rw [State.seen_eq h, ← hu]
    refine ⟨rfl, ?_⟩
    rw [State.reg_orReg, if_pos rfl, State.reg_orReg, if_pos rfl]
    unfold bit
    rw [BitVec.getLsbD_or, BitVec.getLsbD_or]
    simp
  have hz : z.mgmt = w.mgmt ∧ z.regs = w.regs := by
    dsimp only [z]
    split
    · obtain ⟨r, l, e⟩ := State.logWrite_eq (s := w) (src := x.src) (b := x.addr)
      rw [e]
      exact ⟨rfl, rfl⟩
    · exact ⟨rfl, rfl⟩
  have hreg : z.reg 0x20 = w.reg 0x20 := by
    unfold State.reg
    rw [hz.2]
  have hy : y.mgmt = z.mgmt ∧ y.reg 0x20 = z.reg 0x20 ∧ (x.src = .tap → y.tap.ready = true ∧ y.tap.data = 0) := by
    dsimp only [y]
    split
    · exact ⟨rfl, rfl, fun _ => ⟨rfl, rfl⟩⟩
    · next ht => exact ⟨rfl, rfl, fun hc => absurd hc ht⟩
  rw [hy.1, hz.1, hw.1, hy.2.1, hreg]
  exact ⟨rfl, rfl, hw.2, hy.2.2, rfl⟩

/-- An access that island i neither completes nor refuses can time out while ACKTMO is not 0. -/
theorem State.accExpires_some {x : Access} {i : Nat} (hi : islandOf x.addr.toNat = some i) (h1 : i ≠ 1)
    (h4 : x.addr.toNat % 4 = 0) (ho : s.islandOpen i = true) (ht : (s.reg 0x38).toNat % 65536 ≠ 0) (hp : s.pathUp x.src = true)
    (hn : s.inReset = false) : s.accExpires x = some i := by
  have hf : fld (s.reg 0x38) 0 16 ≠ 0 := by
    unfold fld
    exact ht
  unfold State.accExpires
  rw [hi]
  simp [h1, h4, ho, hf, hp, hn]

/-- With no access in progress the one that begins now times out. -/
theorem State.accTimeout_free {wr : Bool} {i : Nat} (hw : s.mgmt.waiting = [])
    (he : s.accExpires (rowAccess src a d wr) = some i) :
    s.accTimeout src a wr d = s.accExpire (rowAccess src a d wr) i := by
  have hf : s.accFront = none := by simp [State.accFront, hw]
  unfold State.accTimeout
  dsimp only
  rw [hf]
  dsimp only
  change (match s.accExpires (rowAccess src a d wr) with | some i => _ | none => s) = _
  rw [he]
  rfl

/-- The access in progress leaves the list and times out. -/
theorem State.accTimeout_front {wr dr : Bool} {i : Nat} {ys : List Access}
    (hw : s.mgmt.waiting = { rowAccess src a d wr with dr := dr } :: ys) (hp : s.pathUp src = true)
    (he : s.accExpires { rowAccess src a d wr with dr := dr } = some i) :
    s.accTimeout src a wr d =
      State.accExpire { s with mgmt := { s.mgmt with waiting := ys } } { rowAccess src a d wr with dr := dr } i := by
  have hf : s.accFront = some { rowAccess src a d wr with dr := dr } := by
    simp [State.accFront, hw, rowAccess, hp]
  have hd : s.accDrop { rowAccess src a d wr with dr := dr } = { s with mgmt := { s.mgmt with waiting := ys } } := by
    unfold State.accDrop
    rw [hw]
    simp
  unfold State.accTimeout
  dsimp only
  rw [hf]
  dsimp only
  rw [if_pos, he]
  · dsimp only
    rw [hd]
  · rfl

/-- An access in progress or one that begins now times out (R478). -/
theorem State.accTimeout_result {wr : Bool} {i : Nat} (hs : src = .mgmt ∨ src = .tap)
    (h : s.Free src ∨ ∃ dr ys, s.mgmt.waiting = { rowAccess src a d wr with dr := dr } :: ys ∧ s.pathUp src = true ∧
      s.inReset = false)
    (hi : islandOf a.toNat = some i) (h1 : i ≠ 1) (h4 : a.toNat % 4 = 0) (ho : s.islandOpen i = true)
    (ht : (s.reg 0x38).toNat % 65536 ≠ 0) :
    let u := s.accTimeout src a wr d
    u.mgmt.rdata = 0 ∧ u.mgmt.waiting = s.mgmt.waiting.tail ∧ bit (u.reg 0x20) 7 = true ∧
      (src = .tap → u.tap.ready = true ∧ u.tap.data = 0) ∧
      u.mgmt.owed = s.mgmt.owed ++ [{ island := i, wr := if wr then some (a, d) else none }] := by
  intro u
  have hwr : (rowAccess src a d wr).wr.map (fun d => (a, d)) = if wr then some (a, d) else none := by
    cases wr <;> rfl
  rcases h with ⟨-, hw, hp, hn⟩ | ⟨dr, ys, hw, hp, hn⟩
  · have hu : u = s.accExpire (rowAccess src a d wr) i :=
      State.accTimeout_free hw (State.accExpires_some hi h1 h4 ho ht hp hn)
    obtain ⟨e1, e2, e3, e4, e5⟩ := s.accExpire_result (x := rowAccess src a d wr) (i := i) hs
    rw [hu, ← hwr]
    refine ⟨e1, ?_, e3, e4, e5⟩
    rw [e2, hw]
    rfl
  · have hu := State.accTimeout_front (d := d) hw hp (State.accExpires_some hi h1 h4 ho ht hp hn)
    obtain ⟨e1, e2, e3, e4, e5⟩ := State.accExpire_result (s := { s with mgmt := { s.mgmt with waiting := ys } })
      (x := { rowAccess src a d wr with dr := dr }) (i := i) hs
    dsimp only [u]
    rw [hu, ← hwr]
    refine ⟨e1, ?_, e3, e4, e5⟩
    rw [e2, hw]
    rfl

/-- IRQTEST (R490). -/
theorem State.HostReaches.irqtest (h : s.HostReaches src 0x20014) (hd : bit d 0 = true) :
    let u := s.viaWrite src 0x20014 d
    bit (u.reg 0x2000C) 3 = true ∧ ∀ b, b ≠ 0x2000C → b ≠ 0x20 → u.reg b = s.reg b := by
  have hw : s.writeReg src 0x20014 d = s.orReg 0x2000C 8 := by
    show (if bit d 0 then s.orReg 0x2000C 8 else s) = _
    rw [if_pos hd]
  intro u
  have hu : u = (s.orReg 0x2000C 8).wrote src (BitVec.ofNat 24 0x20014) d := by
    dsimp only [u]
    rw [h.viaWrite (by decide), hw]
  rw [hu]
  constructor
  · rw [State.wrote_reg_other h.1 (by decide), State.reg_orReg, if_pos rfl]
    unfold bit
    rw [BitVec.getLsbD_or]
    simp
  · intro b hb h20
    rw [State.wrote_reg_other h.1 h20]
    exact State.reg_setReg_other _ _ hb

/-- Settles O54: every access that completes at once is the read or the write of its register, every other one waits or times out. -/
theorem managementResults : Obligations.ManagementResults := by
  intro src a d wr s seen free x row
  have hfree : free → s.Free src := fun ⟨h1, h2, h3, h4⟩ => ⟨h1, h2, h3, h4⟩
  have hrow : (src = .mgmt ∨ src = .tap) → exec row s = .next (s.accBegin x) := exec_row
  refine ⟨fun m h hm => ⟨⟨_, rfl, ?_⟩, ⟨_, rfl, ?_⟩⟩, fun v h hv => ⟨⟨_, rfl, ?_⟩, ⟨_, rfl, ?_⟩⟩,
    fun hf h4 => ⟨_, rfl, ?_⟩, fun i hf h4 hi ho => ⟨⟨_, rfl, ?_⟩, ⟨_, rfl, ?_⟩⟩,
    fun h => ⟨fun ha => ?_, fun w ha hv hl hw => ⟨_, rfl, ?_⟩, fun ha hv => ⟨_, rfl, ?_⟩⟩,
    fun i hf h4 hi ho hb => ?_, fun y ys hw hp hr hx hs => ?_, fun y hw hp hr => ?_, fun i h hs hi h1 h4 ho ht => ⟨_, rfl, ?_⟩,
    fun h hd => ⟨_, rfl, ?_⟩⟩
  · exact hm.holdsOnly.written h
  · obtain ⟨e1, e2, e3, e4⟩ := h.readNarrow hm.holdsOnly.aligned hm.holdsOnly.narrow hm.holdsOnly.notPeak
    exact ⟨e1.trans hm.holdsOnly.peek, e2, e3, e4⟩
  · have hr := State.readOnly_of hv
    obtain ⟨e1, e2, -, e4⟩ := h.readNarrow hr.aligned hr.narrow hr.notPeak
    exact ⟨e1.trans hr.peek, e2, e4⟩
  · exact (State.readOnly_of hv).written h
  · exact (hfree hf).misaligned h4
  · exact ((hfree hf).closed h4 hi ho).1
  · exact ((hfree hf).closed (d := d) h4 hi ho).2
  · subst ha
    exact ⟨_, rfl, h.latches⟩
  · subst ha
    exact h.latched hv hl hw
  · subst ha
    exact h.latchMiss hv
  · refine ⟨_, hrow hf.1, ?_⟩
    exact State.Free.waits (x := x) (hfree hf) (State.accReady_waits hf.2.2.2 h4 hi ho hb)
  · exact ⟨_, hrow hs, State.accBegin_behind hw hp hr hx⟩
  · exact State.accServe_one hw hp hr
  · exact State.accTimeout_result hs (h.imp hfree id) hi h1 h4 ho ht
  · exact h.irqtest hd

end Sys2Proof.Machine
end

section
/-!
PROOFS. The links of Llynon (R21, R410): what a message that is given to its path, and one that is taken out of a receive buffer, leave of
the path.
-/
namespace Sys2Proof.Machine

variable {s : State} {k j : Nat} {m : Message} {rest : List Message}

/-! ### The sender -/

/-- A message that leaves the sender stays in flight, in its place. -/
theorem Link.inFlight_send (n : Nat) (l : Link) : (l.send n).inFlight = l.inFlight := by
  induction n generalizing l with
  | zero => rfl
  | succ n ih =>
    unfold Link.send
    split
    · rfl
    · next m rest hw =>
      split
      · rw [ih]
        simp [Link.inFlight, hw]
      · rfl

theorem Link.buf_send (n : Nat) (l : Link) : (l.send n).buf = l.buf := by
  induction n generalizing l with
  | zero => rfl
  | succ n ih =>
    unfold Link.send
    split
    · rfl
    · split
      · rw [ih]
      · rfl

/-! ### A message is given to its path -/

theorem State.link_push : (s.push k m).link j =
    if j = k then ({ s.link k with wait := (s.link k).wait ++ [m] } : Link).send ((s.link k).wait.length + 1) else s.link j :=
  State.link_setLink s k j _

theorem State.link_push_other (h : j ≠ k) : (s.push k m).link j = s.link j := by
  rw [State.link_push, if_neg h]

theorem State.inFlight_push : ((s.push k m).link k).inFlight = (s.link k).inFlight ++ [m] := by
  rw [State.link_push, if_pos rfl, Link.inFlight_send]
  simp [Link.inFlight]

/-- With nothing waiting and credits for it, a message leaves at once. -/
theorem State.link_push_leaves (hw : (s.link k).wait = []) (hc : m.size ≤ (s.link k).credit) : (s.push k m).link k =
    { s.link k with out := (s.link k).out ++ [m], credit := (s.link k).credit - m.size } := by
  rw [State.link_push, if_pos rfl]
  simp [Link.send, hw, hc]

/-- With nothing waiting and too few credits for it, a message waits. -/
theorem State.link_push_waits (hw : (s.link k).wait = []) (hc : (s.link k).credit < m.size) :
    (s.push k m).link k = { s.link k with wait := [m] } := by
  rw [State.link_push, if_pos rfl]
  simp [Link.send, hw, Nat.not_le.2 hc]

/-! ### A message is taken out of the receive buffer -/

theorem State.popLink_eq (h : (s.link k).buf = m :: rest) : s.popLink k = s.setLink k
    (({ s.link k with buf := rest, credit := min 8 ((s.link k).credit + m.size) } : Link).send (s.link k).wait.length) := by
  unfold State.popLink
  simp [h]

theorem State.peekLink_eq (h : (s.link k).buf = m :: rest) : s.peekLink k = some m := by
  unfold State.peekLink
  rw [h]
  rfl

theorem State.buf_popLink (h : (s.link k).buf = m :: rest) : ((s.popLink k).link k).buf = rest := by
  rw [State.popLink_eq h, State.link_setLink, if_pos rfl, Link.buf_send]

/-- With nothing waiting at the sender, taking out a message gives its credits back. -/
theorem State.link_popLink (hw : (s.link k).wait = []) (h : (s.link k).buf = m :: rest) : (s.popLink k).link k =
    { s.link k with buf := rest, credit := min 8 ((s.link k).credit + m.size) } := by
  rw [State.popLink_eq h, State.link_setLink, if_pos rfl, hw]
  rfl

end Sys2Proof.Machine
end

section
/-!
PROOFS. The dispatcher and the groves' interfaces (O31): packets that are released, one trunk cycle of descriptors, and the thread that an
arriving descriptor is given to.
-/
namespace Sys2Proof.Machine

variable {s : State} {g : Nat} {d : Desc}

/-! ### Packets that timed out before their issue -/

theorem State.pkts_releasePkt {c x : Nat} :
    mfind (s.releasePkt c).trunk.pkts x = if x = c then none else mfind s.trunk.pkts x := by
  unfold State.releasePkt
  split
  · next h =>
    split
    · next hx => rw [hx, h]
    · rfl
  · show mfind (mdel s.trunk.pkts c) x = _
    split
    · next hx => rw [hx, mfind_mdel_same]
    · next hx => rw [mfind_mdel_other hx]

theorem State.alloc_releasePkt {c x : Nat} : x ∈ (s.releasePkt c).trunk.alloc ↔
    x ∈ s.trunk.alloc ∧ ∀ k, mfind s.trunk.pkts c = some k → x ∉ k.cells := by
  unfold State.releasePkt
  split
  · next h => simp [h]
  · next k h =>
    show x ∈ s.trunk.alloc.filter (fun y => !k.cells.contains y) ↔ _
    simp [h]

/-- A packet that is released leaves the buffer, and its port no longer uses its cells (R32). -/
theorem State.releasePkt_released {c : Nat} {k : Packet} (h : mfind s.trunk.pkts c = some k) :
    Released s (s.releasePkt c) k c := by
  refine ⟨by rw [State.pkts_releasePkt, if_pos rfl], fun x => ?_, ?_⟩
  · rw [State.alloc_releasePkt]
    simp [h]
  · unfold State.releasePkt
    rw [h]
    exact congrArg Port.used ((State.port_modPort _ _ _ _).trans (if_pos rfl))

/-- All packets of a list are released. -/
theorem State.foldl_releasePkt (l : List Nat) : let u := l.foldl (fun (s : State) c => s.releasePkt c) s
    (∀ x, mfind u.trunk.pkts x = if x ∈ l then none else mfind s.trunk.pkts x) ∧
      ∀ c, c ∈ u.trunk.alloc ↔ c ∈ s.trunk.alloc ∧ ∀ x ∈ l, ∀ k, mfind s.trunk.pkts x = some k → c ∉ k.cells := by
  induction l generalizing s with
  | nil => simp
  | cons y l ih =>
    obtain ⟨hp, ha⟩ := ih (s := s.releasePkt y)
    refine ⟨fun x => (hp x).trans ?_, fun c => (ha c).trans ?_⟩
    · rw [State.pkts_releasePkt]
      by_cases hy : x = y
      · simp [hy]
      · simp [hy]
    · rw [State.alloc_releasePkt, and_assoc, List.forall_mem_cons]
      refine and_congr_right fun _ => and_congr_right fun hc => ?_
      refine forall₂_congr fun x _ => forall_congr' fun k => ?_
      rw [State.pkts_releasePkt]
      split
      · next hx =>
        subst hx
        exact ⟨fun _ => hc k, fun _ h => nomatch h⟩
      · rfl

theorem State.releaseLost_of_nil (h : s.trunk.lost = []) : s.releaseLost = s := by
  unfold State.releaseLost State.modTrunk
  rw [h]
  show { s with trunk := { s.trunk with lost := [] } } = s
  rw [← h]

/-! ### One trunk cycle of descriptors -/

/-- A grove that has taken a descriptor in the cycle takes no other (R46). -/
theorem State.pickGrove_not_mem {taken : List Nat} {tie : Bool} (h : s.pickGrove taken = some (g, tie)) : g ∉ taken := by
  unfold State.pickGrove at h
  dsimp only at h
  split at h
  · next x hx =>
    simp only [Option.some.injEq, Prod.mk.injEq] at h
    obtain ⟨rfl, -⟩ := h
    have := List.find?_some hx
    simp only [List.contains_eq_mem, List.mem_filter, decide_eq_true_eq, Bool.and_eq_true, Bool.not_eq_true',
      decide_eq_false_iff_not] at this
    exact this.1.2.2
  · cases h

/-- The oldest descriptor has left for grove g, for one credit of it; the packets of `rest` are still to issue (R46, R51). -/
def State.issuedTo (s : State) (g : Nat) (tie : Bool) (rest : List Nat) (d : Desc) : State :=
  (s.modTrunk fun t => { t with
    issueQ := rest, credits := mput 0 t.credits g (mget 0 t.credits g - 1), tie := if tie then g else t.tie }).push
      (128 + g) (.desc d)

theorem State.issueDescs_issues {n tag : Nat} {taken rest : List Nat} {tie : Bool} (hq : s.trunk.issueQ = tag :: rest)
    (hg : s.pickGrove taken = some (g, tie)) (hd : s.descOf tag = some d) :
    s.issueDescs (n + 1) taken = (s.issuedTo g tie rest d).issueDescs n (g :: taken) := by
  rw [State.issueDescs, hq]
  dsimp only
  rw [hg, hd]
  rfl

/-- The dispatcher's cycle ends, or one more descriptor leaves. -/
theorem State.issueDescs_cases (n : Nat) (taken : List Nat) : s.issueDescs (n + 1) taken = s ∨
    ∃ g tag tie rest d, s.trunk.issueQ = tag :: rest ∧ s.pickGrove taken = some (g, tie) ∧
      s.issueDescs (n + 1) taken = (s.issuedTo g tie rest d).issueDescs n (g :: taken) := by
  cases hq : s.trunk.issueQ with
  | nil =>
    left
    rw [State.issueDescs, hq]
  | cons tag rest =>
    cases hg : s.pickGrove taken with
    | none =>
      left
      rw [State.issueDescs, hq]
      dsimp only
      rw [hg]
    | some x =>
      cases hd : s.descOf tag with
      | none =>
        left
        rw [State.issueDescs, hq]
        dsimp only
        rw [hg, hd]
      | some d => exact .inr ⟨x.1, tag, x.2, rest, d, rfl, rfl, State.issueDescs_issues hq hg hd⟩

/-- The dispatcher's cycle changes links and, of the trunk, what it keeps of the packets still to issue, of credits and of the rotation. -/
theorem State.issueDescs_eq (n : Nat) (taken : List Nat) : ∃ l q c t, s.issueDescs n taken =
    { s with links := l, trunk := { s.trunk with issueQ := q, credits := c, tie := t } } := by
  induction n generalizing s taken with
  | zero => exact ⟨_, _, _, _, rfl⟩
  | succ n ih =>
    rcases State.issueDescs_cases (s := s) n taken with e | ⟨g, tag, tie, rest, d, -, -, e⟩
    · exact ⟨_, _, _, _, e⟩
    · obtain ⟨l, q, c, t, h⟩ := ih (s := s.issuedTo g tie rest d) (g :: taken)
      exact ⟨l, q, c, t, e.trans h⟩

/-- The rest of a dispatcher's cycle leaves the groves that have taken a descriptor in it, and issues at most n of those that wait. -/
theorem State.issueDescs_taken (n : Nat) {taken : List Nat} : let u := s.issueDescs n taken
    (∀ g ∈ taken, u.link (128 + g) = s.link (128 + g) ∧ mget 0 u.trunk.credits g = mget 0 s.trunk.credits g) ∧
      ∃ j, j ≤ n ∧ u.trunk.issueQ = s.trunk.issueQ.drop j := by
  induction n generalizing s taken with
  | zero => exact ⟨fun _ _ => ⟨rfl, rfl⟩, 0, le_rfl, rfl⟩
  | succ n ih =>
    rcases State.issueDescs_cases (s := s) n taken with e | ⟨g, tag, tie, rest, d, hq, hg, e⟩
    · rw [e]
      exact ⟨fun _ _ => ⟨rfl, rfl⟩, 0, Nat.zero_le _, rfl⟩
    · obtain ⟨hkeep, j, hj, hrest⟩ := ih (s := s.issuedTo g tie rest d) (taken := g :: taken)
      rw [e]
      refine ⟨fun x hx => ?_, j + 1, Nat.succ_le_succ hj, hrest.trans ?_⟩
      · have hne : x ≠ g := fun e => State.pickGrove_not_mem hg (e ▸ hx)
        obtain ⟨hlink, hcredit⟩ := hkeep x (List.mem_cons_of_mem _ hx)
        exact ⟨hlink.trans (State.link_push_other (by omega)), hcredit.trans (mget_mput_other 0 _ _ hne)⟩
      · rw [hq]
        rfl

/-! ### The packet start -/

theorem Thread.setGreg_descs (t : Thread) (r : Nat) (v : Word) : (t.setGreg r v).descs = t.descs := by
  unfold Thread.setGreg
  split <;> rfl

theorem Thread.land_descs (t : Thread) : t.land.descs = t.descs := by
  unfold Thread.land
  split
  · rfl
  · dsimp only
    split <;> exact Thread.setGreg_descs _ _ _

theorem State.event_groves {i ev detail : Nat} {conts : List Word} : (s.event i ev detail conts).groves = s.groves := by
  unfold State.event State.ctrlRec
  split <;> rfl

theorem State.startWord_groves {k : Nat} : (s.startWord d k).1.groves = s.groves := by
  have hc : (s.pktCheck d.cell d.len k).groves = s.groves := by
    unfold State.pktCheck
    split
    · rfl
    · rfl
    · exact State.event_groves
  unfold State.startWord
  dsimp only
  split
  · exact hc
  · exact hc

/-- The loads of a packet start leave the groves, and the descriptors of the thread. -/
theorem State.foldl_startWord (l : List Nat) (r : State × Thread) :
    let u := l.foldl (fun (r : State × Thread) k => ((r.1.startWord d k).1, r.2.setGreg (4 + k) (r.1.startWord d k).2)) r
    u.1.groves = r.1.groves ∧ u.2.descs = r.2.descs := by
  induction l generalizing r with
  | nil => exact ⟨rfl, rfl⟩
  | cons k l ih =>
    obtain ⟨hg, hd⟩ := ih ((r.1.startWord d k).1, r.2.setGreg (4 + k) (r.1.startWord d k).2)
    exact ⟨hg.trans State.startWord_groves, hd.trans (Thread.setGreg_descs _ _ _)⟩

/-- A packet start leaves the groves, and the descriptors of its thread. -/
theorem State.packetStart_keeps {th : Nat} : (s.packetStart th).groves = s.groves ∧
    ((s.packetStart th).thread th).descs = (s.thread th).descs := by
  unfold State.packetStart
  split
  · exact ⟨rfl, rfl⟩
  · next d ds hd =>
    have hloads := State.foldl_startWord (d := d) (upto 12)
      (s, (((s.thread th).land.setGreg 1 d.g1).setGreg 2 d.its).setGreg 3 d.g3)
    dsimp only at hloads ⊢
    rw [State.thread_setThread, if_pos rfl, State.setThread_groves]
    generalize List.foldl _ _ (upto 12) = r at hloads ⊢
    obtain ⟨hgroves, hdescs⟩ := hloads
    rw [Thread.setGreg_descs, Thread.setGreg_descs, Thread.setGreg_descs, Thread.land_descs] at hdescs
    exact ⟨hgroves, hdescs⟩

/-- The thread holds the descriptor it is given, behind those it held. -/
theorem State.giveDesc_keeps {th : Nat} : (s.giveDesc th d).groves = s.groves ∧
    ((s.giveDesc th d).thread th).descs = (s.thread th).descs ++ [d] := by
  have hm : ((s.modThread th fun t => { t with descs := t.descs ++ [d] }).thread th).descs = (s.thread th).descs ++ [d] := by
    rw [State.thread_modThread, if_pos rfl]
  unfold State.giveDesc
  dsimp only
  split
  · exact ⟨State.packetStart_keeps.1, State.packetStart_keeps.2.trans hm⟩
  · exact ⟨rfl, hm⟩

/-! ### Arrival -/

/-- Two states give a descriptor to the same threads: their registers, threads, cores, rotations and given-up descriptors agree. -/
structure State.SameShares (s u : State) (g : Nat) : Prop where
  regs : u.regs = s.regs
  threads : u.threads = s.threads
  cores : u.cores = s.cores
  rotS : (u.grove g).rotS = (s.grove g).rotS
  rotD : (u.grove g).rotD = (s.grove g).rotD
  abandQ : ∀ h, (u.grove h).abandQ = (s.grove h).abandQ

theorem State.SameShares.modGrove {u : State} {f : Grove → Grove} (h : s.SameShares u g)
    (hs : ∀ v, (f v).rotS = v.rotS := by intro; rfl) (hd : ∀ v, (f v).rotD = v.rotD := by intro; rfl)
    (ha : ∀ v, (f v).abandQ = v.abandQ := by intro; rfl) : s.SameShares (u.modGrove g f) g := by
  refine ⟨h.regs, h.threads, h.cores, ?_, ?_, fun x => ?_⟩
  · rw [State.grove_modGrove, if_pos rfl, hs, h.rotS]
  · rw [State.grove_modGrove, if_pos rfl, hd, h.rotD]
  · rw [State.grove_modGrove]
    split
    · next hx => rw [ha, ← hx, h.abandQ]
    · exact h.abandQ x

theorem State.SameShares.thread {u : State} (h : s.SameShares u g) : u.thread = s.thread :=
  funext fun th => congrArg (mget ({} : Thread) · th) h.threads

theorem State.SameShares.shareMode {u : State} (h : s.SameShares u g) : u.shareMode = s.shareMode :=
  funext fun th => congrArg (fun m => fld (mget 0 m (aDisp (thG th) + 4 * (th % 512))) 2 2) h.regs

theorem State.SameShares.thService {u : State} (h : s.SameShares u g) : u.thService = s.thService :=
  funext fun th => congrArg (fun m => (mget ({} : Core) m (thCore th)).service) h.cores

theorem State.SameShares.staticFor {u : State} (h : s.SameShares u g) : u.staticFor g = s.staticFor g := by
  have hsize : u.shareSize = s.shareSize := by
    unfold State.shareSize State.reg
    simp only [h.shareMode, h.regs]
  have hent : u.entriesOf = s.entriesOf := by
    unfold State.entriesOf
    simp only [h.thread, h.abandQ]
  unfold State.staticFor
  simp only [h.thread, h.shareMode, h.thService, hsize, hent, h.rotS]

theorem State.SameShares.dynamicFor {u : State} (h : s.SameShares u g) : u.dynamicFor g = s.dynamicFor g := by
  unfold State.dynamicFor
  simp only [h.thread, h.shareMode, h.thService, h.rotD]

/-- The entry that an arriving descriptor takes is no longer free (R51). -/
def State.entryTaken (s : State) (g : Nat) : State := s.modGrove g (fun v => { v with free := v.free - 1 })

theorem State.sameShares_entryTaken : s.SameShares (s.entryTaken g) g :=
  State.SameShares.modGrove ⟨rfl, rfl, rfl, rfl, rfl, fun _ => rfl⟩

theorem State.grove_entryTaken : (s.entryTaken g).grove g = { s.grove g with free := (s.grove g).free - 1 } :=
  (State.grove_modGrove s g g _).trans (if_pos rfl)

theorem State.poolQ_entryTaken (hp : (s.grove g).poolQ = []) : ((s.entryTaken g).grove g).poolQ = [] := by
  rw [State.grove_entryTaken, ← hp]

/-- With the pool queue empty, an arriving descriptor goes to the static thread chosen (R52). -/
theorem State.placeDesc_static {i : Nat} (hp : (s.grove g).poolQ = []) (hi : s.staticFor g = some i) :
    ((s.placeDesc g d).thread (g * 512 + i)).descs = (s.thread (g * 512 + i)).descs ++ [d] ∧
      ((s.placeDesc g d).grove g).free = (s.grove g).free - 1 := by
  have e : s.placeDesc g d = ((s.entryTaken g).modGrove g (fun v => { v with rotS := i })).giveDesc (g * 512 + i) d := by
    rw [State.placeDesc, ← State.entryTaken, if_pos (State.poolQ_entryTaken hp), State.sameShares_entryTaken.staticFor, hi]
  obtain ⟨hgroves, hdescs⟩ := State.giveDesc_keeps (d := d) (th := g * 512 + i)
    (s := (s.entryTaken g).modGrove g (fun v => { v with rotS := i }))
  rw [e]
  refine ⟨hdescs, ?_⟩
  unfold State.grove
  rw [hgroves]
  show (((s.entryTaken g).modGrove g _).grove g).free = _
  rw [State.grove_modGrove, if_pos rfl, State.grove_entryTaken]
  rfl

/-- With no thread for a descriptor the pool queue stays. -/
theorem State.servePool_stuck (n : Nat) (hs : s.staticFor g = none) (hd : s.dynamicFor g = none) : s.servePool g n = s := by
  cases n with
  | zero => rfl
  | succ n =>
    show (match (s.grove g).poolQ with | [] => _ | _ :: _ => _) = s
    split
    · rfl
    · rw [hd, hs]

/-- An arriving descriptor stands at the end of the pool queue. -/
def State.pooled (s : State) (g : Nat) (d : Desc) : State :=
  (s.entryTaken g).modGrove g (fun v => { v with poolQ := v.poolQ ++ [d] })

/-- With no thread for it, an arriving descriptor waits in the pool queue (R52). -/
theorem State.placeDesc_waits (hp : (s.grove g).poolQ = []) (hs : s.staticFor g = none) (hd : s.dynamicFor g = none) :
    ((s.placeDesc g d).grove g).poolQ = [d] ∧ ((s.placeDesc g d).grove g).free = (s.grove g).free - 1 := by
  have hshares : s.SameShares (s.pooled g d) g := State.sameShares_entryTaken.modGrove
  have e : s.placeDesc g d = s.pooled g d := by
    rw [State.placeDesc, ← State.entryTaken, if_pos (State.poolQ_entryTaken hp), State.sameShares_entryTaken.staticFor, hs]
    exact State.servePool_stuck _ (hshares.staticFor.trans hs) (hshares.dynamicFor.trans hd)
  rw [e, State.pooled, State.grove_modGrove, if_pos rfl, State.grove_entryTaken, hp]
  exact ⟨rfl, rfl⟩

/-! ### The rows -/

theorem State.grove_popLink {k : Nat} : (s.popLink k).grove g = s.grove g :=
  congrArg (mget ({} : Grove) · g) (State.popLink_groves s k)

theorem State.thread_popLink {k th : Nat} : (s.popLink k).thread th = s.thread th :=
  congrArg (mget ({} : Thread) · th) (State.popLink_threads s k)

theorem State.sameShares_popLink {k : Nat} : s.SameShares (s.popLink k) g :=
  ⟨State.popLink_regs s k, State.popLink_threads s k, State.popLink_cores s k, congrArg Grove.rotS State.grove_popLink,
    congrArg Grove.rotD State.grove_popLink, fun _ => congrArg Grove.abandQ State.grove_popLink⟩

theorem exec_groveCreditReturn {g : Fin 8} {l : List Message} (h : (s.link (136 + g.val)).buf = .credit :: l) :
    exec (.groveCreditReturn g) s = .next ((s.popLink (136 + g.val)).modTrunk fun t =>
      { t with credits := mput 0 t.credits g.val (mget 0 t.credits g.val + 1) }) := by
  show execGroveCreditReturn g s = _
  unfold execGroveCreditReturn
  rw [State.peekLink_eq h]

theorem exec_descriptorArrival {g : Fin 8} {l : List Message} (h : (s.link (128 + g.val)).buf = .desc d :: l)
    (hon : s.groveOn g.val = true) :
    exec (.descriptorArrival g) s = .next ((s.popLink (128 + g.val)).placeDesc g.val d) := by
  show execDescriptorArrival g s = _
  unfold execDescriptorArrival
  rw [State.peekLink_eq h]
  exact congrArg Host.Outcome.next (if_pos hon)

/-- The oldest numbered packet's descriptor goes to the grove chosen; at most three more go to others in the same cycle (R46, R51). -/
theorem State.issueDescs_first {tag : Nat} {rest : List Nat} {tie : Bool} (hq : s.trunk.issueQ = tag :: rest)
    (hg : s.pickGrove [] = some (g, tie)) (hd : s.descOf tag = some d) : let u := s.issueDescs 4 []
    u.link (128 + g) = (s.push (128 + g) (.desc d)).link (128 + g) ∧
      mget 0 u.trunk.credits g = mget 0 s.trunk.credits g - 1 ∧ ∃ j, j ≤ 3 ∧ u.trunk.issueQ = rest.drop j := by
  intro u
  dsimp only [u]
  rw [State.issueDescs_issues hq hg hd]
  obtain ⟨hkeep, hrest⟩ := State.issueDescs_taken 3 (taken := [g]) (s := s.issuedTo g tie rest d)
  obtain ⟨hlink, hcredit⟩ := hkeep g (List.mem_singleton_self g)
  exact ⟨hlink, hcredit.trans (mget_mput_same 0 _ _ _), hrest⟩

/-- Packets that timed out before their issue leave the buffer in the dispatcher's next cycle (log entry 79). -/
theorem State.issueDescs_releases (n : Nat) : let u := s.releaseLost.issueDescs n []
    u.trunk.lost = [] ∧ (∀ x ∈ s.trunk.lost, mfind u.trunk.pkts x = none) ∧
      (∀ c, c ∈ u.trunk.alloc ↔ c ∈ s.trunk.alloc ∧ ∀ x ∈ s.trunk.lost, ∀ k, mfind s.trunk.pkts x = some k → c ∉ k.cells) ∧
      ∀ x k, s.trunk.lost = [x] → mfind s.trunk.pkts x = some k → Released s u k x := by
  intro u
  obtain ⟨l, q, c, t, e⟩ := State.issueDescs_eq (s := s.releaseLost) n []
  obtain ⟨hpkts, halloc⟩ := State.foldl_releasePkt (s := s) s.trunk.lost
  dsimp only [u]
  rw [e]
  refine ⟨rfl, fun x hx => (hpkts x).trans (if_pos hx), halloc, fun x k hl hk => ?_⟩
  have hr : s.releaseLost = (s.releasePkt x).modTrunk (fun t => { t with lost := [] }) := by
    unfold State.releaseLost
    rw [hl]
    rfl
  rw [hr]
  exact State.releasePkt_released hk

/-- Settles O31, from what one cycle of the dispatcher and one arrival at a grove leave. -/
theorem descriptorFlow : Obligations.DescriptorFlow := by
  intro g s d v l
  refine ⟨fun tag rest tie hon hlost hq hg hd => ⟨_, congrArg Host.Outcome.next (if_pos hon), ?_⟩,
    fun hon => ⟨_, congrArg Host.Outcome.next (if_pos hon), State.issueDescs_releases 4⟩,
    fun rest hb => ⟨_, exec_groveCreditReturn hb, ?_⟩,
    fun rest hon hb hp => ⟨fun i hi => ⟨_, exec_descriptorArrival hb hon, ?_⟩,
      fun hs hd => ⟨_, exec_descriptorArrival hb hon, ?_⟩⟩⟩
  · rw [State.releaseLost_of_nil hlost]
    obtain ⟨hlink, hcredit, hrest⟩ := State.issueDescs_first hq hg hd
    rw [hlink]
    refine ⟨State.inFlight_push, fun hw hc => ?_, fun hw hc => ?_, hcredit, hrest⟩
    · rw [State.link_push_leaves hw hc]
      exact ⟨hw, rfl⟩
    · rw [State.link_push_waits hw hc]
      exact ⟨rfl, rfl⟩
  · refine ⟨?_, State.buf_popLink hb⟩
    dsimp only [State.modTrunk]
    rw [mget_mput_same, State.popLink_trunk]
  · obtain ⟨hdescs, hfree⟩ := State.placeDesc_static (d := d) ((congrArg Grove.poolQ State.grove_popLink).trans hp)
      (State.sameShares_popLink.staticFor.trans hi)
    rw [State.thread_popLink] at hdescs
    rw [State.grove_popLink] at hfree
    exact ⟨hdescs, hfree⟩
  · obtain ⟨hpool, hfree⟩ := State.placeDesc_waits (d := d) ((congrArg Grove.poolQ State.grove_popLink).trans hp)
      (State.sameShares_popLink.staticFor.trans hs) (State.sameShares_popLink.dynamicFor.trans hd)
    rw [State.grove_popLink] at hfree
    exact ⟨hpool, hfree⟩

end Sys2Proof.Machine
end

section
/-!
PROOFS. Block Time over an idle step (O47). The statement bounds what a grove's copy gains from the last cycle of one heartwood cycle to the
first of the next by 1 ns of BTNS, in every state with an empty queue. But an idle step also serves the accesses that wait (R479), and one
of them may be a write of TADJ1 that steps Block Time (R361).
-/
namespace Sys2Proof.Machine

variable {s : State} {i t : Nat}

theorem nsOf_mono {a b : Nat} (h : a ≤ b) : nsOf a ≤ nsOf b := Nat.div_le_div_right (Nat.mul_le_mul_right _ h)

/-- No copy stands more than 2 units ahead of the master (R357). -/
theorem State.copyWhen_le : s.copyWhen i t ≤ t + 2 := by
  unfold State.copyWhen
  split <;> omega

/-- No copy stands more than 2 units behind the master (R357). -/
theorem State.le_copyOf : s.now - 2 ≤ s.copyOf i := by
  obtain ⟨d, -, e⟩ := s.copyOf_near i
  omega

/-- A step on an empty queue idles. -/
theorem step_of_pending_nil (h : s.pending = []) : step s = .next s.idle := by
  unfold step
  rw [h]

/-- The block in service, with STEP of TIMECTL 1 and half a second staged in TADJ0. The clock of PCLK0 has come back: a read of a register
of port 0 by the management port still waits for it, and behind that read the TAP's write of TADJ1. -/
def waitingStep : State :=
  { State.reset with
    start := { phase := .service, step := 12, completed := true }
    time := { bt := 2 ^ 20, acq := true }
    stag := [(0x10020, 0x80000000)]
    regs := [(0x10028, 0x80000000)]
    mgmt := { waiting := [{ src := .mgmt, addr := 0x40100, wr := none }, { src := .tap, addr := 0x10024, wr := some 0, dr := true }] } }

/-- The idle step serves both accesses: Block Time steps by half a second, and the heartwood cycle adds its 5 ns. -/
theorem waitingStep_idle_now : waitingStep.idle.now = 2 ^ 31 + 2 ^ 20 + 21 := by decide +kernel

/-- Refutes O47: in its clause on BTNS of a grove's copy, a write of TADJ1 that waits is served in the idle step, and BTNS gains half a
second where the statement allows 1 ns. -/
theorem not_timeResults : ¬ Obligations.TimeResults := by
  intro h
  obtain ⟨-, -, -, -, hcycle, -⟩ := h .mgmt 0 0 .tmrate true waitingStep
  obtain ⟨u, hu, -, hns⟩ := hcycle 0 (by decide) (by decide) (by decide) (by decide) (by decide) (by decide) (by decide) (by decide) rfl
  rw [step_of_pending_nil rfl] at hu
  injection hu with hu
  subst hu
  have place : waitingStep.time.bt + unitsUp (waitingStep.groveRate 0 - 1) (waitingStep.groveRate 0) + 2 = 2 ^ 20 + 20 := by decide
  have before : waitingStep.copyWhen (10 + 0)
      (waitingStep.time.bt + unitsUp (waitingStep.groveRate 0 - 1) (waitingStep.groveRate 0)) ≤ 2 ^ 20 + 20 :=
    place ▸ State.copyWhen_le
  have after : 2 ^ 31 + 2 ^ 20 + 19 ≤ waitingStep.idle.copyOf (10 + 0) := by
    have := State.le_copyOf (s := waitingStep.idle) (i := 10 + 0)
    rwa [waitingStep_idle_now] at this
  have gain : nsOf (2 ^ 31 + 2 ^ 20 + 19) ≤ nsOf (2 ^ 20 + 20) + 1 :=
    calc nsOf (2 ^ 31 + 2 ^ 20 + 19) ≤ _ := nsOf_mono after
      _ ≤ _ := hns
      _ ≤ nsOf (2 ^ 20 + 20) + 1 := Nat.add_le_add_right (nsOf_mono before) 1
  exact absurd gain (by decide)

end Sys2Proof.Machine
end

section
/-!
PROOFS. The recorder and the links that lead to it (O48): what a record that is staged, written or lost, a marker, a commit and a write of
the region's registers leave of the recorder.
-/
namespace Sys2Proof.Machine

variable {s : State} {k n : Nat} {src : Src} {d : BitVec 32} {x : Rec} {rest : List Rec}

/-! ### Requests to memory -/

theorem State.recd_memArrive {p : Nat} {r : MReq} : (s.memArrive p r).recd = s.recd := by
  unfold State.memArrive
  dsimp only
  split <;> rfl

theorem State.recd_memFill {p : Nat} : (s.memFill p).recd = s.recd := by
  unfold State.memFill
  refine List.foldlRecOn _ _ (motive := fun u : State => u.recd = s.recd) rfl fun u hu r _ => ?_
  dsimp only
  split
  · exact State.recd_memArrive.trans hu
  · exact hu

theorem State.recd_memShow {p : Nat} {w : Bool} : (s.memShow p w).recd = s.recd := by
  unfold State.memShow
  dsimp only
  repeat' split
  all_goals rfl

/-- A request to memory leaves the recorder as it is. -/
theorem State.recd_memSend {r : MReq} : (s.memSend r).recd = s.recd := by
  unfold State.memSend State.memPresent
  rw [State.recd_memShow, State.recd_memShow, State.recd_memFill]
  rfl

/-! ### Records that are written or lost -/

/-- Records that are written move RECPTR past them, and their words are outstanding (R371, R372). -/
theorem State.recd_recPut {c : Bool} {pairs : List (Word × Word)} : (s.recPut n c pairs).recd =
    { s.recd with
      ptr := s.recd.ptr + pairs.length
      outst := mput 0 s.recd.outst n (mget 0 s.recd.outst n + (s.recWords s.recd.ptr pairs).length) } := by
  unfold State.recPut State.modRec
  dsimp only
  have keep : ∀ (f : Nat × Word → MReq) (l : List (Nat × Word)), (l.foldl (fun (u : State) w => u.memSend (f w)) s).recd = s.recd :=
    fun f l => List.foldlRecOn l _ (motive := fun u : State => u.recd = s.recd) rfl fun u hu w _ => State.recd_memSend.trans hu
  rw [keep]

/-- The counter of lost records of a class (R373). -/
def lostCtr (ctrl : Bool) : Nat := if ctrl then 0xE0068 else 0xE0060

/-- A lost record counts; the stage and RECPTR stay. -/
theorem State.recLost_result {c : Bool} : (s.recLost c).ctr (lostCtr c) = s.ctr (lostCtr c) + 1 ∧
    (s.recLost c).recd.staged = s.recd.staged ∧ (s.recLost c).recd.ptr = s.recd.ptr := by
  cases c
  · exact ⟨(State.ctr_count s _ _ 1).trans (if_pos rfl), rfl, rfl⟩
  · exact ⟨(State.ctr_count s _ _ 1).trans (if_pos rfl), rfl, rfl⟩

/-- The region has a place for n records at RECPTR (R372). -/
theorem State.recFits_iff : s.recFits n = true ↔
    s.nrec ≠ 0 ∧ (bit (s.reg 0xE0000) 29 = true ∨ s.recd.ptr + n ≤ s.recd.rd + s.nrec) := by
  simp [State.recFits]

/-- A head record that finds no place in the region, or none behind a RECLOSS event, is lost (R372, R373). -/
theorem State.recHead_lost {lose : Bool} (h : s.recd.staged = x :: rest) (hl : lose = true ∨ ¬ s.recFits x.words.length = true) :
    (s.recHead lose).recd.staged = rest ∧ (s.recHead lose).recd.ptr = s.recd.ptr ∧
      (s.recHead lose).ctr (lostCtr x.ctrl) = s.ctr (lostCtr x.ctrl) + 1 := by
  have hc : (lose || !s.recFits x.words.length) = true := by simpa using hl
  unfold State.recHead
  simp only [h, hc, if_true]
  exact ⟨rfl, State.recLost_result.2.2, State.recLost_result.1⟩

/-- A head record that finds its place is written at RECPTR (R371, R372). -/
theorem State.recHead_written (h : s.recd.staged = x :: rest) (hf : s.recFits x.words.length = true)
    (hr : s.recRoom x.words = true) :
    (s.recHead false).recd.staged = rest ∧ (s.recHead false).recd.ptr = s.recd.ptr + x.words.length := by
  unfold State.recHead
  simp only [h, hf, hr, Bool.not_true, Bool.or_self, Bool.false_eq_true, if_false]
  refine ⟨rfl, ?_⟩
  show (s.recPut _ _ _).recd.ptr = _
  rw [State.recd_recPut]

/-! ### The RECLOSS event -/

theorem Recorder.lossOpen_iff {v : Recorder} : v.lossOpen = true ↔ v.lossDue = true ∨ v.lostP ≠ 0 ∨ v.lostC ≠ 0 := by
  simp [Recorder.lossOpen, or_assoc]

theorem State.recWrite_of_no_loss (h : ¬ s.recd.lossOpen = true) : s.recWrite = s.recHead false := by
  unfold State.recWrite
  simp [h]

theorem State.recWrite_of_loss (h : s.recd.lossOpen = true) (hm : s.recd.modeA ≠ 0) : s.recWrite =
    if (!s.recFits 2) = true then s.recHead true
    else if (decide (s.recd.occ + 4 > 65536) && decide (s.recd.outst ≠ []) || !s.recRoom s.lossPairs) = true then s else s.recLoss := by
  have hc : (s.recd.lossOpen && (decide (s.recd.modeA ≠ 0) || decide (s.recd.staged ≠ []))) = true := by
    rw [h, decide_eq_true hm]
    rfl
  exact if_pos hc

/-- With a loss open and no place for RECLOSS, the head record is lost too. -/
theorem State.recWrite_of_no_place (h : s.recd.lossOpen = true) (hm : s.recd.modeA ≠ 0) (hf : ¬ s.recFits 2 = true) :
    s.recWrite = s.recHead true :=
  (State.recWrite_of_loss h hm).trans (if_pos (by simpa using hf))

theorem State.recWrite_recLoss (h : s.recd.lossOpen = true) (hm : s.recd.modeA ≠ 0) (hf : s.recFits 2 = true)
    (ho : s.recd.occ + 4 ≤ 65536) (hr : s.recRoom s.lossPairs = true) : s.recWrite = s.recLoss := by
  rw [State.recWrite_of_loss h hm]
  simp [hf, hr, Nat.not_lt.2 ho]

/-- The RECLOSS event takes two places; the losses begin anew, and IRQEV.RLOSS is set (R373, R490). -/
theorem State.recLoss_result : s.recLoss.recd.staged = s.recd.staged ∧ s.recLoss.recd.ptr = s.recd.ptr + 2 ∧
    s.recLoss.recd.lostP = 0 ∧ s.recLoss.recd.lostC = 0 ∧ s.recLoss.recd.lossDue = false ∧
    bit (s.recLoss.reg 0x2000C) 2 = true := by
  unfold State.recLoss
  rw [State.orReg_recd, State.reg_orReg, if_pos rfl]
  dsimp only [State.modRec]
  rw [State.recd_recPut]
  refine ⟨rfl, rfl, rfl, rfl, rfl, ?_⟩
  unfold bit
  simp

/-! ### Staging, markers and commits -/

/-- A record is staged while its part of the buffer has room for it, and lost otherwise (R373). -/
theorem State.recStage_result : let room := if x.ctrl then 65536 else 61440
    (s.recStage x).links = s.links ∧
    (s.recd.occ + x.size ≤ room → (s.recStage x).recd.staged = s.recd.staged ++ [x]) ∧
    (room < s.recd.occ + x.size → (s.recStage x).recd.staged = s.recd.staged ∧
      (s.recStage x).ctr (lostCtr x.ctrl) = s.ctr (lostCtr x.ctrl) + 1) := by
  intro room
  have hlost : room < s.recd.occ + x.size → s.recStage x = s.recLost x.ctrl := fun h => if_pos h
  have hstage : ¬ room < s.recd.occ + x.size →
      s.recStage x = s.modRec (fun v => { v with staged := v.staged ++ [x], inSeq := v.inSeq + 1 }) := fun h => if_neg h
  refine ⟨?_, fun h => by rw [hstage (Nat.not_lt.2 h)]; rfl, fun h => ?_⟩
  · by_cases h : room < s.recd.occ + x.size
    · rw [hlost h]
      unfold State.recLost
      split <;> rfl
    · rw [hstage h]
      rfl
  · rw [hlost h]
    exact ⟨State.recLost_result.2.1, State.recLost_result.1⟩

/-- The boundary's tick, and the islands whose markers it awaits. -/
def Bound.waits (b : Bound) : Nat × List Nat := (b.tick, b.awaited)

theorem Recorder.waits_place {v : Recorder} : v.place.bounds.map Bound.waits = v.bounds.map Bound.waits := by
  unfold Recorder.place
  rw [List.map_map]
  refine List.map_congr_left fun b _ => ?_
  simp only [Function.comp]
  split <;> rfl

/-- An island whose marker has arrived is not awaited any more (R374). -/
theorem Bound.waits_arrive {b : Bound} {i q : Nat} : (b.arrive i q).waits = (b.tick, b.awaited.filter (fun j => j ≠ i)) := by
  unfold Bound.arrive
  split
  · rfl
  · next h =>
    have : b.awaited.filter (fun j => j ≠ i) = b.awaited := by
      refine List.filter_eq_self.2 fun j hj => ?_
      simp only [List.contains_eq_mem, decide_eq_true_eq] at h
      exact decide_eq_true fun e => h (e ▸ hj)
    rw [this]
    rfl

/-- The marker that starts a tick leaves the link, and its boundary does not await the island any more (R374). -/
theorem State.recMarker_marker {i : Nat} {l : List Message} (h : (s.link (176 + i)).buf = .marker n :: l) :
    ((s.recMarker i).link (176 + i)).buf = l ∧ (s.recMarker i).recd.bounds.map Bound.waits = s.recd.bounds.map (fun b =>
      (b.tick, if b.tick = n then b.awaited.filter (fun j => j ≠ i) else b.awaited)) := by
  unfold State.recMarker
  rw [State.peekLink_eq h]
  refine ⟨State.buf_popLink h, ?_⟩
  dsimp only [State.modRec]
  rw [Recorder.waits_place, State.popLink_recd, List.map_map]
  refine List.map_congr_left fun b _ => ?_
  simp only [Function.comp]
  split
  · exact Bound.waits_arrive
  · rfl

/-- The oldest boundary commits once all its records are written and accepted (R374). -/
theorem State.recCommit_commits {b : Bound} {bs : List Bound} {p : Nat} (hb : s.recd.bounds = b :: bs) (hp : b.pos = some p)
    (ho : ∀ x ∈ s.recd.outst, 3 * b.cover ≤ x.1) :
    s.recCommit = s.modRec (fun v => { v with bounds := bs, commit := p, ctick := BitVec.ofNat 32 (b.tick - 1) }) := by
  have hn : s.recd.outst.any (fun e => decide (e.1 < 3 * b.cover)) = false := by
    simpa using ho
  unfold State.recCommit
  simp [hb, hp, hn]

/-! ### The registers of the region -/

theorem State.ctrlRec_recd {i kind sum : Nat} {conts : List Word} :
    ∃ q, (s.ctrlRec i kind sum conts).recd = { s.recd with seqs := q } := by
  unfold State.ctrlRec
  split
  · exact ⟨_, rfl⟩
  · exact ⟨_, rfl⟩

/-- The HOSTW record of a write takes a number, and leaves the rest of the recorder. -/
theorem State.wrote_recd {a : BitVec 24} (h : src = .mgmt ∨ src = .tap) :
    ∃ q, (s.wrote src a d).recd = { s.recd with seqs := q } := by
  unfold State.wrote State.logWrite
  rw [State.seen_eq h]
  exact State.ctrlRec_recd

/-- The bits that a region register holds (R388). -/
def regionMask : RegionReg → BitVec 32
  | .recbase0 => 0xFFFFFFFF
  | .recbase1 => 0x7F
  | .recsize => 0xFFFFF
  | .recid => 0x7FF

theorem State.writeReg_region {r : RegionReg} (h : src = .mgmt ∨ src = .tap) :
    s.writeReg src (regionReg r) d = s.writeRegion (regionReg r - 0xE0000) d false := by
  rcases h with rfl | rfl <;> cases r <;> rfl

/-- With the recorder OFF and idle a region register takes what is written. -/
theorem State.writeRegion_idle {r : RegionReg} (hm : s.recd.modeA = 0) (hi : s.recd.idle = true) :
    (s.writeRegion (regionReg r - 0xE0000) d false).reg (regionReg r) = d &&& regionMask r := by
  have hw : ¬ (decide (s.recd.modeA ≠ 0) || !s.recd.idle) = true := by
    rw [hi, decide_eq_false (not_not_intro hm)]
    decide
  have hreg : ∀ a v, (s.setReg a v).reg a = v := fun a v => State.reg_setReg_same s a v
  unfold State.writeRegion
  rw [if_neg Bool.false_ne_true, if_neg hw]
  cases r
  · exact (hreg _ _).trans (BitVec.and_allOnes (x := d)).symm
  · exact hreg _ _
  · exact hreg _ _
  · exact hreg _ _

/-- Otherwise the write is refused with RECERR (R375). -/
theorem State.writeRegion_refused {off : Nat} (h : s.recd.modeA ≠ 0 ∨ s.recd.idle = false) :
    s.writeRegion off d false = s.recErr := by
  have hw : (decide (s.recd.modeA ≠ 0) || !s.recd.idle) = true := by simpa using h
  unfold State.writeRegion
  rw [if_neg Bool.false_ne_true, if_pos hw]

/-! ### What crosses a link -/

theorem State.linkDeliver_eq {m : Message} {l : List Message} (h : (s.link k).out = m :: l) :
    s.linkDeliver k = s.setLink k { s.link k with out := l, buf := (s.link k).buf ++ [m] } := by
  unfold State.linkDeliver
  simp [h]

/-- A link's message crosses; completions and copies have deliveries of their own (R21, R410). -/
theorem exec_llynonWordDelivery {path : LinkPath} (hg : ∀ g, path ≠ .completion g) (hp : ∀ p, path ≠ .copy p) :
    exec (.llynonWordDelivery path) s = .next (s.linkDeliver (pathKey path)) := by
  cases path with
  | completion g => exact absurd rfl (hg g)
  | copy p => exact absurd rfl (hp p)
  | _ => rfl

theorem State.laneDeliver_grove {g : Nat} (hon : s.groveOn g = true) (hl : (s.grove g).lane < min 8 (s.grove g).cqOcc) :
    (s.laneDeliver g).grove g = { s.grove g with lane := (s.grove g).lane + 1 } := by
  have hc : (decide ((s.grove g).lane < min 8 (s.grove g).cqOcc) && s.groveOn g) = true := by
    rw [hon, decide_eq_true hl]
    rfl
  unfold State.laneDeliver
  dsimp only
  rw [if_pos hc, State.grove_modGrove, if_pos rfl]

theorem State.copyDeliver_offer {p : Nat} {o : Offer} (ho : (s.port p).offer = some o) (hcut : o.cut = false)
    (hw : o.there < s.copyWords p o.copy) (hpos : o.there < o.pos + 8) (h3 : s.islandUp 3 = true) (hon : s.portOn p = true) :
    ((s.copyDeliver p).port p).offer = some { o with there := o.there + 1 } := by
  unfold State.copyDeliver
  simp only [ho, hcut, hw, hpos, h3, hon, Bool.not_false, decide_true, Bool.and_self, if_true]
  rw [State.port_modPort, if_pos rfl]

/-! ### The rows -/

/-- A record leaves for memory only with island 5 up and step 8 passed (R450). -/
theorem exec_recordWrite (h5 : s.islandUp 5 = true) (hs : 9 ≤ s.start.step) : exec .recordWrite s = .next s.recWrite := by
  have hc : (s.islandUp 5 && decide (s.start.step ≥ 9)) = true := by
    rw [h5, decide_eq_true hs]
    rfl
  exact congrArg Host.Outcome.next (if_pos hc)

theorem exec_recordStage {i : Fin 18} {l : List Message} (hb : (s.link (176 + i.val)).buf = .record x :: l)
    (h5 : s.islandUp 5 = true) : exec (.recordStage i) s = .next ((s.popLink (176 + i.val)).recStage x) := by
  show execRecordStage i s = _
  unfold execRecordStage
  rw [State.peekLink_eq hb]
  exact congrArg Host.Outcome.next (if_pos h5)

/-- A write of a region register takes effect with the recorder OFF and idle, and is refused otherwise (R375). -/
theorem State.HostReaches.region {r : RegionReg} (h : s.HostReaches src (regionReg r)) :
    let u := s.viaWrite src (regionReg r) d
    (s.recd.modeA = 0 → s.recd.idle = true → u.reg (regionReg r) = d &&& regionMask r) ∧
      ((s.recd.modeA ≠ 0 ∨ s.recd.idle = false) → u.reg (regionReg r) = s.reg (regionReg r) ∧ bit (u.reg 0xE0014) 28 = true) := by
  intro u
  have hal : regionReg r % 4 = 0 := by cases r <;> rfl
  have hst : regionReg r ≠ 0x20 := by cases r <;> decide
  have herr : regionReg r ≠ 0xE0014 := by cases r <;> decide
  have hu : u = (s.writeRegion (regionReg r - 0xE0000) d false).wrote src (BitVec.ofNat 24 (regionReg r)) d := by
    dsimp only [u]
    rw [h.viaWrite hal, State.writeReg_region h.1]
  rw [hu]
  refine ⟨fun hm hi => ?_, fun hr => ?_⟩
  · rw [State.wrote_reg_other h.1 hst, State.writeRegion_idle hm hi]
  · rw [State.wrote_reg_other h.1 hst, State.wrote_reg_other h.1 (by decide), State.writeRegion_refused hr]
    unfold State.recErr
    rw [State.reg_orReg, if_neg herr, State.reg_orReg, if_pos rfl]
    refine ⟨rfl, ?_⟩
    unfold bit
    simp

/-- The high word of RECRD commits the read position (R372). -/
theorem State.HostReaches.recrd (h : s.HostReaches src 0xE004C) :
    (s.viaWrite src 0xE004C d).recd.rd = (mget 0 s.stag 0xE0048).toNat + d.toNat * 2 ^ 32 := by
  have hw : s.writeReg src 0xE004C d = s.writeRecrd d := by
    rcases h.1 with rfl | rfl <;> rfl
  obtain ⟨q, hq⟩ := State.wrote_recd (s := s.writeRecrd d) (a := BitVec.ofNat 24 0xE004C) (d := d) h.1
  rw [h.viaWrite (by decide), hw, hq]
  rfl

/-- Settles O48, from what each operation of the links and of the recorder leaves. -/
theorem recorderResults : Obligations.RecorderResults := by
  intro src path i r d s v lk li
  refine ⟨fun m rest hg hp ho => ⟨_, exec_llynonWordDelivery hg hp, ?_⟩, fun g hp hon hl => ?_,
    fun p o hp ho hcut hw hpos h3 hpo => ?_,
    fun k m hw => ⟨State.link_push_leaves hw, State.link_push_waits hw⟩, fun k m rest hw hb => State.link_popLink hw hb,
    fun x rest hb h5 => ⟨_, exec_recordStage hb h5, ?_⟩, fun x rest h5 hs hx hd hp hc => ⟨_, exec_recordWrite h5 hs, ?_⟩,
    fun h5 hs hl hm hn => ?_, fun n rest hb => ⟨_, rfl, State.recMarker_marker hb⟩, fun b bs p hb hp ho => ⟨_, rfl, ?_⟩,
    fun h => ⟨_, rfl, h.region⟩, fun h => ⟨_, rfl, h.recrd⟩⟩
  · rw [State.linkDeliver_eq ho]
    exact ⟨(State.link_setLink s _ _ _).trans (if_pos rfl), fun k hk => (State.link_setLink s _ _ _).trans (if_neg hk)⟩
  · subst hp
    exact ⟨_, rfl, State.laneDeliver_grove hon hl⟩
  · subst hp
    exact ⟨_, rfl, State.copyDeliver_offer ho hcut hw hpos h3 hpo⟩
  · obtain ⟨hlink, hfits, hfull⟩ := State.recStage_result (s := s.popLink (176 + i.val)) (x := x)
    rw [State.popLink_recd] at hfits hfull
    refine ⟨?_, hfits, fun hr => ?_⟩
    · unfold State.link
      rw [hlink]
      exact State.buf_popLink hb
    · obtain ⟨hst, hctr⟩ := hfull hr
      exact ⟨hst, hctr.trans (congrArg (mget 0 · _ + 1) (State.popLink_ctrs s _))⟩
  · have hno : ¬ s.recd.lossOpen = true := by
      rw [Recorder.lossOpen_iff]
      simp [v, hd, hp, hc]
    rw [State.recWrite_of_no_loss hno]
    exact ⟨fun hf hr => State.recHead_written hx (State.recFits_iff.2 hf) hr,
      fun hf => State.recHead_lost hx (.inr (mt State.recFits_iff.1 hf))⟩
  · have hopen : s.recd.lossOpen = true := Recorder.lossOpen_iff.2 hl
    refine ⟨fun hf ho hr => ⟨_, exec_recordWrite h5 hs, ?_⟩, fun x rest hw hf hx => ⟨_, exec_recordWrite h5 hs, ?_⟩⟩
    · rw [State.recWrite_recLoss hopen hm (State.recFits_iff.2 ⟨hn, hf⟩) ho hr]
      exact State.recLoss_result
    · have hfull : ¬ s.recFits 2 = true := by
        rw [State.recFits_iff]
        rintro ⟨-, hb | hb⟩
        · rw [hw] at hb
          cases hb
        · exact absurd hb (Nat.not_le.2 hf)
      rw [State.recWrite_of_no_place hopen hm hfull]
      exact State.recHead_lost hx (.inl rfl)
  · rw [State.recCommit_commits hb hp ho]
    exact ⟨rfl, rfl, rfl⟩

end Sys2Proof.Machine
end

section
/-!
PROOFS. Two statements of the trunk that fail. O30 leaves the cells of an open frame free of its words, so it also speaks of a frame whose
next word does not go into its newest cell. O33 has a thread without descriptors after DABANDON; but the entries that it gives up are free
again, and the pool queue may give one of them to the same thread, which R52 does not exclude while it is held.
-/
namespace Sys2Proof.Machine

variable {s : State}

/-- Port 0 has a frame open with eight words and without a cell, cell 0 is taken, port 0 may take one more, and a FIN whose SHR holds one
lane has arrived. -/
def celllessFrame : State :=
  { State.reset with
    regs := [(0x83000, 0x8000), (0x83008, 0x3FFF)]
    links := [(0, { buf := [.ingress (.fin 0x10 1 8)] })]
    trunk := { alloc := [0] }
    ports := [(0, { frame := some { cells := [], nwords := 8, its := 0, last := 0, dead := false } })] }

/-- The ninth word goes where a second cell of the frame would stand, and the frame has no second one. -/
theorem celllessFrame_buf : ∃ u, exec (.frameEnd 0) celllessFrame = .next u ∧ u.trunk.buf = [(0, 1)] :=
  ⟨_, rfl, by decide +kernel⟩

/-- Refutes O30: in its clause on a FIN whose SHR needs a further cell, the word of SHR is not in the cell that was free, which is not
cell 0, when the frame had fewer cells than its words fill. -/
theorem not_ingressAndNumbering : ¬ Obligations.IngressAndNumbering := by
  intro h
  obtain ⟨-, -, -, hfin, -⟩ := h 0 celllessFrame
  obtain ⟨-, -, hpartial⟩ := hfin { cells := [], nwords := 8, its := 0, last := 0, dead := false } 0x10 1 8 [] rfl rfl rfl
  obtain ⟨-, -, -, hplaces⟩ := hpartial (by decide) rfl
  obtain ⟨u, hu, c, hfree, hword, -⟩ := hplaces (by decide) rfl (by decide +kernel) (by decide +kernel)
  obtain ⟨v, hv, hbuf⟩ := celllessFrame_buf
  obtain rfl : v = u := by
    rw [hv] at hu
    injection hu
  have hne : (0 : Nat) ≠ 8 * c := fun e => hfree (by
    obtain rfl : c = 0 := by omega
    decide)
  rw [hbuf] at hword
  simp [mget, mfind, hne] at hword

/-- An access to a register of an island on which nothing waits is ready (R478, R479). -/
theorem State.accReady_of_free {src : Src} {a i : Nat} {wr : Option (BitVec 32)} (hi : islandOf a = some i)
    (hw : s.accWaits i = false) (hr : ∀ b, s.regWaits a b = false) :
    s.accReady { src := src, addr := BitVec.ofNat 24 a, wr := wr } = true := by
  have ha : (BitVec.ofNat 24 a).toNat = a := by
    have := lt_of_islandOf hi
    rw [BitVec.toNat_ofNat]
    omega
  unfold State.accReady
  dsimp only
  rw [ha, hi]
  dsimp only
  rw [hw, hr]
  simp

/-- The descriptor of a packet of one cell, which is also its tag. -/
def oneCellDesc (tag : Nat) : Desc :=
  { tag := tag, dom := 0, seq := tag, cell := tag, len := 64, its := 0, err := false, ring := 0, src := 0, cls := 0, port := 0 }

/-- Grove 0 is in service. Thread 0 has a static share of one entry; it is held, with one descriptor, and a second one waits in the pool
queue. -/
def heldShare : State :=
  { State.reset with
    start := { phase := .service, step := 12, completed := true }
    power := [(10, { st := .on })]
    regs := [(aDisp 0, 4)]
    groves := [(0, { poolQ := [oneCellDesc 1] })]
    cores := [(0, { service := true })]
    threads := [(0, { held := true, descs := [oneCellDesc 0] })] }

theorem heldShare_reaches : heldShare.HostReaches .mgmt (aDisp 0 + 0x1008) :=
  ⟨.inl rfl, by decide +kernel, rfl, fun _ => State.accReady_of_free (i := 10) (by decide) (by decide +kernel) (by decide +kernel),
    rfl, 10, by decide, by decide +kernel⟩

/-- The entry that thread 0 gives up frees, and the pool queue gives it the descriptor that waited (R51, R52, R64). -/
theorem heldShare_dabandon : ∃ u, exec (.dabandon .mgmt 0 0) heldShare = .next u ∧ (u.thread 0).descs = [oneCellDesc 1] :=
  ⟨_, rfl, by decide +kernel⟩

/-- Refutes O33: in its clause on DABANDON, a held static thread gives up its descriptor and gets the one that waited in the pool queue. -/
theorem not_trunkRegisters : ¬ Obligations.TrunkRegisters := by
  intro h
  obtain ⟨hdabandon, -⟩ := h .mgmt 0 heldShare
  obtain ⟨u, hu, hnone, -⟩ := hdabandon 0 heldShare_reaches rfl
  obtain ⟨v, hv, hone⟩ := heldShare_dabandon
  obtain rfl : v = u := by
    rw [hv] at hu
    injection hu
  exact absurd (hone.symm.trans hnone) (by decide)

end Sys2Proof.Machine
end

section
/-!
PROOFS. What reports to the recorder and the pool queue of a grove leave: an operation that counts, records, loads the words of a packet or
gives a descriptor to a thread changes no register and no link but those of the recorder (R21, R52, R369).
-/
namespace Sys2Proof.Machine

variable {s u v : State} {g th : Nat}

theorem State.grove_push {k : Nat} {m : Message} : (s.push k m).grove g = s.grove g := rfl
theorem State.grove_count {a n : Nat} : (s.count a n).grove g = s.grove g := rfl

/-! ### Reports -/

/-- u is s after counts and records: counters, the recorder's numbers, its links and the free values that were drawn. -/
structure State.Reports (s u : State) : Prop where
  rest : u = { s with ctrs := u.ctrs, recd := u.recd, links := u.links, freeCtr := u.freeCtr }
  link : ∀ k, k < 176 → u.link k = s.link k

theorem State.Reports.refl (s : State) : s.Reports s := ⟨rfl, fun _ _ => rfl⟩

theorem State.Reports.trans (a : s.Reports u) (b : u.Reports v) : s.Reports v :=
  ⟨by rw [b.rest, a.rest], fun k h => (b.link k h).trans (a.link k h)⟩

theorem State.reports_event {i ev detail : Nat} {conts : List Word} : s.Reports (s.event i ev detail conts) := by
  unfold State.event State.ctrlRec
  split
  · exact .refl s
  · exact ⟨rfl, fun _ h => State.link_push_other (by omega)⟩

theorem State.event_ctrs {i ev detail : Nat} {conts : List Word} : (s.event i ev detail conts).ctrs = s.ctrs := by
  unfold State.event State.ctrlRec
  split <;> rfl

theorem State.reports_eccEvent {i area x addr : Nat} : s.Reports (s.eccEvent i area x addr) :=
  State.Reports.trans (u := s.count 0x58) ⟨rfl, fun _ _ => rfl⟩ State.reports_event

theorem State.reports_pktCheck {cell len k : Nat} : s.Reports (s.pktCheck cell len k) := by
  unfold State.pktCheck
  split
  · exact .refl s
  · exact ⟨rfl, fun _ _ => rfl⟩
  · exact State.reports_eccEvent

theorem State.reports_startWord {d : Desc} {k : Nat} : s.Reports (s.startWord d k).1 := by
  unfold State.startWord
  dsimp only
  split
  · exact State.reports_pktCheck.trans ⟨rfl, fun _ _ => rfl⟩
  · exact State.reports_pktCheck

theorem State.Reports.grove (h : s.Reports u) : u.grove g = s.grove g := by
  rw [h.rest]
  rfl

theorem State.Reports.thread (h : s.Reports u) : u.thread th = s.thread th := by
  rw [h.rest]
  rfl

theorem State.Reports.trunk (h : s.Reports u) : u.trunk = s.trunk := by rw [h.rest]

/-! ### The pool queue is served -/

/-- u is s after descriptors were given to threads of a grove: reports, threads, and of each grove its pool queue and rotations. -/
structure State.Gives (s u : State) : Prop where
  rest : u = { s with
    ctrs := u.ctrs, recd := u.recd, links := u.links, freeCtr := u.freeCtr, threads := u.threads, groves := u.groves }
  link : ∀ k, k < 176 → u.link k = s.link k
  grove : ∀ g, ∃ q i j, u.grove g = { s.grove g with poolQ := q, rotS := i, rotD := j }

theorem State.Gives.refl (s : State) : s.Gives s := ⟨rfl, fun _ _ => rfl, fun _ => ⟨_, _, _, rfl⟩⟩

theorem State.Gives.trans (a : s.Gives u) (b : u.Gives v) : s.Gives v := by
  refine ⟨by rw [b.rest, a.rest], fun k h => (b.link k h).trans (a.link k h), fun g => ?_⟩
  obtain ⟨q, i, j, e⟩ := a.grove g
  obtain ⟨q', i', j', e'⟩ := b.grove g
  exact ⟨q', i', j', by rw [e', e]⟩

theorem State.Reports.gives (h : s.Reports u) : s.Gives u :=
  ⟨by rw [h.rest], h.link, fun _ => ⟨_, _, _, h.grove⟩⟩

theorem State.gives_setThread {t : Thread} : s.Gives (s.setThread th t) := ⟨rfl, fun _ _ => rfl, fun _ => ⟨_, _, _, rfl⟩⟩

theorem State.gives_modGrove {f : Grove → Grove} (h : ∀ v, ∃ q i j, f v = { v with poolQ := q, rotS := i, rotD := j }) :
    s.Gives (s.modGrove g f) := by
  refine ⟨rfl, fun _ _ => rfl, fun x => ?_⟩
  rw [State.grove_modGrove]
  split
  · next e => exact e ▸ h (s.grove g)
  · exact ⟨_, _, _, rfl⟩

theorem State.gives_packetStart : s.Gives (s.packetStart th) := by
  unfold State.packetStart
  split
  · exact .refl s
  · next d ds hd =>
    refine State.Gives.trans ?_ State.gives_setThread
    refine List.foldlRecOn (upto 12) _ (motive := fun r : State × Thread => s.Gives r.1) (.refl s) fun r hr k _ => ?_
    exact hr.trans State.reports_startWord.gives

theorem State.gives_giveDesc {d : Desc} : s.Gives (s.giveDesc th d) := by
  unfold State.giveDesc
  dsimp only
  split
  · exact State.gives_setThread.trans State.gives_packetStart
  · exact State.gives_setThread

theorem State.gives_servePool (n : Nat) : s.Gives (s.servePool g n) := by
  induction n generalizing s with
  | zero => exact .refl s
  | succ n ih =>
    show s.Gives (match (s.grove g).poolQ with | [] => _ | _ :: _ => _)
    split
    · exact .refl s
    split
    · exact ((State.gives_modGrove fun _ => ⟨_, _, _, rfl⟩).trans State.gives_giveDesc).trans ih
    split
    · exact ((State.gives_modGrove fun _ => ⟨_, _, _, rfl⟩).trans State.gives_giveDesc).trans ih
    · exact .refl s

/-! ### An entry frees, and a completion enters the queue -/

/-- An entry of grove g frees: it counts as free, and its credit leaves for the dispatcher (R51). -/
theorem State.freeEntry_result (hg : g < 8) : ∃ q i j,
    (s.freeEntry g).grove g = { s.grove g with free := (s.grove g).free + 1, poolQ := q, rotS := i, rotD := j } ∧
      ((s.freeEntry g).link (136 + g)).inFlight = (s.link (136 + g)).inFlight ++ [.credit] := by
  have hp : State.Gives _ (s.freeEntry g) := State.gives_servePool (g := g) _
  obtain ⟨q, i, j, e⟩ := hp.grove g
  refine ⟨q, i, j, e.trans ?_, ?_⟩
  · have hv : ((s.modGrove g fun v => { v with free := v.free + 1 }).push (136 + g) .credit).grove g =
        { s.grove g with free := (s.grove g).free + 1 } := by
      rw [State.grove_push, State.grove_modGrove, if_pos rfl]
    rw [hv]
  · rw [hp.link _ (by omega), State.inFlight_push]
    rfl

theorem State.grove_complete {c : Completion} : (s.complete g c).grove g =
    { s.grove g with cq := (s.grove g).cq ++ [{ comp := c, left := cqNeed c.emits.length }] } :=
  (State.grove_modGrove s g g _).trans (if_pos rfl)

end Sys2Proof.Machine
end

section
/-!
PROOFS. How stores leave a store buffer, the trunk's write for a packet window request, the oldest extension request, and the completion of
a descriptor that was given up (O25).
-/
namespace Sys2Proof.Machine

variable {s : State} {g th phys : Nat} {w : Word} {m : BitVec 8}

/-! ### An entry leaves its buffer -/

/-- Without a BMOV word that waits, the waits that a freed entry ends change only those threads' waits. -/
theorem State.sbWake_result (hp : (s.thread th).pendSt = none) :
    ∃ t, s.sbWake th = { s with threads := t } ∧ ((s.sbWake th).thread th).sb = (s.thread th).sb := by
  have hwake : ((s.modThread th fun t => { t with wait := .ready }).thread th).sb = (s.thread th).sb := by
    rw [State.thread_modThread, if_pos rfl]
  unfold State.sbWake
  dsimp only
  rw [hp]
  exact iteInduction (motive := fun u : State => ∃ t, u = { s with threads := t } ∧ (u.thread th).sb = (s.thread th).sb)
    (fun _ => ⟨_, rfl, hwake⟩) (fun _ => ⟨s.threads, rfl, rfl⟩)

/-- The oldest entry leaves the buffer of a thread without a BMOV word that waits; only threads change (R164, R165). -/
theorem State.dropHead_result (hp : (s.thread th).pendSt = none) :
    ∃ t, s.dropHead th = { s with threads := t } ∧ ((s.dropHead th).thread th).sb = (s.thread th).sb.tail := by
  have ht : (s.modThread th fun t => { t with sb := t.sb.tail }).thread th =
      { s.thread th with sb := (s.thread th).sb.tail } := (State.thread_modThread s th th _).trans (if_pos rfl)
  obtain ⟨t, e, hsb⟩ := State.sbWake_result (s := s.modThread th fun t => { t with sb := t.sb.tail }) (th := th) (by rw [ht, hp])
  exact ⟨t, e, hsb.trans (by rw [ht])⟩

/-! ### A word of scratchpad is written -/

theorem State.scratch_writeSpad (a : Nat) : mget 0 ((s.writeSpad g phys w m).grove g).scratch a =
    if a = phys then mergeLanes (mget 0 (s.grove g).scratch phys) w m else mget 0 (s.grove g).scratch a := by
  unfold State.writeSpad
  rw [State.grove_modGrove, if_pos rfl]
  exact mget_mput 0 _ _ _ _

/-- A read of a scratchpad word writes none, and leaves the threads. -/
theorem State.readSpad_keeps : ((s.readSpad g phys).1.grove g).scratch = (s.grove g).scratch ∧
    (s.readSpad g phys).1.threads = s.threads := by
  unfold State.readSpad
  dsimp only
  split
  · exact ⟨rfl, rfl⟩
  · refine ⟨?_, rfl⟩
    rw [State.grove_count, State.grove_modGrove, if_pos rfl]
  · have hr := State.reports_eccEvent (s := (s.orReg (aBanks g + 0x100 + 4 * (phys / 4096)) 8).count (aBanks g + 0x228))
      (i := 10 + g) (area := 0) (x := g) (addr := phys)
    exact ⟨congrArg Grove.scratch hr.grove, by rw [hr.rest]; rfl⟩

/-- A store to a scratchpad word writes its lanes, and leaves the threads (R165, R297). -/
theorem State.storeSpad_result : (s.storeSpad g phys w m).threads = s.threads ∧
    ∀ a, mget 0 ((s.storeSpad g phys w m).grove g).scratch a =
      if a = phys then mergeLanes (mget 0 (s.grove g).scratch phys) w m else mget 0 (s.grove g).scratch a := by
  obtain ⟨hscratch, hthreads⟩ := State.readSpad_keeps (s := s) (g := g) (phys := phys)
  have hread : ∀ a, mget 0 (((s.readSpad g phys).1.writeSpad g phys w m).grove g).scratch a =
      if a = phys then mergeLanes (mget 0 (s.grove g).scratch phys) w m else mget 0 (s.grove g).scratch a := fun a => by
    rw [State.scratch_writeSpad, hscratch]
  unfold State.storeSpad
  dsimp only
  split
  · exact ⟨rfl, State.scratch_writeSpad⟩
  split
  · exact ⟨hthreads, hread⟩
  · refine ⟨hthreads, fun a => ?_⟩
    rw [State.grove_modGrove, if_pos rfl]
    exact hread a

/-- With no other write of the word since the last cycles of the grove, a write through a port is a store (R294). -/
theorem State.writePort_alone {b : Bool} (h : s.WritesAlone g phys b) : (s.writePort g phys b w m).threads = s.threads ∧
    ∀ a, mget 0 ((s.writePort g phys b w m).grove g).scratch a =
      if a = phys then mergeLanes (mget 0 (s.grove g).scratch phys) w m else mget 0 (s.grove g).scratch a := by
  have hplain : ∀ x, let u := (s.modGrove g fun v => { v with dual := some x }).storeSpad g phys w m
      u.threads = s.threads ∧ ∀ a, mget 0 (u.grove g).scratch a =
        if a = phys then mergeLanes (mget 0 (s.grove g).scratch phys) w m else mget 0 (s.grove g).scratch a := fun x => by
    obtain ⟨ht, hs⟩ := State.storeSpad_result (s := s.modGrove g fun v => { v with dual := some x }) (g := g) (phys := phys) (w := w) (m := m)
    rw [State.grove_modGrove, if_pos rfl] at hs
    exact ⟨ht, hs⟩
  unfold State.writePort
  split
  · exact State.storeSpad_result
  · next hbank =>
    have hdual := h.resolve_left hbank
    dsimp only
    split
    · exact hplain _
    · next y hy =>
      rw [if_neg]
      · exact hplain _
      · simp only [Bool.and_eq_true, decide_eq_true_eq]
        rintro ⟨⟨hword, hport⟩, hcycle⟩
        exact hdual y hy hword hport hcycle

/-! ### Stores that leave -/

/-- The oldest store, which the write channel sends next, is written to its scratchpad word and leaves the buffer (R165). -/
theorem State.drain_spad {b : Bool} {e : SbEntry} (hp : (s.thread th).pendSt = none) (he : e.phys = some (phys, b))
    (ha : s.WritesAlone (thG th) phys b) (hn : s.nextToSend th = some e) :
    ((s.drain th none).thread th).sb = (s.thread th).sb.tail ∧ ∀ a, mget 0 ((s.drain th none).grove (thG th)).scratch a =
      if a = phys then mergeLanes (mget 0 (s.grove (thG th)).scratch phys) e.data e.mask
      else mget 0 (s.grove (thG th)).scratch a := by
  have hd : s.drain th none = (s.writePort (thG th) phys b e.data e.mask).dropHead th := by
    unfold State.drain
    rw [hn]
    dsimp only [State.sendEntry, SbEntry.target]
    rw [he]
  obtain ⟨hthreads, hscratch⟩ := State.writePort_alone ha (w := e.data) (m := e.mask)
  have hth : (s.writePort (thG th) phys b e.data e.mask).thread th = s.thread th := congrArg (mget ({} : Thread) · th) hthreads
  obtain ⟨t, hu, hsb⟩ := State.dropHead_result (th := th) (hth ▸ hp)
  rw [hd, hsb, hth, hu]
  exact ⟨rfl, hscratch⟩

/-- A store that its target has accepted leaves the buffer (R165). -/
theorem State.storeAccept_accepted {x : Thid} {e : SbEntry} {es : List SbEntry} (hb : (s.thread x.toNat).sb = e :: es)
    (hp : (s.thread x.toNat).pendSt = none) (ha : e.acc = true) : ((s.storeAccept x).thread x.toNat).sb = es := by
  obtain ⟨t, -, hsb⟩ := State.dropHead_result hp
  unfold State.storeAccept
  rw [hb]
  dsimp only
  rw [if_pos ha, hsb, hb]
  rfl

/-- A request that is given up changes links only. -/
theorem State.dropRequest_links {wr : Bool} : ∃ l, s.dropRequest th wr = { s with links := l } := by
  unfold State.dropRequest
  dsimp only
  split
  · exact ⟨_, rfl⟩
  split
  · exact ⟨_, rfl⟩
  split
  · exact ⟨_, rfl⟩
  · exact ⟨s.links, rfl⟩

/-- A discarded store counts in STOTO and leaves the buffer (R206). -/
theorem State.discardStore_result {e : SbEntry} {es : List SbEntry} (hb : (s.thread th).sb = e :: es)
    (hp : (s.thread th).pendSt = none) : ((s.discardStore th).thread th).sb = es ∧
      (s.discardStore th).ctr (aCore (thG th) (thC th) + 0x60) = s.ctr (aCore (thG th) (thC th) + 0x60) + 1 := by
  have hd : s.discardStore th = (((s.count (aCore (thG th) (thC th) + 0x60)).event (10 + thG th) 0x08 (th * 2 ^ 16)
      [wordOf e.addr.toNat])).dropHead th := by
    unfold State.discardStore
    rw [hb]
  have hr := State.reports_event (s := s.count (aCore (thG th) (thC th) + 0x60)) (i := 10 + thG th) (ev := 0x08)
    (detail := th * 2 ^ 16) (conts := [wordOf e.addr.toNat])
  have hth : ((s.count (aCore (thG th) (thC th) + 0x60)).event (10 + thG th) 0x08 (th * 2 ^ 16)
      [wordOf e.addr.toNat]).thread th = s.thread th := hr.thread
  obtain ⟨t, hu, hsb⟩ := State.dropHead_result (th := th) (hth ▸ hp)
  rw [hd, hsb, hth, hb, hu]
  refine ⟨rfl, ?_⟩
  show mget 0 (State.event _ _ _ _ _).ctrs _ = _
  rw [State.event_ctrs]
  exact (State.ctr_count s _ _ 1).trans (if_pos rfl)

/-- A store to the packet window that is not accepted in time is discarded and counted (R206). -/
theorem State.storeTimeout_packet {e : SbEntry} {es : List SbEntry} (hb : (s.thread th).sb = e :: es)
    (hp : (s.thread th).pendSt = none) (hs : e.sent = true) (ha : e.acc = false) (he : e.phys = none)
    (hlo : 0x100000 ≤ e.addr.toNat) (hhi : e.addr.toNat < 0x100800) (ht : e.since + 4096 ≤ (s.grove (thG th)).cyc) :
    ((s.storeTimeout th).thread th).sb = es ∧
      (s.storeTimeout th).ctr (aCore (thG th) (thC th) + 0x60) = s.ctr (aCore (thG th) (thC th) + 0x60) + 1 := by
  have htarget : e.target = .packet (e.addr.toNat - 0x100000) := by simp [SbEntry.target, he, hlo, hhi]
  obtain ⟨l, hl⟩ := State.dropRequest_links (s := s) (th := th) (wr := true)
  have hd : s.storeTimeout th = State.discardStore { s with links := l } th := by
    unfold State.storeTimeout
    simp only [hb, htarget, hs, ha, ht, ← hl]
    rfl
  rw [hd]
  exact State.discardStore_result (s := { s with links := l }) hb hp

/-! ### The packet window -/

/-- A packet window write lands in its word of the packet, and its request has left the link (R208). -/
theorem State.servePacket_write {r : PwReq} {rest : List Message} (hg : g < 8) (hi : s.islandUp 3 = true)
    (hb : (s.link (144 + g)).buf = .window r :: rest) (hr : r.write = true) (hw : r.word < wordsOf r.len)
    (hk : (mfind s.trunk.pkts r.cell).isSome = true) : ((s.servePacket g).link (144 + g)).buf = rest ∧
      ∀ a, mget 0 (s.servePacket g).trunk.buf a = if a = bufKey (s.cellsOf r.cell) r.word then
        mergeLanes (mget 0 s.trunk.buf a) r.data r.mask else mget 0 s.trunk.buf a := by
  have htrunk : (s.popLink (144 + g)).trunk = s.trunk := State.popLink_trunk s _
  have hcells : (s.popLink (144 + g)).cellsOf r.cell = s.cellsOf r.cell := by
    unfold State.cellsOf
    rw [htrunk]
  have hin : ¬ (decide (wordsOf r.len ≤ r.word) || (mfind s.trunk.pkts r.cell).isNone) = true := by
    simp [Nat.not_le.2 hw, Option.isNone_iff_eq_none, Option.isSome_iff_ne_none.1 hk]
  have hd : s.servePacket g = (s.popLink (144 + g)).servePacketWrite r := by
    unfold State.servePacket
    rw [State.peekLink_eq hb]
    simp [hi, hr]
  rw [hd]
  unfold State.servePacketWrite
  dsimp only
  rw [htrunk, if_neg hin, hcells]
  have hrep : (s.popLink (144 + g)).Reports (if r.mask ≠ 0xFF then (s.popLink (144 + g)).pktCheck r.cell r.len r.word
      else s.popLink (144 + g)) := by
    split
    · exact State.reports_pktCheck
    · exact .refl _
  generalize (if r.mask ≠ 0xFF then _ else _ : State) = v at hrep ⊢
  refine ⟨?_, fun a => ?_⟩
  · show (v.link (144 + g)).buf = rest
    rw [hrep.link _ (by omega), State.buf_popLink hb]
  · show mget 0 (mput 0 v.trunk.buf _ _) a = _
    rw [mget_mput, hrep.trunk, htrunk]
    split
    · next e => rw [e]
    · rfl

/-! ### The extension unit -/

/-- What a request asks for; the cycle of its first presentation is left out. -/
def XReq.asks (q : XReq) : Nat × BitVec 4 × BitVec 15 × Word × Word × Bool := (q.th, q.op, q.imm, q.a, q.b, q.xfer)

/-- Presenting a request changes no request but in the cycle of its presentation. -/
theorem showX_asks (cyc : Nat) (l : List XReq) : (showX cyc l).map XReq.asks = l.map XReq.asks := by
  induction l with
  | nil => rfl
  | cons r l ih =>
    unfold showX
    split
    · rw [List.map_cons, ih, List.map_cons]
    split
    · rfl
    · rfl

/-- The oldest request passes to the unit (R472). -/
theorem exec_extensionRequestTransfer {g : Fin 8} {r : XReq} {rest : List XReq} (hon : s.groveOn g.val = true)
    (hx : (s.grove g.val).xreqs = r :: rest) (hr : r.xfer = false) : exec (.extensionRequestTransfer g) s =
      .next (s.setGrove g.val ((s.grove g.val).setX ({ r with xfer := true } :: rest))) := by
  show execExtensionRequestTransfer g s = _
  unfold execExtensionRequestTransfer
  simp [hx, hr, hon, upto, List.range_succ_eq_map, State.modGrove, lset]

/-! ### A descriptor that was given up -/

/-- With room in the queue, the oldest completion of a given-up descriptor enters it, and its entry frees (R64). -/
theorem State.serveAband_one {x : Nat} {d : Desc} {ds : List (Nat × Desc)} (hg : g < 8) (hq : (s.grove g).abandQ = (x, d) :: ds)
    (hroom : (s.grove g).cqOcc < 64) : let v := (s.serveAband g 1).grove g
    v.abandQ = ds ∧ v.cq = (s.grove g).cq ++ [{ comp := d.completion [], left := 1 }] ∧ v.free = (s.grove g).free + 1 := by
  have hd : s.serveAband g 1 = ((s.modGrove g fun v => { v with abandQ := ds }).complete g (d.completion [])).freeEntry g := by
    rw [State.serveAband, hq]
    dsimp only
    rw [if_pos (show (s.grove g).cqRoom 1 = true from decide_eq_true hroom)]
    rfl
  obtain ⟨q, i, j, e, -⟩ := State.freeEntry_result hg
    (s := (s.modGrove g fun v => { v with abandQ := ds }).complete g (d.completion []))
  dsimp only
  rw [hd, e, State.grove_complete, State.grove_modGrove, if_pos rfl]
  exact ⟨rfl, rfl, rfl⟩

/-- Settles O25, row by row. -/
theorem drainResults : Obligations.DrainResults := by
  intro th g s e es n v
  refine ⟨fun hon hb hp => ⟨fun phys b he ha hn => ⟨_, congrArg Host.Outcome.next (if_pos hon), ?_⟩,
      fun ha => ⟨_, congrArg Host.Outcome.next (if_pos hon), State.storeAccept_accepted hb hp ha⟩,
      fun hs ha he hlo hhi ht =>
        ⟨_, congrArg Host.Outcome.next (if_pos hon), State.storeTimeout_packet hb hp hs ha he hlo hhi ht⟩⟩,
    fun r rest hi hb hr hw hk => ⟨_, rfl, State.servePacket_write g.isLt hi hb hr hw hk⟩,
    fun r rest hon hx hr => ⟨_, exec_extensionRequestTransfer hon hx hr, ?_⟩,
    fun x d ds hon hq hroom => ⟨_, congrArg Host.Outcome.next (if_pos hon), State.serveAband_one g.isLt hq hroom⟩⟩
  · obtain ⟨hsb, hscratch⟩ := State.drain_spad hp he ha hn
    exact ⟨hsb.trans (congrArg List.tail hb), hscratch⟩
  · refine ⟨showX v.cyc rest, ?_, showX_asks _ _, fun q qs hrest hq hsince => ?_⟩
    · rw [State.grove_setGrove, if_pos rfl]
      rfl
    · simp [hrest, showX, hq, hsince]

end Sys2Proof.Machine
end

section
/-!
PROOFS. The collector (O32): the completions it accepts (R59, R60), and the copies that a retirement hands to egress (R58, R74, R75).
-/
namespace Sys2Proof.Machine

variable {s u v : State} {g tag d : Nat} {sl : Slot} {k : Packet}

/-! ### Completions -/

/-- Threads that get room in the completion queue change, and nothing else. -/
theorem State.wakeCq_eq : ∃ t, s.wakeCq g = { s with threads := t } := by
  unfold State.wakeCq
  dsimp only
  refine List.foldlRecOn _ _ (motive := fun u : State => ∃ t, u = { s with threads := t }) ⟨s.threads, rfl⟩ ?_
  rintro u ⟨t, rfl⟩ th -
  exact ⟨_, rfl⟩

theorem State.wakeCq_modGrove {f : Grove → Grove} : let u := (s.modGrove g f).wakeCq g
    (u.trunk = s.trunk ∧ u.ctrs = s.ctrs ∧ u.ports = s.ports) ∧ u.grove g = f (s.grove g) := by
  obtain ⟨t, e⟩ := State.wakeCq_eq (s := s.modGrove g f) (g := g)
  dsimp only
  rw [e]
  exact ⟨⟨rfl, rfl, rfl⟩, (State.grove_modGrove s g g f).trans (if_pos rfl)⟩

/-- The collector takes an entry of the lane of a grove; a completion is accepted with its last one (R59). -/
theorem State.acceptEntry_cases {i : CqItem} {rest : List CqItem} (hq : (s.grove g).cq = i :: rest) (hl : 1 ≤ (s.grove g).lane) :
    ∃ u, (u.trunk = s.trunk ∧ u.ctrs = s.ctrs ∧ u.ports = s.ports) ∧ (u.grove g).lane = (s.grove g).lane - 1 ∧
      (2 ≤ i.left → s.acceptEntry g = u ∧ (u.grove g).cq = { i with left := i.left - 1 } :: rest) ∧
      (i.left ≤ 1 → s.acceptEntry g = u.acceptComp i.comp ∧ (u.grove g).cq = rest) := by
  have hlane : ¬ (s.grove g).lane = 0 := by omega
  by_cases hleft : i.left ≤ 1
  · obtain ⟨hkeep, hgrove⟩ := State.wakeCq_modGrove (s := s) (g := g) (f := fun v => { v with cq := rest, lane := v.lane - 1 })
    refine ⟨_, hkeep, by rw [hgrove], fun h => absurd h (by omega), fun _ => ⟨?_, by rw [hgrove]⟩⟩
    unfold State.acceptEntry
    rw [hq]
    dsimp only
    rw [if_neg hlane, if_pos hleft]
  · obtain ⟨hkeep, hgrove⟩ := State.wakeCq_modGrove (s := s) (g := g)
      (f := fun v => { v with cq := { i with left := i.left - 1 } :: rest, lane := v.lane - 1 })
    refine ⟨_, hkeep, by rw [hgrove], fun _ => ⟨?_, by rw [hgrove]⟩, fun h => absurd h hleft⟩
    unfold State.acceptEntry
    rw [hq]
    dsimp only
    rw [if_neg hlane, if_neg hleft]

/-- The completion is for the packet that its slot holds (R60). -/
def Trunk.expects (t : Trunk) (c : Completion) : Prop :=
  ∃ sl, mfind t.slots c.tag = some sl ∧ sl.dom = c.dom ∧ sl.seq = c.seq

theorem State.acceptComp_records {c : Completion} (hs : mfind s.trunk.slots c.tag = some sl) (hd : sl.dom = c.dom)
    (hq : sl.seq = c.seq) : s.acceptComp c =
      s.modTrunk fun t => { t with slots := mins t.slots c.tag { sl with done := some c.emits } } := by
  unfold State.acceptComp
  rw [hs]
  dsimp only
  rw [if_pos (by simp [hd, hq])]

theorem State.acceptComp_stale {c : Completion} (h : ¬ s.trunk.expects c) :
    s.acceptComp c = (s.releasePkt c.cell).count 0x85020 := by
  unfold State.acceptComp
  split
  · next sl hs =>
    refine if_neg fun hm => h ⟨sl, hs, ?_⟩
    simpa using hm
  · rfl

/-- A released packet leaves slots, counters and groves as they are. -/
theorem State.releasePkt_keeps {c : Nat} : (s.releasePkt c).trunk.slots = s.trunk.slots ∧ (s.releasePkt c).ctrs = s.ctrs ∧
    (s.releasePkt c).groves = s.groves := by
  unfold State.releasePkt
  split <;> exact ⟨rfl, rfl, rfl⟩

theorem State.releasePkt_of_none {c : Nat} (h : mfind s.trunk.pkts c = none) : s.releasePkt c = s := by
  unfold State.releasePkt
  rw [h]

/-- A stale completion counts, and its packet leaves the buffer (R60). -/
theorem State.acceptComp_stale_result {c : Completion} (h : ¬ s.trunk.expects c) :
    (s.acceptComp c).trunk.slots = s.trunk.slots ∧ (s.acceptComp c).ctr 0x85020 = s.ctr 0x85020 + 1 ∧
      (s.acceptComp c).groves = s.groves ∧
      (∀ k, mfind s.trunk.pkts c.cell = some k → Released s (s.acceptComp c) k c.cell) ∧
      (mfind s.trunk.pkts c.cell = none →
        (s.acceptComp c).trunk.alloc = s.trunk.alloc ∧ (s.acceptComp c).trunk.pkts = s.trunk.pkts) := by
  obtain ⟨hslots, hctrs, hgroves⟩ := State.releasePkt_keeps (s := s) (c := c.cell)
  rw [State.acceptComp_stale h]
  refine ⟨hslots, ?_, hgroves, fun k hk => State.releasePkt_released hk, fun hn => ?_⟩
  · rw [State.ctr_count, if_pos rfl]
    exact congrArg (mget 0 · _ + 1) hctrs
  · rw [State.releasePkt_of_none hn]
    exact ⟨rfl, rfl⟩

/-! ### What a retirement leaves -/

/-- The trunk after the head of domain d, in the slot of this tag, has left the collector at time hw (R61). -/
def Trunk.leave (t : Trunk) (tag d hw : Nat) : Trunk :=
  { t with slots := mdel t.slots tag, doms := mput {} t.doms d { t.dom d with head := ((t.dom d).head + 1) % 65536, since := hw } }

/-- u is s after work on the packets' cells, copies and records: the buffer, counters, links and ports change, but no port's state. -/
structure State.Collects (s u : State) : Prop where
  rest : u = { s with trunk := u.trunk, ctrs := u.ctrs, links := u.links, ports := u.ports }
  trunk : ∃ a b e k, u.trunk = { s.trunk with alloc := a, buf := b, ecc := e, pkts := k }
  port : ∀ p, (u.port p).st = (s.port p).st

theorem State.Collects.refl (s : State) : s.Collects s := ⟨rfl, ⟨_, _, _, _, rfl⟩, fun _ => rfl⟩

theorem State.Collects.trans (a : s.Collects u) (b : u.Collects v) : s.Collects v := by
  refine ⟨by rw [b.rest, a.rest], ?_, fun p => (b.port p).trans (a.port p)⟩
  obtain ⟨al, bu, ec, pk, e⟩ := a.trunk
  obtain ⟨al', bu', ec', pk', e'⟩ := b.trunk
  exact ⟨al', bu', ec', pk', by rw [e', e]⟩

theorem State.collects_count {a n : Nat} : s.Collects (s.count a n) := ⟨rfl, ⟨_, _, _, _, rfl⟩, fun _ => rfl⟩

theorem State.collects_modPort {p : Nat} {f : Port → Port} (h : (f (s.port p)).st = (s.port p).st) : s.Collects (s.modPort p f) := by
  refine ⟨rfl, ⟨_, _, _, _, rfl⟩, fun x => ?_⟩
  rw [State.port_modPort]
  split
  · next e => rw [e, h]
  · rfl

theorem State.collects_modTrunk {f : Trunk → Trunk}
    (h : ∃ a b e k, f s.trunk = { s.trunk with alloc := a, buf := b, ecc := e, pkts := k }) : s.Collects (s.modTrunk f) :=
  ⟨rfl, h, fun _ => rfl⟩

theorem State.collects_freeCells {p : Nat} {cells : List Nat} : s.Collects (s.freeCells p cells) := by
  unfold State.freeCells
  exact (State.collects_modTrunk ⟨_, _, _, _, rfl⟩).trans (State.collects_modPort rfl)

theorem State.collects_releasePkt {c : Nat} : s.Collects (s.releasePkt c) := by
  unfold State.releasePkt
  split
  · exact .refl s
  · exact (State.collects_modTrunk ⟨_, _, _, _, rfl⟩).trans State.collects_freeCells

/-- A DROP record leaves over a link, or none is made. -/
theorem State.dropRecord_eq {dom seq reason eport : Nat} : ∃ l, s.dropRecord k dom seq reason eport = { s with links := l } := by
  unfold State.dropRecord
  split
  · exact ⟨_, rfl⟩
  · exact ⟨s.links, rfl⟩

theorem State.collects_dropRecord {dom seq reason eport : Nat} : s.Collects (s.dropRecord k dom seq reason eport) := by
  obtain ⟨l, e⟩ := State.dropRecord_eq (s := s) (k := k) (dom := dom) (seq := seq) (reason := reason) (eport := eport)
  rw [e]
  exact ⟨rfl, ⟨_, _, _, _, rfl⟩, fun _ => rfl⟩

/-- The packet of a port is no longer on its way through the trunk (R87). -/
theorem State.inflDown_port {p x : Nat} : ∃ n, (s.inflDown p).port x = { s.port x with infl := n } := by
  unfold State.inflDown
  rw [State.port_modPort]
  split
  · next e =>
    subst e
    exact ⟨_, rfl⟩
  · exact ⟨_, rfl⟩

/-- The head that leaves counts as retired, and its port has one packet less on the way (R61, R87). -/
theorem State.leaveSlot_result : (s.modTrunk fun t => t.leave tag sl.dom s.hw).Collects (s.leaveSlot tag sl) ∧
    (s.leaveSlot tag sl).trunk = s.trunk.leave tag sl.dom s.hw ∧ (s.leaveSlot tag sl).ctrs = (s.count 0x85000).ctrs ∧
      ∀ p, ∃ n, (s.leaveSlot tag sl).port p = { s.port p with infl := n } := by
  have hc : (s.modTrunk fun t => t.leave tag sl.dom s.hw).Collects ((s.modTrunk fun t => t.leave tag sl.dom s.hw).count 0x85000) :=
    State.collects_count
  unfold State.leaveSlot
  dsimp only
  split
  · exact ⟨hc.trans (State.collects_modPort rfl), rfl, rfl, fun p => State.inflDown_port⟩
  · exact ⟨hc, rfl, rfl, fun p => ⟨_, rfl⟩⟩

theorem State.ctr_leaveSlot {a : Nat} :
    (s.leaveSlot tag sl).ctr a = if a = 0x85000 then s.ctr 0x85000 + 1 else s.ctr a := by
  obtain ⟨-, -, hctrs, -⟩ := State.leaveSlot_result (s := s) (tag := tag) (sl := sl)
  exact (congrArg (mget 0 · a) hctrs).trans (State.ctr_count s 0x85000 a 1)

/-! ### Copies are handed to egress -/

/-- An entry of an emit list leaves a symbol and holds the word it overrides, and its port takes copies (R58). -/
def State.takesEmit (s : State) (k : Packet) (e : Emit) : Bool :=
  decide (e.skip + e.trim < k.len) &&
    (!e.oven || (decide (e.skip < 8 * e.ovoff + 8) && decide (8 * e.ovoff < k.len - e.trim))) &&
    ((s.port e.port).st = .up || (s.port e.port).st = .starting)

/-- The copy that an entry of a packet's emit list makes. -/
def Packet.copy (k : Packet) (cell dom seq : Nat) (e : Emit) : Copy :=
  { emit := e, cell := cell, len := k.len, its := k.its, iport := k.port, dom := dom, seq := seq, cls := k.cls, bad := 0 }

/-- The copies that a retirement hands to egress, of the packet that it finds. -/
theorem State.handed_eq {es : List Emit} (hk : mfind s.trunk.pkts sl.cell = some k) :
    s.handed (tag, sl, es) = (es.filter (s.takesEmit k)).map (k.copy sl.cell sl.dom sl.seq) := by
  unfold State.handed
  dsimp only
  rw [hk]
  rfl

/-- Each queue has room for those of the copies that are for it. -/
def State.roomFor (s : State) (l : List Copy) : Prop :=
  ∀ p c, (l.filter fun y => y.emit.port = p && y.emit.cls = c).length ≤ s.qlim p c - ((s.port p).queue c).length

/-- The queue of class c of port p with the copies that are for it, as many as it holds (R58, R75). -/
def State.queueWith (s : State) (l : List Copy) (p c : Nat) : List Copy :=
  (s.port p).queue c ++ (l.filter fun y => y.emit.port = p && y.emit.cls = c).take (s.qlim p c - ((s.port p).queue c).length)

/-- u is s after these copies of the packet in this cell were handed to egress. -/
structure State.HandsOut (s u : State) (cell : Nat) (l : List Copy) : Prop where
  collects : s.Collects u
  copies : u.ctr 0x85010 = s.ctr 0x85010 + BitVec.ofNat 64 l.length
  retired : u.ctr 0x85000 = s.ctr 0x85000
  drops : u.ctr 0x85008 = s.ctr 0x85008
  queue : ∀ p c, (u.port p).queue c = s.queueWith l p c
  alloc : u.trunk.alloc = s.trunk.alloc
  other : ∀ x, x ≠ cell → mfind u.trunk.pkts x = mfind s.trunk.pkts x
  own : ∀ k, mfind s.trunk.pkts cell = some k → ∃ n, mfind u.trunk.pkts cell = some { k with live := k.live + n } ∧
    (s.roomFor l → n = l.length)

theorem State.Collects.reg (h : s.Collects u) : u.reg = s.reg := by
  rw [h.rest]
  rfl

theorem State.Collects.qlim (h : s.Collects u) : u.qlim = s.qlim := by
  funext p c
  unfold State.qlim
  rw [h.reg]

theorem State.HandsOut.nil (s : State) (cell : Nat) : s.HandsOut s cell [] where
  collects := .refl s
  copies := (BitVec.add_zero _).symm
  retired := rfl
  drops := rfl
  queue p c := by simp [State.queueWith]
  alloc := rfl
  other _ _ := rfl
  own k hk := ⟨0, hk, fun _ => rfl⟩

/-- What a queue of at most n copies takes of two lists in turn, it takes of both in a row. -/
theorem append_take_append {α : Type} (q a b : List α) (n : Nat) :
    (q ++ a.take (n - q.length)) ++ b.take (n - (q ++ a.take (n - q.length)).length) = q ++ (a ++ b).take (n - q.length) := by
  rw [List.append_assoc, List.take_append, List.length_append, List.length_take]
  congr 3
  omega

/-- Copies put into the queues in two parts are there as all of them in a row. -/
theorem State.queueWith_append {l m : List Copy} (hl : u.qlim = s.qlim) (hq : ∀ p c, (u.port p).queue c = s.queueWith l p c) {p c : Nat} :
    u.queueWith m p c = s.queueWith (l ++ m) p c := by
  rw [State.queueWith, hq, hl, State.queueWith, append_take_append, State.queueWith, List.filter_append]

/-- Room for all copies is room for the first part, and for the others after it. -/
theorem State.roomFor_append {l m : List Copy} (hl : u.qlim = s.qlim) (hq : ∀ p c, (u.port p).queue c = s.queueWith l p c)
    (h : s.roomFor (l ++ m)) : s.roomFor l ∧ u.roomFor m := by
  refine ⟨fun p c => ?_, fun p c => ?_⟩ <;> have hp := h p c <;> rw [List.filter_append, List.length_append] at hp
  · omega
  · rw [hl, hq, State.queueWith, List.length_append, List.length_take]
    omega

theorem State.HandsOut.append {cell : Nat} {l m : List Copy} (a : s.HandsOut u cell l) (b : u.HandsOut v cell m) :
    s.HandsOut v cell (l ++ m) where
  collects := a.collects.trans b.collects
  copies := by
    rw [b.copies, a.copies, List.length_append, BitVec.ofNat_add, BitVec.add_assoc]
  retired := b.retired.trans a.retired
  drops := b.drops.trans a.drops
  queue p c := by rw [b.queue, State.queueWith_append a.collects.qlim a.queue]
  alloc := b.alloc.trans a.alloc
  other x h := (b.other x h).trans (a.other x h)
  own k hk := by
    obtain ⟨n, hn, hl⟩ := a.own k hk
    obtain ⟨n', hn', hm⟩ := b.own _ hn
    refine ⟨n + n', by rw [hn', Nat.add_assoc], fun hroom => ?_⟩
    obtain ⟨hfirst, hsecond⟩ := State.roomFor_append a.collects.qlim a.queue hroom
    rw [hl hfirst, hm hsecond, List.length_append]

/-- Copies that are not handed over, and those that a full queue discards, count and are recorded. -/
theorem State.ctr_dropRecord {dom seq reason eport a : Nat} : (s.dropRecord k dom seq reason eport).ctr a = s.ctr a := by
  obtain ⟨l, e⟩ := State.dropRecord_eq (s := s) (k := k) (dom := dom) (seq := seq) (reason := reason) (eport := eport)
  rw [e]
  rfl

theorem State.port_dropRecord {dom seq reason eport p : Nat} : (s.dropRecord k dom seq reason eport).port p = s.port p := by
  obtain ⟨l, e⟩ := State.dropRecord_eq (s := s) (k := k) (dom := dom) (seq := seq) (reason := reason) (eport := eport)
  rw [e]
  rfl

theorem State.trunk_dropRecord {dom seq reason eport : Nat} : (s.dropRecord k dom seq reason eport).trunk = s.trunk := by
  obtain ⟨l, e⟩ := State.dropRecord_eq (s := s) (k := k) (dom := dom) (seq := seq) (reason := reason) (eport := eport)
  rw [e]

theorem State.ctr_count_other {a b n : Nat} (h : b ≠ a) : (s.count a n).ctr b = s.ctr b := by
  rw [State.ctr_count, if_neg h]

/-- An entry whose copy is discarded at retirement (R58). -/
theorem State.handsOut_discard {cell dom seq reason eport a : Nat} (h0 : a ≠ 0x85000) (h8 : a ≠ 0x85008) (h10 : a ≠ 0x85010) :
    s.HandsOut ((s.count a).dropRecord k dom seq reason eport) cell [] where
  collects := State.collects_count.trans State.collects_dropRecord
  copies := by rw [State.ctr_dropRecord, State.ctr_count_other h10.symm, List.length_nil, BitVec.add_zero]
  retired := by rw [State.ctr_dropRecord, State.ctr_count_other h0.symm]
  drops := by rw [State.ctr_dropRecord, State.ctr_count_other h8.symm]
  queue p c := by
    rw [State.port_dropRecord]
    simp [State.queueWith]
    rfl
  alloc := by rw [State.trunk_dropRecord]; rfl
  other _ _ := by rw [State.trunk_dropRecord]; rfl
  own k hk := ⟨0, by rw [State.trunk_dropRecord]; exact hk, fun _ => rfl⟩

/-- The queue of an emit entry's class. -/
theorem State.queueWith_one {y : Copy} {p c : Nat} : s.queueWith [y] p c =
    if p = y.emit.port ∧ c = y.emit.cls ∧ ((s.port p).queue c).length < s.qlim p c then (s.port p).queue c ++ [y]
    else (s.port p).queue c := by
  unfold State.queueWith
  by_cases hp : y.emit.port = p ∧ y.emit.cls = c
  · obtain ⟨rfl, rfl⟩ := hp
    by_cases hl : ((s.port y.emit.port).queue y.emit.cls).length < s.qlim y.emit.port y.emit.cls
    · have : ¬ s.qlim y.emit.port y.emit.cls - ((s.port y.emit.port).queue y.emit.cls).length = 0 := by omega
      simp [hl, List.take_cons (Nat.pos_of_ne_zero this)]
    · have : s.qlim y.emit.port y.emit.cls - ((s.port y.emit.port).queue y.emit.cls).length = 0 := by omega
      simp [hl, this]
  · have : ¬ (p = y.emit.port ∧ c = y.emit.cls ∧ ((s.port p).queue c).length < s.qlim p c) :=
      fun h => hp ⟨h.1.symm, h.2.1.symm⟩
    rw [if_neg this]
    have hf : (decide (y.emit.port = p) && decide (y.emit.cls = c)) = false := by
      simpa using hp
    simp [hf]

/-- A copy that its full queue discards is handed over all the same (log entry 122). -/
theorem State.handsOut_full {cell : Nat} {y : Copy} {dom seq reason eport a : Nat} (h0 : a ≠ 0x85000) (h8 : a ≠ 0x85008)
    (h10 : a ≠ 0x85010) (hf : s.qlim y.emit.port y.emit.cls ≤ ((s.port y.emit.port).queue y.emit.cls).length) :
    s.HandsOut (((s.count 0x85010).count a).dropRecord k dom seq reason eport) cell [y] where
  collects := (State.collects_count.trans State.collects_count).trans State.collects_dropRecord
  copies := by
    rw [State.ctr_dropRecord, State.ctr_count_other h10.symm, State.ctr_count, if_pos rfl]
    rfl
  retired := by rw [State.ctr_dropRecord, State.ctr_count_other h0.symm, State.ctr_count_other (by decide)]
  drops := by rw [State.ctr_dropRecord, State.ctr_count_other h8.symm, State.ctr_count_other (by decide)]
  queue p c := by
    rw [State.port_dropRecord, State.queueWith_one, if_neg]
    · rfl
    · rintro ⟨rfl, rfl, hlt⟩
      omega
  alloc := by rw [State.trunk_dropRecord]; rfl
  other _ _ := by rw [State.trunk_dropRecord]; rfl
  own k hk := by
    refine ⟨0, by rw [State.trunk_dropRecord]; exact hk, fun hroom => ?_⟩
    have := hroom y.emit.port y.emit.cls
    simp at this
    omega

/-- The copy stands at the end of its class's queue. -/
def Port.withCopy (q : Port) (y : Copy) : Port := { q with queues := mput [] q.queues y.emit.cls (q.queue y.emit.cls ++ [y]) }

/-- The copy joins its queue, and its packet has one more in use. -/
def State.withCopy (s : State) (cell : Nat) (y : Copy) : State :=
  (s.modPort y.emit.port fun q => q.withCopy y).modTrunk
    fun t => match mfind t.pkts cell with
      | some k => { t with pkts := mins t.pkts cell { k with live := k.live + 1 } }
      | none => t

theorem State.pkts_withCopy {cell x : Nat} {y : Copy} : mfind (s.withCopy cell y).trunk.pkts x =
    if x = cell then (mfind s.trunk.pkts cell).map (fun k => { k with live := k.live + 1 }) else mfind s.trunk.pkts x := by
  simp only [State.withCopy, State.modTrunk, State.modPort_trunk]
  cases hk : mfind s.trunk.pkts cell with
  | none =>
    dsimp only
    split
    · next e => rw [e, hk]; rfl
    · rfl
  | some k =>
    dsimp only
    split
    · next e => rw [e]; exact mfind_mins_same _ _ _
    · next e => exact mfind_mins_other _ e _

theorem State.queue_withCopy {cell p c : Nat} {y : Copy} : ((s.withCopy cell y).port p).queue c =
    if p = y.emit.port ∧ c = y.emit.cls then (s.port p).queue c ++ [y] else (s.port p).queue c := by
  show ((s.modPort y.emit.port fun q => q.withCopy y).port p).queue c = _
  rw [State.port_modPort]
  by_cases hp : p = y.emit.port
  · subst hp
    rw [if_pos rfl]
    show mget [] (mput [] _ _ _) c = _
    rw [mget_mput]
    by_cases hc : c = y.emit.cls
    · subst hc
      simp
    · simp [hc]
      rfl
  · simp [hp]

theorem State.collects_withCopy {cell : Nat} {y : Copy} : s.Collects (s.withCopy cell y) := by
  unfold State.withCopy
  refine (State.collects_modPort (by rfl)).trans (State.collects_modTrunk ?_)
  split <;> exact ⟨_, _, _, _, rfl⟩

theorem State.ctr_withCopy {cell a : Nat} {y : Copy} : (s.withCopy cell y).ctr a = s.ctr a := rfl

/-- A copy that its queue has room for (R74). -/
theorem State.handsOut_queued {cell : Nat} {y : Copy} (hr : ((s.port y.emit.port).queue y.emit.cls).length < s.qlim y.emit.port y.emit.cls) :
    s.HandsOut ((s.count 0x85010).withCopy cell y) cell [y] where
  collects := State.collects_count.trans State.collects_withCopy
  copies := (State.ctr_count s 0x85010 0x85010 1).trans (if_pos rfl)
  retired := State.ctr_withCopy.trans (State.ctr_count_other (by decide))
  drops := State.ctr_withCopy.trans (State.ctr_count_other (by decide))
  queue p c := by
    rw [State.queue_withCopy, State.queueWith_one]
    by_cases h : p = y.emit.port ∧ c = y.emit.cls
    · obtain ⟨rfl, rfl⟩ := h
      simp [hr]
      rfl
    · rw [if_neg h, if_neg fun hh => h ⟨hh.1, hh.2.1⟩]
      rfl
  alloc := by
    unfold State.withCopy State.modTrunk
    dsimp only
    split <;> rfl
  other x hx := by
    rw [State.pkts_withCopy, if_neg hx]
    rfl
  own k hk := ⟨1, by
    rw [State.pkts_withCopy, if_pos rfl]
    exact congrArg (Option.map _) hk, fun _ => rfl⟩

/-- One entry of an emit list at retirement (R58, R74, R75). -/
theorem State.handsOut_enqueue {cell dom seq : Nat} {e : Emit} : s.HandsOut (s.enqueue k cell dom seq e) cell
    (if s.takesEmit k e = true then [k.copy cell dom seq e] else []) := by
  have hfit : (decide (e.skip + e.trim ≥ k.len) ||
      (e.oven && (decide (8 * e.ovoff + 8 ≤ e.skip) || decide (k.len - e.trim ≤ 8 * e.ovoff)))) = false ∧
      (decide ((s.port e.port).st = .off) || decide ((s.port e.port).st = .draining)) = false ↔ s.takesEmit k e = true := by
    have hst : (¬ (s.port e.port).st = .off ∧ ¬ (s.port e.port).st = .draining) ↔
        ((s.port e.port).st = .up ∨ (s.port e.port).st = .starting) := by
      cases (s.port e.port).st <;> simp
    simp only [State.takesEmit, Bool.or_eq_false_iff, Bool.and_eq_true, Bool.or_eq_true, decide_eq_true_eq, decide_eq_false_iff_not, hst,
      Bool.and_eq_false_iff, Bool.not_eq_true', Nat.not_le, ge_iff_le, and_assoc]
  by_cases ht : s.takesEmit k e = true
  · obtain ⟨h1, h2⟩ := hfit.2 ht
    rw [if_pos ht]
    unfold State.enqueue
    rw [h1, h2]
    dsimp only
    rw [if_neg Bool.false_ne_true, if_neg Bool.false_ne_true]
    split
    · next hfull =>
      exact State.handsOut_full (by unfold aEgress; omega) (by unfold aEgress; omega) (by unfold aEgress; omega) hfull
    · next hroom => exact State.handsOut_queued (y := k.copy cell dom seq e) (Nat.lt_of_not_le hroom)
  · rw [if_neg ht]
    unfold State.enqueue
    split
    · exact State.handsOut_discard (by decide) (by decide) (by decide)
    · next h1 =>
      split
      · exact State.handsOut_discard (by decide) (by decide) (by decide)
      · next h2 => exact absurd (hfit.1 ⟨Bool.eq_false_iff.2 h1, Bool.eq_false_iff.2 h2⟩) ht

/-- The copies of an emit list are handed over in its order (R58). -/
theorem State.handsOut_emits {cell dom seq : Nat} (es : List Emit) :
    s.HandsOut (es.foldl (fun s e => s.enqueue k cell dom seq e) s) cell ((es.filter (s.takesEmit k)).map (k.copy cell dom seq)) := by
  induction es generalizing s with
  | nil => exact .nil s cell
  | cons e es ih =>
    have hone := State.handsOut_enqueue (s := s) (k := k) (cell := cell) (dom := dom) (seq := seq) (e := e)
    have hsame : (s.enqueue k cell dom seq e).takesEmit k = s.takesEmit k := by
      funext x
      unfold State.takesEmit
      rw [hone.collects.port]
    have hrest := ih (s := s.enqueue k cell dom seq e)
    rw [hsame] at hrest
    have hall := hone.append hrest
    rw [List.filter_cons]
    split
    · next ht => rwa [if_pos ht] at hall
    · next ht => rwa [if_neg ht] at hall

end Sys2Proof.Machine
end

section
/-!
PROOFS. What the retirement of one packet leaves (O32): its slot, the head of its domain, the counters, the queues and its packet.
-/
namespace Sys2Proof.Machine

variable {s u v : State} {tag d : Nat} {sl : Slot} {k : Packet} {es : List Emit}

/-! ### The slot leaves -/

theorem State.queue_leaveSlot {p c : Nat} : ((s.leaveSlot tag sl).port p).queue c = (s.port p).queue c := by
  obtain ⟨-, -, -, hport⟩ := State.leaveSlot_result (s := s) (tag := tag) (sl := sl)
  obtain ⟨n, e⟩ := hport p
  rw [e]
  rfl

theorem State.qlim_leaveSlot : (s.leaveSlot tag sl).qlim = s.qlim :=
  State.leaveSlot_result.1.qlim

theorem State.takesEmit_leaveSlot : (s.leaveSlot tag sl).takesEmit k = s.takesEmit k := by
  funext e
  unfold State.takesEmit
  rw [State.leaveSlot_result.1.port]
  rfl

theorem State.pkts_leaveSlot : (s.leaveSlot tag sl).trunk.pkts = s.trunk.pkts := by
  rw [State.leaveSlot_result.2.1]
  rfl

theorem State.alloc_leaveSlot : (s.leaveSlot tag sl).trunk.alloc = s.trunk.alloc := by
  rw [State.leaveSlot_result.2.1]
  rfl

theorem State.queueWith_leaveSlot {l : List Copy} {p c : Nat} : (s.leaveSlot tag sl).queueWith l p c = s.queueWith l p c := by
  unfold State.queueWith
  rw [State.queue_leaveSlot, State.qlim_leaveSlot]

theorem State.roomFor_leaveSlot {l : List Copy} : (s.leaveSlot tag sl).roomFor l ↔ s.roomFor l := by
  unfold State.roomFor
  simp only [State.queue_leaveSlot, State.qlim_leaveSlot]

/-! ### A packet is released -/

theorem State.queue_releasePkt {x p c : Nat} : ((s.releasePkt x).port p).queue c = (s.port p).queue c := by
  unfold State.releasePkt
  split
  · rfl
  · unfold State.freeCells
    rw [State.port_modPort]
    split
    · next e => rw [e]; rfl
    · rfl

theorem State.ctr_releasePkt {x a : Nat} : (s.releasePkt x).ctr a = s.ctr a :=
  congrArg (mget 0 · a) State.releasePkt_keeps.2.1

/-! ### One retirement -/

/-- A packet that retires leaves the buffer: a drop, or one without copies in use that hands none over (R58, R61). -/
def State.goneBy (s : State) (x : Nat × Slot × List Emit) : Prop :=
  x.2.2 = [] ∨ ∃ k, mfind s.trunk.pkts x.2.1.cell = some k ∧ k.live = 0 ∧ s.handed x = []

/-- u is s after the retirement of packet k. -/
structure State.Retired (s u : State) (x : Nat × Slot × List Emit) (k : Packet) : Prop where
  leaves : (s.modTrunk fun t => t.leave x.1 x.2.1.dom s.hw).Collects u
  retired : u.ctr 0x85000 = s.ctr 0x85000 + 1
  drops : u.ctr 0x85008 = s.ctr 0x85008 + if x.2.2 = [] then 1 else 0
  copies : u.ctr 0x85010 = s.ctr 0x85010 + BitVec.ofNat 64 (s.handed x).length
  queue : ∀ p c, (u.port p).queue c = s.queueWith (s.handed x) p c
  other : ∀ y, y ≠ x.2.1.cell → mfind u.trunk.pkts y = mfind s.trunk.pkts y
  gone : s.roomFor (s.handed x) → s.goneBy x → mfind u.trunk.pkts x.2.1.cell = none
  stays : s.roomFor (s.handed x) → ¬ s.goneBy x →
    mfind u.trunk.pkts x.2.1.cell = some { k with live := k.live + (s.handed x).length }
  alloc : s.roomFor (s.handed x) → ∀ c, c ∈ u.trunk.alloc ↔ c ∈ s.trunk.alloc ∧ (s.goneBy x → c ∉ k.cells)
  kept : s.roomFor (s.handed x) → ¬ s.goneBy x → u.trunk.alloc = s.trunk.alloc

/-- Without copies a packet retires as a drop, and its cells are free (R58, R61). -/
theorem State.retire_drop (hk : mfind s.trunk.pkts sl.cell = some k) : s.retire tag sl [] =
    (((s.leaveSlot tag sl).count 0x85008).dropRecord k sl.dom sl.seq 0 0).releasePkt sl.cell := by
  unfold State.retire
  dsimp only
  rw [State.pkts_leaveSlot, hk]

theorem State.retired_drop (hk : mfind s.trunk.pkts sl.cell = some k) : s.Retired (s.retire tag sl []) (tag, sl, []) k := by
  have hh : s.handed (tag, sl, []) = [] := by
    rw [State.handed_eq hk]
    rfl
  have hpkts : ((((s.leaveSlot tag sl).count 0x85008).dropRecord k sl.dom sl.seq 0 0)).trunk.pkts = s.trunk.pkts := by
    rw [State.trunk_dropRecord]
    exact State.pkts_leaveSlot
  have hctr : ∀ a, ((((s.leaveSlot tag sl).count 0x85008).dropRecord k sl.dom sl.seq 0 0).releasePkt sl.cell).ctr a =
      if a = 0x85008 then s.ctr 0x85008 + 1 else if a = 0x85000 then s.ctr 0x85000 + 1 else s.ctr a := fun a => by
    rw [State.ctr_releasePkt, State.ctr_dropRecord, State.ctr_count, State.ctr_leaveSlot, State.ctr_leaveSlot]
    rfl
  rw [State.retire_drop hk]
  exact {
    leaves := ((State.leaveSlot_result.1.trans State.collects_count).trans State.collects_dropRecord).trans State.collects_releasePkt
    retired := hctr _
    drops := hctr _
    copies := by rw [hh, hctr]; exact (BitVec.add_zero _).symm
    queue := fun p c => by
      rw [hh, State.queue_releasePkt, State.port_dropRecord]
      refine (State.queue_leaveSlot (tag := tag) (sl := sl)).trans ?_
      simp [State.queueWith]
    other := fun y hy => by rw [State.pkts_releasePkt, if_neg hy, hpkts]
    gone := fun _ _ => by rw [State.pkts_releasePkt, if_pos rfl]
    stays := fun _ h => absurd (.inl rfl) h
    alloc := fun _ c => by
      rw [State.alloc_releasePkt, hpkts, State.trunk_dropRecord]
      refine and_congr (by rw [State.count_trunk, State.alloc_leaveSlot]) ?_
      simp [hk, State.goneBy]
    kept := fun _ h => absurd (.inl rfl) h }

/-- With copies the packet stays as long as one is in use (R58). -/
theorem State.retire_emits (hk : mfind s.trunk.pkts sl.cell = some k) (he : es ≠ []) :
    ∃ u n, (s.leaveSlot tag sl).HandsOut u sl.cell (s.handed (tag, sl, es)) ∧
      mfind u.trunk.pkts sl.cell = some { k with live := k.live + n } ∧
      (s.roomFor (s.handed (tag, sl, es)) → n = (s.handed (tag, sl, es)).length) ∧
      s.retire tag sl es = if k.live + n = 0 then u.releasePkt sl.cell else u := by
  have hout := State.handsOut_emits (s := s.leaveSlot tag sl) (k := k) (cell := sl.cell) (dom := sl.dom) (seq := sl.seq) es
  rw [State.takesEmit_leaveSlot, ← State.handed_eq (tag := tag) hk] at hout
  have hk' : mfind (s.leaveSlot tag sl).trunk.pkts sl.cell = some k := by rw [State.pkts_leaveSlot, hk]
  obtain ⟨n, hn, hroom⟩ := hout.own k hk'
  refine ⟨_, n, hout, hn, fun h => hroom (State.roomFor_leaveSlot.2 h), ?_⟩
  unfold State.retire
  dsimp only
  rw [hk']
  cases es with
  | nil => exact absurd rfl he
  | cons e es =>
    dsimp only at hn ⊢
    rw [hn]

theorem State.retired_emits (hk : mfind s.trunk.pkts sl.cell = some k) (he : es ≠ []) :
    s.Retired (s.retire tag sl es) (tag, sl, es) k := by
  obtain ⟨u, n, hout, hn, hroom, hr⟩ := State.retire_emits (tag := tag) hk he
  have hgone : s.roomFor (s.handed (tag, sl, es)) → (k.live + n = 0 ↔ s.goneBy (tag, sl, es)) := fun h => by
    rw [hroom h]
    simp [State.goneBy, he, hk]
  have hcollects : u.Collects (s.retire tag sl es) := by
    rw [hr]
    split
    · exact State.collects_releasePkt
    · exact .refl u
  have hctr : ∀ a, (s.retire tag sl es).ctr a = u.ctr a := fun a => by
    rw [hr]
    split
    · exact State.ctr_releasePkt
    · rfl
  have hstart : ∀ a, (s.leaveSlot tag sl).ctr a = if a = 0x85000 then s.ctr 0x85000 + 1 else s.ctr a := fun a => State.ctr_leaveSlot
  exact {
    leaves := (State.leaveSlot_result.1.trans hout.collects).trans hcollects
    retired := by rw [hctr, hout.retired, hstart]; rfl
    drops := by rw [hctr, hout.drops, hstart, if_neg he]; exact (BitVec.add_zero _).symm
    copies := by rw [hctr, hout.copies, hstart]; rfl
    queue := fun p c => by
      rw [← State.queueWith_leaveSlot (tag := tag) (sl := sl), ← hout.queue, hr]
      split
      · exact State.queue_releasePkt
      · rfl
    other := fun y hy => by
      rw [← State.pkts_leaveSlot (s := s) (tag := tag) (sl := sl), ← hout.other y hy, hr]
      split
      · rw [State.pkts_releasePkt, if_neg hy]
      · rfl
    gone := fun h hg => by rw [hr, if_pos ((hgone h).2 hg), State.pkts_releasePkt, if_pos rfl]
    stays := fun h hg => by rw [hr, if_neg fun e => hg ((hgone h).1 e), hn, hroom h]
    alloc := fun h c => by
      rw [hr, ← State.alloc_leaveSlot (s := s) (tag := tag) (sl := sl), ← hout.alloc]
      split
      · next e => simp [State.alloc_releasePkt, hn, (hgone h).1 e]
      · next e => exact (and_iff_left fun hg => absurd ((hgone h).2 hg) e).symm
    kept := fun h hg => by rw [hr, if_neg fun e => hg ((hgone h).1 e), hout.alloc, State.alloc_leaveSlot] }

theorem State.retired (hk : mfind s.trunk.pkts sl.cell = some k) : s.Retired (s.retire tag sl es) (tag, sl, es) k := by
  by_cases he : es = []
  · exact he ▸ State.retired_drop hk
  · exact State.retired_emits hk he

/-- What every retirement leaves of the trunk, also without a packet. -/
theorem State.retire_leaves : (s.modTrunk fun t => t.leave tag sl.dom s.hw).Collects (s.retire tag sl es) := by
  cases hk : mfind s.trunk.pkts sl.cell with
  | some k => exact (State.retired hk).leaves
  | none =>
    have e : s.retire tag sl es = s.leaveSlot tag sl := by
      unfold State.retire
      dsimp only
      rw [State.pkts_leaveSlot, hk]
    rw [e]
    exact State.leaveSlot_result.1

end Sys2Proof.Machine
end

section
/-!
PROOFS. Trunk cycles of retirement in which one domain alone has something to retire (O32): a single packet, or a head whose timeout
expires.
-/
namespace Sys2Proof.Machine

variable {s v : State} {tag d n : Nat} {sl : Slot} {late : Option Nat}

/-- The next trunk cycle of retirement. -/
theorem State.retirement_eq (h : s.beatReady 8 = true) : s.retirement = (s.beatOn 8).retireCycle none := by
  unfold State.retirement State.trunkTurn
  rw [if_pos h]

/-! ### Domains without a retirement -/

/-- Domain d retires nothing in this trunk cycle. -/
def State.Stuck (s : State) (late : Option Nat) (d : Nat) : Prop := ∀ n, s.retireDom late d n = (s, n)

/-- A domain whose head has no completion, and no timeout that expires in this cycle, retires nothing (R61, R63). -/
theorem State.stuck_of_head (h : ∀ tag sl, s.trunk.headSlot d = some (tag, sl) →
    sl.done = none ∧ ¬ (late = some d ∧ s.holDue d = true)) : s.Stuck late d := by
  intro n
  cases n with
  | zero => rfl
  | succ n =>
    unfold State.retireDom
    split
    · next tag sl hs =>
      obtain ⟨hdone, hlate⟩ := h tag sl hs
      rw [hdone]
      exact if_neg (by simpa using hlate)
    · rfl

theorem State.retireFrom_zero (ds : List Nat) : s.retireFrom late ds 0 = s := by
  cases ds with
  | nil => rfl
  | cons d ds => exact if_pos rfl

/-- Domains that retire nothing use nothing of the cycle's budget. -/
theorem State.retireFrom_stuck {ds es : List Nat} (h : ∀ d ∈ ds, s.Stuck late d) :
    s.retireFrom late (ds ++ es) n = s.retireFrom late es n := by
  induction ds with
  | nil => rfl
  | cons d ds ih =>
    have hd := h d (List.mem_cons_self ..) n
    rw [List.cons_append, State.retireFrom]
    split
    · next hn => rw [hn, State.retireFrom_zero]
    · rw [hd]
      dsimp only
      rw [if_neg (Nat.lt_irrefl n)]
      exact ih fun x hx => h x (List.mem_cons_of_mem _ hx)

/-! ### The turn of the domains -/

/-- The domain served last (R61). -/
def State.served (s : State) (d : Nat) : State := s.modTrunk fun t => { t with rot := d }

/-- The domains in the order in which a trunk cycle serves them (R61). -/
def turnFrom (rot : Nat) : List Nat := (upto 64).map fun i => (rot + 1 + i) % 64

theorem turnFrom_nodup (rot : Nat) : (turnFrom rot).Nodup := by
  refine List.Nodup.map_on (fun i hi j hj e => ?_) (List.nodup_range)
  simp only [upto, List.mem_range] at hi hj
  omega

theorem mem_turnFrom {rot : Nat} (h : d < 64) : d ∈ turnFrom rot := by
  unfold turnFrom
  simp only [List.mem_map, upto, List.mem_range]
  exact ⟨(d + 64 - (rot + 1) % 64) % 64, by omega, by omega⟩

/-- With a single domain that retires something, a trunk cycle is that domain's turn. -/
theorem State.retireCycle_alone (hd : d < 64) (hv : s.retireDom late d 8 = (v, n)) (hn : n < 8)
    (hs : ∀ x, x ≠ d → s.Stuck late x) (hu : ∀ x, x ≠ d → (v.served d).Stuck late x) :
    s.retireCycle late = v.served d := by
  obtain ⟨l, r, hl⟩ := List.append_of_mem (mem_turnFrom (rot := s.trunk.rot) hd)
  have hdup := turnFrom_nodup s.trunk.rot
  rw [hl, List.nodup_middle, List.nodup_cons, List.mem_append, not_or] at hdup
  obtain ⟨⟨hdl, hdr⟩, -⟩ := hdup
  show s.retireFrom late (turnFrom s.trunk.rot) 8 = _
  rw [hl, State.retireFrom_stuck fun x hx => hs x fun e => hdl (e ▸ hx), State.retireFrom, if_neg (by decide), hv]
  dsimp only
  rw [if_pos hn]
  show (v.served d).retireFrom late r n = _
  have := State.retireFrom_stuck (es := []) (n := n) (s := v.served d) (late := late) fun x hx => hu x fun e => hdr (e ▸ hx)
  rwa [List.append_nil] at this

/-! ### A single packet -/

/-- With a single slot, whose packet is complete and in sequence, a trunk cycle retires it and nothing else. -/
theorem State.retireCycle_single {es : List Emit} (hslots : s.trunk.slots = [(tag, sl)]) (hd : sl.dom < 64)
    (hq : sl.seq = (s.trunk.dom sl.dom).head) (hdone : sl.done = some es) :
    s.retireCycle none = (s.retire tag sl es).served sl.dom := by
  have hhead : s.trunk.headSlot sl.dom = some (tag, sl) := by
    unfold Trunk.headSlot
    simp [hslots, hq]
  have hempty : (s.retire tag sl es).trunk.slots = [] := by
    obtain ⟨a, b, e, k, ht⟩ := (State.retire_leaves (s := s) (tag := tag) (sl := sl) (es := es)).trunk
    rw [ht]
    show mdel s.trunk.slots tag = []
    simp [hslots, mdel]
  have hnone : ∀ u : State, u.trunk.slots = [] → ∀ x, u.Stuck none x := fun u hu x =>
    State.stuck_of_head fun tag sl h => by
      unfold Trunk.headSlot at h
      rw [hu] at h
      cases h
  refine State.retireCycle_alone (n := 7) hd ?_ (by decide) (fun x hx => State.stuck_of_head fun tag' sl' h => ?_)
    fun x _ => hnone ((s.retire tag sl es).served sl.dom) hempty x
  · unfold State.retireDom
    rw [hhead]
    dsimp only
    rw [hdone]
    exact hnone _ hempty _ 7
  · unfold Trunk.headSlot at h
    rw [hslots] at h
    have := List.find?_some h
    have hmem := List.mem_of_find?_eq_some h
    simp only [List.mem_singleton, Prod.mk.injEq] at hmem
    obtain ⟨-, rfl⟩ := hmem
    simp only [Bool.and_eq_true, decide_eq_true_eq] at this
    exact absurd this.1.symm hx

/-! ### A timeout -/

/-- The slots of a domain whose head is at a number. -/
theorem Trunk.headSlot_some {t : Trunk} (h : t.headSlot d = some (tag, sl)) :
    (tag, sl) ∈ t.slots ∧ sl.dom = d ∧ sl.seq = (t.dom d).head := by
  have hp := List.find?_some h
  simp only [Bool.and_eq_true, decide_eq_true_eq] at hp
  exact ⟨List.mem_of_find?_eq_some h, hp⟩

/-- A control event leaves the trunk, the time, the registers and the counters. -/
theorem State.event_keeps {i ev detail : Nat} {conts : List Word} : let u := s.event i ev detail conts
    u.trunk = s.trunk ∧ u.hw = s.hw ∧ u.regs = s.regs ∧ u.ctrs = s.ctrs := by
  have h := State.reports_event (s := s) (i := i) (ev := ev) (detail := detail) (conts := conts)
  exact ⟨h.trunk, by rw [h.rest], by rw [h.rest], State.event_ctrs⟩

theorem State.dropRecord_keeps {k : Packet} {dom seq reason eport : Nat} : let u := s.dropRecord k dom seq reason eport
    u.trunk = s.trunk ∧ u.hw = s.hw ∧ u.regs = s.regs ∧ u.ctrs = s.ctrs := by
  obtain ⟨l, e⟩ := State.dropRecord_eq (s := s) (k := k) (dom := dom) (seq := seq) (reason := reason) (eport := eport)
  rw [e]
  exact ⟨rfl, rfl, rfl, rfl⟩

/-- A packet that retires before its descriptor was issued leaves the issue queue; its cells are still to be released (log entry 79). -/
def Trunk.unissue (t : Trunk) (tag cell : Nat) : Trunk :=
  if t.issueQ.contains tag then { t with issueQ := t.issueQ.filter (fun x => x ≠ tag), lost := t.lost ++ [cell] } else t

theorem Trunk.unissue_keeps {t : Trunk} {cell : Nat} : (t.unissue tag cell).slots = t.slots ∧ (t.unissue tag cell).doms = t.doms ∧
    (t.unissue tag cell).pkts = t.pkts ∧ (t.unissue tag cell).alloc = t.alloc := by
  unfold Trunk.unissue
  split <;> exact ⟨rfl, rfl, rfl, rfl⟩

theorem Trunk.unissue_result {t : Trunk} {cell : Nat} :
    (t.unissue tag cell).issueQ = t.issueQ.filter (fun x => x ≠ tag) ∧
      (tag ∈ t.issueQ → (t.unissue tag cell).lost = t.lost ++ [cell]) ∧ (tag ∉ t.issueQ → (t.unissue tag cell).lost = t.lost) := by
  unfold Trunk.unissue
  by_cases h : tag ∈ t.issueQ
  · rw [if_pos (by simpa using h)]
    exact ⟨rfl, fun _ => rfl, fun hn => absurd h hn⟩
  · rw [if_neg (by simpa using h)]
    refine ⟨(List.filter_eq_self.2 fun x hx => ?_).symm, fun hn => absurd hn h, fun _ => rfl⟩
    exact decide_eq_true fun e => h (e ▸ hx)

/-- The head that retires at its timeout, before it is recorded. -/
def State.lateHead (s : State) (tag : Nat) (sl : Slot) : State :=
  (((s.leaveSlot tag sl).count 0x85008).count 0x85018).modTrunk fun t => t.unissue tag sl.cell

/-- The records of a retirement at the timeout leave the trunk, the time, the registers and the counters. -/
theorem State.retireLate_records : let u := s.retireLate tag sl
    let v := s.lateHead tag sl
    u.trunk = v.trunk ∧ u.hw = v.hw ∧ u.regs = v.regs ∧ u.ctrs = v.ctrs := by
  unfold State.retireLate
  dsimp only
  cases mfind s.trunk.pkts sl.cell with
  | none => exact State.event_keeps (s := s.lateHead tag sl)
  | some k =>
    obtain ⟨ht, hh, hr, hc⟩ := State.event_keeps (s := (s.lateHead tag sl).dropRecord k sl.dom sl.seq 1 0) (i := 3) (ev := 0x07)
      (detail := sl.dom * 2 ^ 22 + sl.seq * 2 ^ 6) (conts := [wordOf tag])
    obtain ⟨ht', hh', hr', hc'⟩ := State.dropRecord_keeps (s := s.lateHead tag sl) (k := k) (dom := sl.dom) (seq := sl.seq)
      (reason := 1) (eport := 0)
    exact ⟨ht.trans ht', hh.trans hh', hr.trans hr', hc.trans hc'⟩

theorem State.trunk_modTrunk {f : Trunk → Trunk} : (s.modTrunk f).trunk = f s.trunk := rfl

theorem State.ctr_modTrunk {f : Trunk → Trunk} {a : Nat} : (s.modTrunk f).ctr a = s.ctr a := rfl

/-- What a retirement at the timeout leaves (R63). -/
theorem State.retireLate_result : let u := s.retireLate tag sl
    u.trunk = (s.trunk.leave tag sl.dom s.hw).unissue tag sl.cell ∧ u.hw = s.hw ∧ u.regs = s.regs ∧
      u.ctr 0x85018 = s.ctr 0x85018 + 1 ∧ u.ctr 0x85008 = s.ctr 0x85008 + 1 ∧ u.ctr 0x85000 = s.ctr 0x85000 + 1 := by
  obtain ⟨hcollects, htrunk, -, -⟩ := State.leaveSlot_result (s := s) (tag := tag) (sl := sl)
  have hhw : (s.lateHead tag sl).hw = s.hw := by
    rw [State.lateHead, State.modTrunk_hw, State.count_hw, State.count_hw, hcollects.rest]
    rfl
  have hregs : (s.lateHead tag sl).regs = s.regs := by
    rw [State.lateHead, State.modTrunk_regs, State.count_regs, State.count_regs, hcollects.rest]
    rfl
  have hlate : (s.lateHead tag sl).trunk = (s.trunk.leave tag sl.dom s.hw).unissue tag sl.cell := by
    rw [State.lateHead, State.trunk_modTrunk, State.count_trunk, State.count_trunk, htrunk]
  have hctr : ∀ a, (s.lateHead tag sl).ctr a = if a = 0x85018 then s.ctr 0x85018 + 1 else if a = 0x85008 then s.ctr 0x85008 + 1
      else if a = 0x85000 then s.ctr 0x85000 + 1 else s.ctr a := fun a => by
    rw [State.lateHead, State.ctr_modTrunk, State.ctr_count, State.ctr_count, State.ctr_count, State.ctr_leaveSlot, State.ctr_leaveSlot, State.ctr_leaveSlot]
    rfl
  obtain ⟨ht, hh, hr, hc⟩ := State.retireLate_records (s := s) (tag := tag) (sl := sl)
  have hc' : ∀ a, (s.retireLate tag sl).ctr a = (s.lateHead tag sl).ctr a := fun a => congrArg (mget 0 · a) hc
  exact ⟨ht.trans hlate, hh.trans hhw, hr.trans hregs, (hc' _).trans (hctr _),
    (hc' _).trans (hctr _), (hc' _).trans (hctr _)⟩

/-- A head retires at its timeout in its domain's turn, and nothing else retires in a trunk cycle without completions (R63). -/
theorem State.retireCycle_late (hd : d < 64) (hs : s.trunk.headSlot d = some (tag, sl)) (hnone : ∀ x ∈ s.trunk.slots, x.2.done = none)
    (hdue : s.holDue d = true) : s.retireCycle (some d) = (s.retireLate tag sl).served d := by
  obtain ⟨htrunk, hhw, hregs, -⟩ := State.retireLate_result (s := s) (tag := tag) (sl := sl)
  obtain ⟨hmem, hdom, -⟩ := Trunk.headSlot_some hs
  have hslots : (s.retireLate tag sl).trunk.slots = mdel s.trunk.slots tag := by
    rw [htrunk, Trunk.unissue_keeps.1]
    rfl
  have hlate : ∀ x ∈ (s.retireLate tag sl).trunk.slots, x.2.done = none := fun x hx => by
    rw [hslots] at hx
    exact hnone x (mdel_sub tag hx)
  have hdue' : ¬ (s.retireLate tag sl).holDue d = true := by
    have hsince : ((s.retireLate tag sl).trunk.dom d).since = s.hw := by
      have hdoms := (Trunk.unissue_keeps (t := s.trunk.leave tag sl.dom s.hw) (tag := tag) (cell := sl.cell)).2.1
      rw [htrunk, ← hdom]
      show (mget ({} : Dom) _ sl.dom).since = _
      rw [hdoms]
      exact congrArg Dom.since (mget_mput_same _ _ _ _)
    have hreg : (s.retireLate tag sl).reg 0x8000C = s.reg 0x8000C := congrArg (mget 0 · 0x8000C) hregs
    unfold State.holDue
    rw [hsince, hhw, hreg]
    simp
  refine State.retireCycle_alone (n := 7) hd ?_ (by decide) (fun x hx => State.stuck_of_head fun tag' sl' h => ?_)
    fun x hx => State.stuck_of_head fun tag' sl' h => ?_
  · unfold State.retireDom
    rw [hs]
    dsimp only
    rw [hnone _ hmem]
    dsimp only
    rw [if_pos (by simp [hdue])]
    refine State.stuck_of_head (fun tag' sl' h => ⟨hlate _ (Trunk.headSlot_some h).1, fun hh => hdue' hh.2⟩) 7
  · exact ⟨hnone _ (Trunk.headSlot_some h).1, fun hh => hx (Option.some.inj hh.1).symm⟩
  · exact ⟨hlate _ (Trunk.headSlot_some h).1, fun hh => hx (Option.some.inj hh.1).symm⟩

end Sys2Proof.Machine
end

section
/-!
PROOFS. A trunk cycle of retirement in general (O32): the slots that retire are those that hold their completions in a row from the heads
of the domains, and what their retirements leave.
-/
namespace Sys2Proof.Machine

variable {s u v : State} {t : Trunk} {tag d q n : Nat} {sl : Slot}

/-- A slot that retires, with its tag and its emit list. -/
abbrev Retiree := Nat × Slot × List Emit

/-! ### Slots in a row -/

/-- Each tag names one slot at most. -/
def Trunk.oneSlotEach (t : Trunk) : Prop := ∀ x ∈ t.slots, ∀ y ∈ t.slots, x.1 = y.1 → x = y

/-- The slot in which a domain's packet of a number waits. -/
def Trunk.slotOf (t : Trunk) (d q : Nat) : Option (Nat × Slot) := t.slots.find? fun x => x.2.dom = d && x.2.seq = q

theorem Trunk.slotOf_some (h : t.slotOf d q = some (tag, sl)) : (tag, sl) ∈ t.slots ∧ sl.dom = d ∧ sl.seq = q := by
  have hp := List.find?_some h
  simp only [Bool.and_eq_true, decide_eq_true_eq] at hp
  exact ⟨List.mem_of_find?_eq_some h, hp⟩

theorem Trunk.inRow_none (h : t.slotOf d q = none) : t.inRow d q (n + 1) = [] := by
  unfold Trunk.inRow
  rw [Trunk.slotOf] at h
  rw [h]

theorem Trunk.inRow_waits (h : t.slotOf d q = some (tag, sl)) (hd : sl.done = none) : t.inRow d q (n + 1) = [] := by
  unfold Trunk.inRow
  rw [Trunk.slotOf] at h
  rw [h]
  dsimp only
  rw [hd]

theorem Trunk.inRow_done {es : List Emit} (h : t.slotOf d q = some (tag, sl)) (hd : sl.done = some es) :
    t.inRow d q (n + 1) = (tag, sl, es) :: t.inRow d ((q + 1) % 65536) n := by
  rw [Trunk.inRow]
  rw [Trunk.slotOf] at h
  rw [h]
  dsimp only
  rw [hd]

/-- The row is empty, or it begins with the slot of the number. -/
theorem Trunk.inRow_cases (t : Trunk) (d q n : Nat) : t.inRow d q (n + 1) = [] ∨
    ∃ tag sl es, t.slotOf d q = some (tag, sl) ∧ sl.done = some es ∧
      t.inRow d q (n + 1) = (tag, sl, es) :: t.inRow d ((q + 1) % 65536) n := by
  cases h : t.slotOf d q with
  | none => exact .inl (Trunk.inRow_none h)
  | some x =>
    cases hd : x.2.done with
    | none => exact .inl (Trunk.inRow_waits h hd)
    | some es => exact .inr ⟨x.1, x.2, es, rfl, hd, Trunk.inRow_done h hd⟩

theorem Trunk.dom_of_mem_inRow {x : Retiree} (h : x ∈ t.inRow d q n) : x.2.1.dom = d := by
  induction n generalizing q with
  | zero => cases h
  | succ n ih =>
    rcases Trunk.inRow_cases t d q n with e | ⟨tag, sl, es, hs, -, e⟩
    · rw [e] at h
      cases h
    · rw [e] at h
      rcases List.mem_cons.1 h with rfl | h
      · exact (Trunk.slotOf_some hs).2.1
      · exact ih h

theorem Trunk.inRow_take {m : Nat} (h : n ≤ m) : (t.inRow d q m).take n = t.inRow d q n := by
  induction n generalizing q m with
  | zero => simp [Trunk.inRow]
  | succ n ih =>
    obtain ⟨m, rfl⟩ : ∃ k, m = k + 1 := ⟨m - 1, by omega⟩
    cases hs : t.slotOf d q with
    | none => rw [Trunk.inRow_none hs, Trunk.inRow_none hs, List.take_nil]
    | some x =>
      cases hd : x.2.done with
      | none => rw [Trunk.inRow_waits hs hd, Trunk.inRow_waits hs hd, List.take_nil]
      | some es => rw [Trunk.inRow_done hs hd, Trunk.inRow_done hs hd, List.take_succ_cons, ih (by omega)]

/-! ### Other slots stay as one leaves -/

theorem mem_mdel {α : Type} {m : SMap α} {k : Nat} {e : Nat × α} : e ∈ mdel m k ↔ e ∈ m ∧ k ≠ e.1 := by
  induction m with
  | nil => simp [mdel]
  | cons x m ih =>
    rw [mdel]
    split
    · next hx =>
      rw [ih, List.mem_cons]
      refine ⟨fun h => ⟨.inr h.1, h.2⟩, fun h => ⟨h.1.resolve_left fun e => h.2 (e ▸ hx.symm), h.2⟩⟩
    · next hx =>
      rw [List.mem_cons, List.mem_cons, ih]
      refine ⟨fun h => h.elim (fun e => ⟨.inl e, fun hk => hx (by rw [hk, e])⟩) fun h => ⟨.inr h.1, h.2⟩,
        fun h => h.1.imp id fun hm => ⟨hm, h.2⟩⟩

/-- A search that no entry of a key meets finds the same without that key. -/
theorem find?_mdel {α : Type} {m : SMap α} {k : Nat} {p : Nat × α → Bool} (h : ∀ e ∈ m, e.1 = k → p e = false) :
    (mdel m k).find? p = m.find? p := by
  induction m with
  | nil => rfl
  | cons x m ih =>
    have hm := ih fun e he => h e (List.mem_cons_of_mem _ he)
    rw [mdel]
    split
    · next hx => rw [List.find?_cons, h x (List.mem_cons_self ..) hx, hm]
    · rw [List.find?_cons, List.find?_cons, hm]

theorem Trunk.slots_leave {hw : Nat} : (t.leave tag d hw).slots = mdel t.slots tag := rfl

theorem Trunk.oneSlotEach_leave {hw : Nat} (h : t.oneSlotEach) : (t.leave tag d hw).oneSlotEach :=
  fun x hx y hy => h x (mdel_sub tag hx) y (mdel_sub tag hy)

theorem Trunk.slotOf_leave {hw e r : Nat} (h : t.oneSlotEach) (hs : t.slotOf d q = some (tag, sl)) (hne : e = d → r ≠ q) :
    (t.leave tag d hw).slotOf e r = t.slotOf e r := by
  obtain ⟨hmem, hdom, hseq⟩ := Trunk.slotOf_some hs
  refine find?_mdel fun x hx hk => ?_
  obtain rfl := h x hx _ hmem hk
  dsimp only
  rw [hdom, hseq, Bool.and_eq_false_iff, decide_eq_false_iff_not, decide_eq_false_iff_not]
  by_cases he : d = e
  · exact .inr (hne he.symm).symm
  · exact .inl he

/-- The rows that do not come to the number of a slot stay as that slot leaves. -/
theorem Trunk.inRow_leave {hw e r : Nat} (h : t.oneSlotEach) (hs : t.slotOf d q = some (tag, sl))
    (hne : e = d → r < 65536 ∧ ∀ j, j < n → (r + j) % 65536 ≠ q) : (t.leave tag d hw).inRow e r n = t.inRow e r n := by
  induction n generalizing r with
  | zero => rfl
  | succ n ih =>
    have hfirst : (t.leave tag d hw).slotOf e r = t.slotOf e r := Trunk.slotOf_leave h hs fun he => by
      obtain ⟨hr, hj⟩ := hne he
      have := hj 0 (by omega)
      rwa [Nat.add_zero, Nat.mod_eq_of_lt hr] at this
    have hnext : (t.leave tag d hw).inRow e ((r + 1) % 65536) n = t.inRow e ((r + 1) % 65536) n := ih fun he => by
      obtain ⟨hr, hj⟩ := hne he
      refine ⟨Nat.mod_lt _ (by decide), fun j hjn => ?_⟩
      have := hj (j + 1) (by omega)
      rwa [Nat.mod_add_mod, Nat.add_assoc, Nat.add_comm 1 j]
    cases hs' : t.slotOf e r with
    | none => rw [Trunk.inRow_none hs', Trunk.inRow_none (hfirst.trans hs')]
    | some x =>
      cases hd : x.2.done with
      | none => rw [Trunk.inRow_waits hs' hd, Trunk.inRow_waits (hfirst.trans hs') hd]
      | some es => rw [Trunk.inRow_done hs' hd, Trunk.inRow_done (hfirst.trans hs') hd, hnext]

/-! ### The turns of the domains -/

/-- The slots that domain d has ready to retire, n at most (R61). -/
def Trunk.ready (t : Trunk) (d n : Nat) : List Retiree := t.inRow d (t.dom d).head n

theorem Trunk.inRow_of_slots {t t' : Trunk} (h : t'.slots = t.slots) : t'.inRow d q n = t.inRow d q n := by
  induction n generalizing q with
  | zero => rfl
  | succ n ih =>
    unfold Trunk.inRow
    rw [h]
    simp only [ih]

/-- The trunk keeps its slots and domains and serves from the same domain on. -/
theorem Trunk.ready_of_same {t t' : Trunk} (h : t'.slots = t.slots) (hd : t'.doms = t.doms) : t'.ready d n = t.ready d n := by
  unfold Trunk.ready Trunk.dom
  rw [hd, Trunk.inRow_of_slots h]

theorem Trunk.head_leave {hw e : Nat} :
    ((t.leave tag d hw).dom e).head = if e = d then ((t.dom d).head + 1) % 65536 else (t.dom e).head := by
  show (mget ({} : Dom) (mput _ _ _ _) e).head = _
  rw [mget_mput]
  split <;> rfl

/-- As the head of domain d leaves, the others keep what they have ready, and domain d has what followed the head. -/
theorem Trunk.ready_leave {hw : Nat} (h : t.oneSlotEach) (hs : t.slotOf d (t.dom d).head = some (tag, sl)) :
    (∀ e m, e ≠ d → (t.leave tag d hw).ready e m = t.ready e m) ∧
      ∀ m, m < 8 → (t.leave tag d hw).ready d m = t.inRow d (((t.dom d).head + 1) % 65536) m := by
  refine ⟨fun e m he => ?_, fun m hm => ?_⟩ <;> unfold Trunk.ready <;> rw [Trunk.head_leave]
  · rw [if_neg he]
    exact Trunk.inRow_leave h hs fun e' => absurd e' he
  · rw [if_pos rfl]
    exact Trunk.inRow_leave h hs fun _ => ⟨by omega, fun j hj => by omega⟩

/-- u is s after these retirements, in this order, with domains marked as served last on the way (R61). -/
inductive State.Retires : State → List Retiree → State → Prop
  | nil (s : State) : Retires s [] s
  | retire {s u : State} (x : Retiree) {row : List Retiree} : Retires (s.retire x.1 x.2.1 x.2.2) row u → Retires s (x :: row) u
  | turn {s u : State} (d : Nat) {row : List Retiree} : Retires (s.served d) row u → Retires s row u

theorem State.Retires.append {r r' : List Retiree} (a : s.Retires r u) (b : u.Retires r' v) : s.Retires (r ++ r') v := by
  induction a with
  | nil s => exact b
  | retire x _ ih => exact .retire x (ih b)
  | turn d _ ih => exact .turn d (ih b)

/-- The slots and domains after a retirement, as the head leaves them. -/
theorem State.retire_slots {es : List Emit} : (s.retire tag sl es).trunk.slots = (s.trunk.leave tag sl.dom s.hw).slots ∧
    (s.retire tag sl es).trunk.doms = (s.trunk.leave tag sl.dom s.hw).doms ∧ (s.retire tag sl es).trunk.rot = s.trunk.rot := by
  obtain ⟨a, b, e, k, ht⟩ := (State.retire_leaves (s := s) (tag := tag) (sl := sl) (es := es)).trunk
  rw [ht]
  exact ⟨rfl, rfl, rfl⟩

/-- What a domain's turn, with a budget of n, does (R61). -/
structure State.DomTurn (s u : State) (d n : Nat) : Prop where
  retires : s.Retires (s.trunk.ready d n) u
  slots : u.trunk.oneSlotEach
  others : ∀ e m, e ≠ d → u.trunk.ready e m = s.trunk.ready e m
  rot : u.trunk.rot = s.trunk.rot

theorem State.retireDom_turn (hn : n ≤ 8) (h : s.trunk.oneSlotEach) :
    s.DomTurn (s.retireDom none d n).1 d n ∧ (s.retireDom none d n).2 = n - (s.trunk.ready d n).length := by
  induction n generalizing s with
  | zero => exact ⟨⟨.nil s, h, fun _ _ _ => rfl, rfl⟩, rfl⟩
  | succ n ih =>
    have hstop : s.trunk.ready d (n + 1) = [] → s.DomTurn s d (n + 1) ∧ n + 1 = n + 1 - (s.trunk.ready d (n + 1)).length := fun e =>
      ⟨⟨by rw [e]; exact .nil s, h, fun _ _ _ => rfl, rfl⟩, by rw [e]; rfl⟩
    unfold State.retireDom
    cases hs : s.trunk.headSlot d with
    | none => exact hstop (Trunk.inRow_none hs)
    | some x =>
      obtain ⟨tag, sl⟩ := x
      dsimp only
      cases hd : sl.done with
      | none => exact hstop (Trunk.inRow_waits hs hd)
      | some es =>
        obtain rfl : sl.dom = d := (Trunk.headSlot_some hs).2.1
        obtain ⟨hslots, hdoms, hrot⟩ := State.retire_slots (s := s) (tag := tag) (sl := sl) (es := es)
        obtain ⟨hothers, hnext⟩ := Trunk.ready_leave (hw := s.hw) h hs
        have hone : (s.retire tag sl es).trunk.oneSlotEach := by
          rw [Trunk.oneSlotEach, hslots]
          exact Trunk.oneSlotEach_leave h
        have hready : s.trunk.ready sl.dom (n + 1) = (tag, sl, es) :: (s.retire tag sl es).trunk.ready sl.dom n := by
          rw [Trunk.ready_of_same hslots hdoms, hnext n (by omega)]
          exact Trunk.inRow_done hs hd
        obtain ⟨hturn, hleft⟩ := ih (by omega) hone
        refine ⟨⟨?_, hturn.slots, fun e m he => ?_, hturn.rot.trans hrot⟩, ?_⟩
        · rw [hready]
          exact .retire _ hturn.retires
        · rw [hturn.others e m he, Trunk.ready_of_same hslots hdoms, hothers e m he]
        · dsimp only
          rw [hleft, hready, List.length_cons, Nat.add_sub_add_right]

theorem Trunk.ready_take {b : Nat} (h : b ≤ 8) : (t.ready d 8).take b = t.ready d b := Trunk.inRow_take h

/-- The domain served last: that of the last retirement (R61). -/
def lastServed (rot : Nat) (row : List Retiree) : Nat := (row.getLast?.map fun x => x.2.1.dom).getD rot

theorem lastServed_append {rot : Nat} {r r' : List Retiree} : lastServed rot (r ++ r') = lastServed (lastServed rot r) r' := by
  unfold lastServed
  rw [List.getLast?_append]
  cases r'.getLast? <;> rfl

/-- The mark of a domain's turn: it was served when something retired. -/
theorem State.DomTurn.mark (h : s.DomTurn u d n) {b : Nat} (hb : b = n - (s.trunk.ready d n).length) (hn : (s.trunk.ready d n).length ≤ n) :
    let v := if b < n then u.served d else u
    s.Retires (s.trunk.ready d n) v ∧ v.trunk.slots = u.trunk.slots ∧ v.trunk.doms = u.trunk.doms ∧
      v.trunk.rot = lastServed s.trunk.rot (s.trunk.ready d n) := by
  dsimp only
  split
  · next hlt =>
    have hne : s.trunk.ready d n ≠ [] := fun e => by simp [e] at hb; omega
    refine ⟨?_, rfl, rfl, ?_⟩
    · have := h.retires.append (.turn d (.nil (u.served d)))
      rwa [List.append_nil] at this
    · obtain ⟨x, hx⟩ := Option.isSome_iff_exists.1 (List.getLast?_isSome.2 hne)
      show d = _
      rw [lastServed, hx]
      exact (Trunk.dom_of_mem_inRow (List.mem_of_getLast? hx)).symm
  · next hge =>
    have he : s.trunk.ready d n = [] := List.length_eq_zero_iff.1 (by omega)
    refine ⟨h.retires, rfl, rfl, ?_⟩
    rw [h.rot, he]
    rfl

theorem Trunk.length_inRow_le : (t.inRow d q n).length ≤ n := by
  induction n generalizing q with
  | zero => exact Nat.le_refl _
  | succ n ih =>
    rcases Trunk.inRow_cases t d q n with e | ⟨tag, sl, es, -, -, e⟩
    · rw [e]
      exact Nat.zero_le _
    · rw [e]
      exact Nat.succ_le_succ ih

/-- What the domains' turns in one trunk cycle retire: what each has ready, within the budget (R61). -/
theorem State.retireFrom_turns {ds : List Nat} {b : Nat} (hds : ds.Nodup) (hb : b ≤ 8) (h : s.trunk.oneSlotEach) :
    s.Retires ((ds.flatMap fun d => s.trunk.ready d 8).take b) (s.retireFrom none ds b) ∧
      (s.retireFrom none ds b).trunk.rot = lastServed s.trunk.rot ((ds.flatMap fun d => s.trunk.ready d 8).take b) := by
  induction ds generalizing s b with
  | nil => exact ⟨by simpa using .nil s, by simp [State.retireFrom, lastServed]⟩
  | cons d ds ih =>
    by_cases h0 : b = 0
    · subst h0
      rw [State.retireFrom_zero]
      exact ⟨.nil s, rfl⟩
    · obtain ⟨hnot, hnd⟩ := List.nodup_cons.1 hds
      obtain ⟨hturn, hleft⟩ := State.retireDom_turn (d := d) hb h
      obtain ⟨hret, hslots, hdoms, hrot⟩ := hturn.mark hleft Trunk.length_inRow_le
      generalize hv : (if (s.retireDom none d b).2 < b then (s.retireDom none d b).1.served d else (s.retireDom none d b).1) = v
        at hret hslots hdoms hrot
      have hstep : s.retireFrom none (d :: ds) b = v.retireFrom none ds (s.retireDom none d b).2 := by
        rw [State.retireFrom, if_neg h0, ← hv]
        rfl
      have hone : v.trunk.oneSlotEach := by
        rw [Trunk.oneSlotEach, hslots]
        exact hturn.slots
      have hrest : (ds.flatMap fun d => v.trunk.ready d 8) = ds.flatMap fun d => s.trunk.ready d 8 :=
        List.flatMap_congr fun e he => by
          rw [Trunk.ready_of_same hslots hdoms, hturn.others e 8 fun h' => hnot (h' ▸ he)]
      have hrow : ((d :: ds).flatMap fun d => s.trunk.ready d 8).take b =
          s.trunk.ready d b ++ (ds.flatMap fun d => s.trunk.ready d 8).take (s.retireDom none d b).2 := by
        rw [List.flatMap_cons, List.take_append, Trunk.ready_take hb, hleft, ← Trunk.ready_take hb, List.length_take]
        congr 2
        omega
      obtain ⟨hr, hl⟩ := ih (b := (s.retireDom none d b).2) hnd (by omega) hone
      rw [hrest] at hr hl
      rw [hstep, hrow]
      exact ⟨hret.append hr, by rw [hl, hrot, lastServed_append]⟩

theorem Trunk.retiring_eq : t.retiring = ((turnFrom t.rot).flatMap fun d => t.ready d 8).take 8 := by
  unfold Trunk.retiring turnFrom
  rw [List.flatMap_map]
  rfl

/-- A trunk cycle retires what its trunk has retiring (R61). -/
theorem State.retireCycle_retires (h : s.trunk.oneSlotEach) : s.Retires s.trunk.retiring (s.retireCycle none) ∧
    (s.retireCycle none).trunk.rot = lastServed s.trunk.rot s.trunk.retiring := by
  rw [Trunk.retiring_eq]
  exact State.retireFrom_turns (turnFrom_nodup _) (Nat.le_refl _) h

end Sys2Proof.Machine
end

section
/-!
PROOFS. What the retirements of a trunk cycle leave in all, and the theorem that settles O32.
-/
namespace Sys2Proof.Machine

variable {s u v : State} {tag d : Nat} {sl : Slot} {k : Packet} {row : List Retiree}

/-! ### Slots and heads -/

/-- The head of domain d after n of its packets have left (R35, R61). -/
def headAfter (head n : Nat) : Nat := if n = 0 then head else (head + n) % 65536

theorem headAfter_succ {head n : Nat} : headAfter ((head + 1) % 65536) n = headAfter head (n + 1) := by
  unfold headAfter
  split <;> simp <;> omega

theorem State.Retires.slots (h : s.Retires row u) :
    ∀ y, y ∈ u.trunk.slots ↔ y ∈ s.trunk.slots ∧ ∀ x ∈ row, x.1 ≠ y.1 := by
  intro y
  induction h with
  | nil s => simp
  | retire x _ ih =>
    rw [ih, State.retire_slots.1, Trunk.slots_leave, mem_mdel, List.forall_mem_cons, and_assoc]
  | turn d _ ih => exact ih

theorem State.Retires.head (h : s.Retires row u) :
    (u.trunk.dom d).head = headAfter (s.trunk.dom d).head (row.filter fun x => x.2.1.dom = d).length := by
  induction h with
  | nil s => rfl
  | @retire s u x row _ ih =>
    have hx : ((s.retire x.1 x.2.1 x.2.2).trunk.dom d).head = ((s.trunk.leave x.1 x.2.1.dom s.hw).dom d).head :=
      congrArg (fun m => (mget ({} : Dom) m d).head) State.retire_slots.2.1
    rw [ih, hx, Trunk.head_leave, List.filter_cons]
    by_cases he : d = x.2.1.dom
    · subst he
      simp only [if_true, decide_true, List.length_cons]
      exact headAfter_succ
    · rw [if_neg he, if_neg (by simpa using Ne.symm he)]
  | turn d _ ih => exact ih

/-! ### A retirement and the packets in other cells -/

theorem State.Retired.handed_other {x y : Retiree} (h : s.Retired u x k) (hne : y.2.1.cell ≠ x.2.1.cell) : u.handed y = s.handed y := by
  unfold State.handed
  rw [h.other _ hne]
  have hst : ∀ p, (u.port p).st = (s.port p).st := h.leaves.port
  simp only [hst]

theorem State.Retired.goneBy_other {x y : Retiree} (h : s.Retired u x k) (hne : y.2.1.cell ≠ x.2.1.cell) : u.goneBy y ↔ s.goneBy y := by
  unfold State.goneBy
  rw [h.other _ hne, h.handed_other hne]

theorem State.Retired.cellsOf_other {x : Retiree} {c : Nat} (h : s.Retired u x k) (hne : c ≠ x.2.1.cell) : u.cellsOf c = s.cellsOf c := by
  unfold State.cellsOf
  rw [h.other _ hne]

theorem State.Retired.qlim {x : Retiree} (h : s.Retired u x k) : u.qlim = s.qlim := h.leaves.qlim

/-! ### All retirements -/

/-- u is s after these retirements, whose packets are in cells of their own (R58, R61). -/
structure State.RowRetired (s u : State) (row : List Retiree) : Prop where
  retired : u.ctr 0x85000 = s.ctr 0x85000 + BitVec.ofNat 64 row.length
  drops : u.ctr 0x85008 = s.ctr 0x85008 + BitVec.ofNat 64 (row.filter fun x => x.2.2 = []).length
  copies : u.ctr 0x85010 = s.ctr 0x85010 + BitVec.ofNat 64 (row.flatMap s.handed).length
  queue : ∀ p c, (u.port p).queue c = s.queueWith (row.flatMap s.handed) p c
  other : ∀ y, (∀ x ∈ row, y ≠ x.2.1.cell) → mfind u.trunk.pkts y = mfind s.trunk.pkts y
  gone : s.roomFor (row.flatMap s.handed) → ∀ x ∈ row, s.goneBy x → mfind u.trunk.pkts x.2.1.cell = none
  stays : s.roomFor (row.flatMap s.handed) → ∀ x ∈ row, ¬ s.goneBy x → ∀ k, mfind s.trunk.pkts x.2.1.cell = some k →
    mfind u.trunk.pkts x.2.1.cell = some { k with live := k.live + (s.handed x).length }
  alloc : s.roomFor (row.flatMap s.handed) → ∀ c, c ∈ u.trunk.alloc ↔
    c ∈ s.trunk.alloc ∧ ∀ x ∈ row, s.goneBy x → c ∉ s.cellsOf x.2.1.cell

theorem State.RowRetired.nil (s : State) : s.RowRetired s [] where
  retired := (BitVec.add_zero _).symm
  drops := (BitVec.add_zero _).symm
  copies := (BitVec.add_zero _).symm
  queue p c := by simp [State.queueWith]
  other _ _ := rfl
  gone _ x hx := by cases hx
  stays _ x hx := by cases hx
  alloc _ c := by simp

/-- The domain served last plays no part in what a retirement does. -/
theorem State.RowRetired.of_served (h : (s.served d).RowRetired u row) : s.RowRetired u row :=
  ⟨h.retired, h.drops, h.copies, h.queue, h.other, h.gone, h.stays, h.alloc⟩

theorem State.RowRetired.cons {x : Retiree} (hk : mfind s.trunk.pkts x.2.1.cell = some k) (hx : s.Retired u x k)
    (hne : ∀ y ∈ row, y.2.1.cell ≠ x.2.1.cell) (h : u.RowRetired v row) : s.RowRetired v (x :: row) := by
  have hhanded : (x :: row).flatMap s.handed = s.handed x ++ row.flatMap u.handed := by
    rw [List.flatMap_cons]
    exact congrArg _ (List.flatMap_congr fun y hy => (hx.handed_other (hne y hy)).symm)
  have hroom : s.roomFor ((x :: row).flatMap s.handed) → s.roomFor (s.handed x) ∧ u.roomFor (row.flatMap u.handed) := fun hr =>
    State.roomFor_append hx.qlim hx.queue (hhanded ▸ hr)
  have hcell : mfind v.trunk.pkts x.2.1.cell = mfind u.trunk.pkts x.2.1.cell := h.other _ fun y hy => (hne y hy).symm
  exact {
    retired := by rw [h.retired, hx.retired, List.length_cons, Nat.add_comm, BitVec.ofNat_add, BitVec.add_assoc]; rfl
    drops := by
      rw [h.drops, hx.drops, List.filter_cons]
      by_cases he : x.2.2 = []
      · rw [if_pos he, if_pos (by simpa using he), List.length_cons, Nat.add_comm, BitVec.ofNat_add, BitVec.add_assoc]
        rfl
      · rw [if_neg he, if_neg (by simpa using he)]
        exact congrArg (· + _) (BitVec.add_zero _)
    copies := by rw [h.copies, hx.copies, hhanded, List.length_append, BitVec.ofNat_add, BitVec.add_assoc]
    queue := fun p c => by rw [h.queue, hhanded, State.queueWith_append hx.qlim hx.queue]
    other := fun y hy => by
      obtain ⟨hyx, hrow⟩ := List.forall_mem_cons.1 hy
      rw [h.other y hrow, hx.other y hyx]
    gone := fun hr => by
      obtain ⟨hr, hrr⟩ := hroom hr
      exact List.forall_mem_cons.2 ⟨fun hg => by rw [hcell, hx.gone hr hg],
        fun y hy hg => h.gone hrr y hy ((hx.goneBy_other (hne y hy)).2 hg)⟩
    stays := fun hr => by
      obtain ⟨hr, hrr⟩ := hroom hr
      refine List.forall_mem_cons.2 ⟨fun hg k' hk' => ?_, fun y hy hg k' hk' => ?_⟩
      · obtain rfl := Option.some.inj (hk.symm.trans hk')
        rw [hcell, hx.stays hr hg]
      · rw [← hx.handed_other (hne y hy)]
        exact h.stays hrr y hy (fun hg' => hg ((hx.goneBy_other (hne y hy)).1 hg')) k' ((hx.other _ (hne y hy)).trans hk')
    alloc := fun hr c => by
      obtain ⟨hr, hrr⟩ := hroom hr
      have hrest : (∀ y ∈ row, u.goneBy y → c ∉ u.cellsOf y.2.1.cell) ↔ ∀ y ∈ row, s.goneBy y → c ∉ s.cellsOf y.2.1.cell :=
        forall₂_congr fun y hy => by rw [hx.goneBy_other (hne y hy), hx.cellsOf_other (hne y hy)]
      have hown : s.cellsOf x.2.1.cell = k.cells := by
        unfold State.cellsOf
        rw [hk]
      rw [h.alloc hrr, hx.alloc hr, hrest, List.forall_mem_cons, hown, and_assoc] }

theorem State.Retires.result (h : s.Retires row u) (hnd : (row.map fun x => x.2.1.cell).Nodup)
    (hpk : ∀ x ∈ row, (mfind s.trunk.pkts x.2.1.cell).isSome = true) : s.RowRetired u row := by
  induction h with
  | nil s => exact .nil s
  | @retire s u x row _ ih =>
    obtain ⟨hx, hrow⟩ := List.forall_mem_cons.1 hpk
    obtain ⟨hnot, hnd⟩ := List.nodup_cons.1 hnd
    obtain ⟨k, hk⟩ := Option.isSome_iff_exists.1 hx
    have hret : s.Retired (s.retire x.1 x.2.1 x.2.2) x k := State.retired hk
    have hne : ∀ y ∈ row, y.2.1.cell ≠ x.2.1.cell := fun y hy e => hnot (List.mem_map.2 ⟨y, hy, e⟩)
    exact .cons hk hret hne (ih hnd fun y hy => by rw [hret.other _ (hne y hy)]; exact hrow y hy)
  | turn d _ ih => exact .of_served (ih hnd hpk)

/-! ### The trunk cycle in the model -/

/-- The next trunk cycle retires what the trunk has retiring, and nothing else (R61). -/
theorem State.retirement_retires (h : s.beatReady 8 = true) (hone : s.trunk.oneSlotEach) :
    (s.beatOn 8).Retires s.trunk.retiring s.retirement ∧ s.retirement.trunk.rot = lastServed s.trunk.rot s.trunk.retiring := by
  rw [State.retirement_eq h]
  exact State.retireCycle_retires (s := s.beatOn 8) hone

section
variable {es : List Emit}

/-- A single slot whose packet is complete and in sequence retires in the next trunk cycle (R61). -/
theorem State.retirement_single (h : s.beatReady 8 = true) (hslots : s.trunk.slots = [(tag, sl)]) (hd : sl.dom < 64)
    (hq : sl.seq = (s.trunk.dom sl.dom).head) (hdone : sl.done = some es) :
    s.retirement = ((s.beatOn 8).retire tag sl es).served sl.dom ∧ s.retirement.trunk.slots = [] ∧
      (s.retirement.trunk.dom sl.dom).head = (sl.seq + 1) % 65536 := by
  have e := (State.retirement_eq h).trans (State.retireCycle_single (s := s.beatOn 8) hslots hd hq hdone)
  obtain ⟨hsl, hdoms, -⟩ := State.retire_slots (s := s.beatOn 8) (tag := tag) (sl := sl) (es := es)
  refine ⟨e, ?_, ?_⟩ <;> rw [e]
  · refine hsl.trans ((congrArg (mdel · tag) hslots).trans ?_)
    simp [mdel]
  · refine (congrArg (fun m => (mget ({} : Dom) m sl.dom).head) hdoms).trans ?_
    refine Trunk.head_leave.trans ?_
    rw [if_pos rfl, hq]
    rfl

theorem Released.of_same {cell : Nat} (h : Released v u k cell) (ha : v.trunk.alloc = s.trunk.alloc)
    (hu : (v.port k.port).used = (s.port k.port).used) : Released s u k cell := by
  unfold Released at h ⊢
  rwa [ha, hu] at h

/-- A drop frees its packet's cells (R61). -/
theorem State.retirement_drop (h : s.beatReady 8 = true) (hslots : s.trunk.slots = [(tag, sl)]) (hd : sl.dom < 64)
    (hq : sl.seq = (s.trunk.dom sl.dom).head) (hk : mfind s.trunk.pkts sl.cell = some k) (hdone : sl.done = some []) :
    Released s s.retirement k sl.cell ∧ s.retirement.ctr 0x85000 = s.ctr 0x85000 + 1 ∧
      s.retirement.ctr 0x85008 = s.ctr 0x85008 + 1 := by
  have hret : (s.beatOn 8).Retired _ _ k := State.retired_drop (tag := tag) hk
  rw [(State.retirement_single h hslots hd hq hdone).1]
  refine ⟨?_, hret.retired, hret.drops⟩
  rw [State.retire_drop (s := s.beatOn 8) hk]
  obtain ⟨-, htrunk, -, hport⟩ := State.leaveSlot_result (s := s.beatOn 8) (tag := tag) (sl := sl)
  generalize (s.beatOn 8).leaveSlot tag sl = w at htrunk hport
  have ht : ((w.count 0x85008).dropRecord k sl.dom sl.seq 0 0).trunk = s.trunk.leave tag sl.dom s.hw := State.trunk_dropRecord.trans htrunk
  refine Released.of_same (State.releasePkt_released (by rw [ht]; exact hk)) (by rw [ht]; rfl) ?_
  · obtain ⟨n, e⟩ := hport k.port
    rw [State.port_dropRecord]
    show (w.port k.port).used = _
    rw [e]
    rfl

/-- A copy that its queue has room for stands at its end, and its packet stays (R58, R61). -/
theorem State.retirement_copy {e : Emit} (h : s.beatReady 8 = true) (hslots : s.trunk.slots = [(tag, sl)]) (hd : sl.dom < 64)
    (hq : sl.seq = (s.trunk.dom sl.dom).head) (hk : mfind s.trunk.pkts sl.cell = some k) (hdone : sl.done = some [e])
    (ht : s.takesEmit k e = true) (hroom : ((s.port e.port).queue e.cls).length < s.qlim e.port e.cls) :
    s.retirement.ctr 0x85010 = s.ctr 0x85010 + 1 ∧ s.retirement.trunk.alloc = s.trunk.alloc ∧
      mfind s.retirement.trunk.pkts sl.cell = some { k with live := k.live + 1 } ∧
      (s.retirement.port e.port).queue e.cls = (s.port e.port).queue e.cls ++ [k.copy sl.cell sl.dom sl.seq e] := by
  have hh : s.handed (tag, sl, [e]) = [k.copy sl.cell sl.dom sl.seq e] := by
    rw [State.handed_eq hk, List.filter_cons, if_pos ht]
    rfl
  have hfits : s.roomFor (s.handed (tag, sl, [e])) := fun p c => by
    rw [hh, List.filter_cons]
    split
    · next hpc =>
      simp only [Bool.and_eq_true, decide_eq_true_eq] at hpc
      obtain ⟨rfl, rfl⟩ := hpc
      have : ((s.port e.port).queue e.cls).length < s.qlim e.port e.cls := hroom
      show 1 ≤ s.qlim e.port e.cls - ((s.port e.port).queue e.cls).length
      omega
    · exact Nat.zero_le _
  have hstays : ¬ s.goneBy (tag, sl, [e]) := by
    rintro (hnil | ⟨-, -, -, hnone⟩)
    · cases hnil
    · rw [hh] at hnone
      cases hnone
  have hret : (s.beatOn 8).Retired _ _ k := State.retired (tag := tag) (es := [e]) hk
  rw [(State.retirement_single h hslots hd hq hdone).1]
  refine ⟨?_, hret.kept hfits hstays, ?_, ?_⟩
  · exact hret.copies.trans (congrArg (fun l : List Copy => s.ctr 0x85010 + BitVec.ofNat 64 l.length) hh)
  · exact (hret.stays hfits hstays).trans (congrArg (fun l : List Copy => some { k with live := k.live + l.length }) hh)
  · refine (hret.queue e.port e.cls).trans ((congrArg (s.queueWith · e.port e.cls) hh).trans ?_)
    rw [State.queueWith_one, if_pos ⟨rfl, rfl, hroom⟩]

end

/-- The trunk cycle in which a head's timeout expires, without completions (R63). -/
theorem State.holTimeout_result (hd : d < 64) (h : s.beatReady 8 = true) (hs : s.trunk.headSlot d = some (tag, sl))
    (hnone : ∀ x ∈ s.trunk.slots, x.2.done = none) (hlim : (s.reg 0x8000C).toNat % 65536 ≠ 0)
    (hdue : (s.trunk.dom d).since + (s.reg 0x8000C).toNat % 65536 * 128 ≤ s.hw) :
    s.holTimeout d = ((s.beatOn 8).retireLate tag sl).served d := by
  have hdue : s.holDue d = true := by
    unfold State.holDue fld
    simp [hdue, hlim]
  unfold State.holTimeout State.trunkTurn
  rw [hs, if_pos h]
  dsimp only
  rw [hnone _ (Trunk.headSlot_some hs).1, hdue, if_pos (by decide)]
  exact State.retireCycle_late (s := s.beatOn 8) hd hs hnone hdue

theorem State.holTimeout_keeps (hd : d < 64) (h : s.beatReady 8 = true) (hs : s.trunk.headSlot d = some (tag, sl))
    (hnone : ∀ x ∈ s.trunk.slots, x.2.done = none) (hlim : (s.reg 0x8000C).toNat % 65536 ≠ 0)
    (hdue : (s.trunk.dom d).since + (s.reg 0x8000C).toNat % 65536 * 128 ≤ s.hw) :
    (s.holTimeout d).trunk = { (s.trunk.leave tag d s.hw).unissue tag sl.cell with rot := d } ∧
      ∀ a, (s.holTimeout d).ctr a = ((s.beatOn 8).retireLate tag sl).ctr a := by
  rw [State.holTimeout_result hd h hs hnone hlim hdue, ← (Trunk.headSlot_some hs).2.1]
  exact ⟨congrArg (fun t : Trunk => { t with rot := sl.dom }) (State.retireLate_result (s := s.beatOn 8)).1, fun a => rfl⟩

/-- A stale completion in a state that has the trunk, counters and ports of s. -/
theorem State.acceptComp_stale_from {c : Completion} (h : ¬ s.trunk.expects c) (ht : u.trunk = s.trunk) (hc : u.ctrs = s.ctrs)
    (hp : u.ports = s.ports) : (u.acceptComp c).groves = u.groves ∧ (u.acceptComp c).trunk.slots = s.trunk.slots ∧
      (u.acceptComp c).ctr 0x85020 = s.ctr 0x85020 + 1 ∧
      (∀ k, mfind s.trunk.pkts c.cell = some k → Released s (u.acceptComp c) k c.cell) ∧
      (mfind s.trunk.pkts c.cell = none →
        (u.acceptComp c).trunk.alloc = s.trunk.alloc ∧ (u.acceptComp c).trunk.pkts = s.trunk.pkts) := by
  rw [← ht] at h ⊢
  obtain ⟨hslots, hctr, hgroves, hrel, hnone⟩ := State.acceptComp_stale_result h
  refine ⟨hgroves, hslots, hctr.trans (congrArg (mget 0 · _ + 1) hc), fun k hk => ?_, hnone⟩
  exact (hrel k hk).of_same (by rw [ht]) (congrArg (fun m => (mget ({} : Port) m k.port).used) hp)

/-- Settles O32. A trunk cycle's retirements are those of the slots in a row from the heads of the domains, one after the other
(`State.retireCycle_retires`), and each leaves the packets in other cells as they are (`State.RowRetired.cons`). -/
theorem collectorResults : Obligations.CollectorResults := by
  intro g s tag sl v stale
  refine ⟨fun c left rest hcq hlane => ?_, fun k hb hslots hd hq hk => ⟨fun hdone => ⟨_, rfl, ?_⟩,
    fun e hdone hfit hov hup hroom => ⟨_, rfl, ?_⟩⟩, ?_, fun d hb hs hnone hlim hdue => ⟨_, rfl, ?_⟩⟩
  · obtain ⟨u, ⟨htrunk, hctrs, hports⟩, hlane', hmore, hlast⟩ := State.acceptEntry_cases hcq hlane
    refine ⟨fun hleft => ⟨_, rfl, ?_⟩, fun hleft => ⟨fun ht hsl hd hq => ⟨_, rfl, ?_⟩, fun hsl => ⟨_, rfl, ?_⟩,
      fun ht hsl hne => ⟨_, rfl, ?_⟩⟩⟩
    · obtain ⟨e, hcq'⟩ := hmore hleft
      rw [e]
      exact ⟨hcq', hlane', htrunk⟩
    · subst ht
      obtain ⟨e, hcq'⟩ := hlast hleft
      rw [e, State.acceptComp_records (by rw [htrunk]; exact hsl) hd hq]
      exact ⟨hcq', hlane', mfind_mins_same _ _ _, (rfl : _ = u.trunk.alloc).trans (by rw [htrunk])⟩
    · obtain ⟨e, hcq'⟩ := hlast hleft
      obtain ⟨hgroves, hst⟩ := State.acceptComp_stale_from (by rintro ⟨sl', h, -⟩; cases hsl.symm.trans h) htrunk hctrs hports
      rw [e]
      exact ⟨(congrArg (fun m => (mget ({} : Grove) m g.val).cq) hgroves).trans hcq', hst⟩
    · subst ht
      obtain ⟨e, hcq'⟩ := hlast hleft
      have hother : ¬ s.trunk.expects c := by
        rintro ⟨sl', h, hd, hq⟩
        obtain rfl := Option.some.inj (hsl.symm.trans h)
        exact hne.elim (· hd) (· hq)
      obtain ⟨hgroves, hst⟩ := State.acceptComp_stale_from hother htrunk hctrs hports
      rw [e]
      exact ⟨(congrArg (fun m => (mget ({} : Grove) m g.val).cq) hgroves).trans hcq', hst⟩
  · obtain ⟨-, hslots', hhead⟩ := State.retirement_single hb hslots hd hq hdone
    obtain ⟨hrel, hretired, hdrops⟩ := State.retirement_drop hb hslots hd hq hk hdone
    exact ⟨hslots', hrel, hhead, hretired, hdrops⟩
  · obtain ⟨-, hslots', hhead⟩ := State.retirement_single hb hslots hd hq hdone
    have htakes : s.takesEmit k e = true := by simp [State.takesEmit, hfit, hov, hup]
    obtain ⟨hcopies, halloc, hpkt, hqueue⟩ := State.retirement_copy hb hslots hd hq hk hdone htakes hroom
    refine ⟨hslots', hhead, hcopies, halloc, by rw [hpkt]; rfl, ?_⟩
    rw [hqueue, List.map_append]
    rfl
  · intro row copies served put gone hb hone hnd hpk
    obtain ⟨hret, hrot⟩ := State.retirement_retires hb hone
    have hrow := hret.result hnd hpk
    refine ⟨_, rfl, hret.slots, fun d _ => hret.head, hrot, hrow.retired, hrow.drops, hrow.copies, hrow.queue,
      fun hfit => ?_⟩
    have hroom : s.roomFor copies := fun p c => by
      have := hfit p c
      dsimp only [put] at this
      omega
    exact ⟨hrow.gone hroom, hrow.stays hroom, hrow.alloc hroom⟩
  · obtain ⟨htrunk, hctr⟩ := State.holTimeout_keeps d.isLt hb hs hnone hlim hdue
    obtain ⟨-, -, -, hlate, hdrops, hretired⟩ := State.retireLate_result (s := s.beatOn 8) (tag := tag) (sl := sl)
    obtain ⟨hslots, hdoms, hpkts, halloc⟩ := Trunk.unissue_keeps (t := s.trunk.leave tag d.val s.hw) (tag := tag) (cell := sl.cell)
    obtain ⟨hissue, hlost, hkept⟩ := Trunk.unissue_result (t := s.trunk.leave tag d.val s.hw) (tag := tag) (cell := sl.cell)
    have hhead : ((s.trunk.leave tag d.val s.hw).dom d.val).head = ((s.trunk.dom d.val).head + 1) % 65536 := by
      rw [Trunk.head_leave, if_pos rfl]
    show (s.holTimeout d.val).trunk.slots = _ ∧ mfind (s.holTimeout d.val).trunk.slots tag = none ∧ _
    rw [htrunk]
    dsimp only
    rw [hslots]
    exact ⟨rfl, mfind_mdel_same _ _, hpkts, halloc, hissue, (congrArg (fun m => (mget ({} : Dom) m d.val).head) hdoms).trans hhead,
      hlost, hkept, (hctr _).trans hlate, (hctr _).trans hdrops, (hctr _).trans hretired⟩

end Sys2Proof.Machine
end

section
/-!
PROOFS. The frame of a step (R157 to R162, R507): the state in which an instruction's body runs is as the core cycle found it but for what
the beginning of a cycle and a fetch change, and what the end of the core cycle leaves of the thread that made the step.
-/
namespace Sys2Proof.Machine

variable {s p u v : State} {g th : Nat} {f : FInstr} {mn : Mn}

/-! ### The state in which the body runs -/

/-- The bank maps and the modes of all cores are as before. -/
def State.SameMaps (s u : State) : Prop := ∀ k, (u.core k).bankAct = (s.core k).bankAct ∧ (u.core k).service = (s.core k).service

theorem State.SameMaps.trans (a : s.SameMaps u) (b : u.SameMaps v) : s.SameMaps v :=
  fun k => ⟨(b k).1.trans (a k).1, (b k).2.trans (a k).2⟩

theorem State.sameMaps_of_cores (h : u.cores = s.cores) : s.SameMaps u := by
  intro k
  unfold State.core
  rw [h]
  exact ⟨rfl, rfl⟩

theorem Core.turn_keeps {k : Core} {sel : Sel} : (k.turn sel).bankAct = k.bankAct ∧ (k.turn sel).service = k.service := by
  unfold Core.turn
  split <;> exact ⟨rfl, rfl⟩

theorem State.sameMaps_lookAhead {c : Nat} : s.SameMaps (s.lookAhead g c) := by
  intro k
  unfold State.lookAhead
  dsimp only
  rw [State.core_modCore]
  split
  · next e =>
    subst e
    exact Core.turn_keeps
  · exact ⟨rfl, rfl⟩

theorem Parks.sameMaps (h : Parks g s u) : s.SameMaps u := State.sameMaps_of_cores (by rw [h.rest])

theorem State.sameMaps_openCycle : s.SameMaps (s.openCycle g) := by
  unfold State.openCycle
  split
  · exact State.sameMaps_of_cores rfl
  · dsimp only
    refine State.SameMaps.trans (u := State.setBeat _ _ _) ?_ (List.foldlRecOn _ _ (motive := State.SameMaps _)
      (State.sameMaps_of_cores rfl) fun u hu c _ => hu.trans State.sameMaps_lookAhead)
    refine Parks.sameMaps (g := g) (Parks.trans ?_ (Parks.setBeat g _ _))
    exact (Parks.foldl _ _ (fun v x hx => State.waitCheck_parks v x (State.mem_threadsOf hx).1) s).trans
      ((State.timReach_parks _ _).trans (Parks.setBeat g _ _))

/-- The state in which the body of an instruction runs (R157, R264, R503). -/
def State.prepared (s : State) (th : Nat) (f : FInstr) : State := ((s.openCycle (thG th)).fetchEcc th).correctRegs th f

theorem State.fetchEcc_cores : (s.fetchEcc th).cores = s.cores := by
  unfold State.fetchEcc
  dsimp only
  split
  · rfl
  · split
    · rfl
    · rw [State.reports_eccEvent.rest]
    · rfl

theorem State.correctRegs_cores : (s.correctRegs th f).cores = s.cores := by
  unfold State.correctRegs
  dsimp only
  split <;> rfl

/-- p is the state in which the body of an instruction of thread th runs, but for what a cycle's beginning and a fetch change. -/
structure State.Prepares (s p : State) (th : Nat) : Prop where
  corrects : Corrects th s p
  maps : s.SameMaps p

theorem State.prepares (hr : (s.thread th).wait = .ready) (hf : s.fetch th = .instr f) : s.Prepares (s.prepared th f) th where
  corrects := ((Corrects.openCycle th s).trans (State.fetchEcc_corrects th ((State.fetch_openCycle s th hr).trans hf))).trans
    (State.correctRegs_corrects _ th th f)
  maps := State.sameMaps_openCycle.trans (State.sameMaps_of_cores (State.correctRegs_cores.trans State.fetchEcc_cores))

/-- A thread issues an instruction that its fetch gives. -/
theorem State.issue_fetch {sel : Sel} (h : s.issue th mn = some (f, sel)) : s.fetch th = .instr f ∧ f.mn = mn := by
  unfold State.issue at h
  dsimp only at h
  split at h
  · cases hf : s.fetch th with
    | fault => rw [hf] at h; cases h
    | instr x =>
      rw [hf] at h
      dsimp only at h
      split at h
      · next hm =>
        cases h
        exact ⟨rfl, hm⟩
      · cases h
  · cases h

/-! ### The end of the core cycle -/

/-- A thread's wait, its request to park and its attempt are as before. -/
def Thread.SameWait (t x : Thread) : Prop := x.wait = t.wait ∧ x.parkReq = t.parkReq ∧ x.tried = t.tried

theorem Thread.SameWait.trans {t x y : Thread} (a : t.SameWait x) (b : x.SameWait y) : t.SameWait y :=
  ⟨b.1.trans a.1, b.2.1.trans a.2.1, b.2.2.trans a.2.2⟩

/-- A thread that the end of a core cycle leaves in its wait: it waits on no flag, and no park is due, or an attempt keeps it from its
boundary (R174, R244, R261). -/
def Thread.Settled (t : Thread) : Prop := (∀ f, t.wait ≠ .event f) ∧ (t.parkReq = false ∨ t.tried = true)

theorem Thread.Settled.of_same {t x : Thread} (h : t.Settled) (e : t.SameWait x) : x.Settled := by
  obtain ⟨hw, hp, ht⟩ := e
  unfold Thread.Settled
  rwa [hw, hp, ht]

theorem State.thread_cancelWait_other {x : Nat} (h : th ≠ x) : (s.cancelWait x).thread th = s.thread th := by
  cases hw : (s.thread x).wait <;>
    simp [State.cancelWait, hw, State.setLock, State.setChan, State.thread_modGrove, State.thread_modThread, h]

theorem State.thread_parkCheck {x : Nat} (h : (s.thread th).Settled) : (s.parkCheck x).thread th = s.thread th := by
  unfold State.parkCheck
  split
  · next hdue =>
    unfold State.parkDue at hdue
    by_cases hx : th = x
    · subst hx
      simp only [Bool.and_eq_true] at hdue
      obtain ⟨hreq, hbound⟩ := hdue
      rcases h.2 with hp | ht
      · rw [hp] at hreq
        cases hreq
      · unfold State.atBoundary at hbound
        simp [ht] at hbound
    · rw [State.thread_modThread, if_neg hx, State.thread_cancelWait_other hx]
  · rfl

theorem State.settleFlag_sameWait {n : Nat} {was : Bool} (h : (s.thread th).Settled) :
    (s.thread th).SameWait ((s.settleFlag g n was).thread th) := by
  have hends : ∀ l : List Nat, th ∉ l → ∀ v : State, (l.foldl (fun s th => s.endWait th) v).thread th = v.thread th := by
    intro l hl v
    refine List.foldlRecOn l _ (motive := fun u : State => u.thread th = v.thread th) rfl fun u hu x hx => ?_
    unfold State.endWait
    rw [State.thread_modThread, if_neg (show ¬ th = x from fun e => hl (e ▸ hx)), hu]
  have hnot : th ∉ s.threadsOf g fun t => decide (t.wait = .event n) := fun hm => by
    have := (State.mem_threadsOf hm).2
    exact h.1 n (of_decide_eq_true this)
  unfold State.settleFlag
  split
  · exact ⟨rfl, rfl, rfl⟩
  · dsimp only
    split
    · unfold State.setLine
      rw [State.thread_modThread, hends _ hnot]
      split
      · next e =>
        rw [← e, hends _ hnot]
        exact ⟨rfl, rfl, rfl⟩
      · exact ⟨rfl, rfl, rfl⟩
    · rw [hends _ hnot]
      exact ⟨rfl, rfl, rfl⟩

theorem State.closeCycle_sameWait (h : (s.thread th).Settled) : (s.thread th).SameWait ((s.closeCycle g).thread th) := by
  unfold State.closeCycle
  split
  · refine List.foldlRecOn (upto 64) _ (motive := fun u : State => (s.thread th).SameWait (u.thread th)) ⟨rfl, rfl, rfl⟩ ?_
    exact fun u hu n _ => hu.trans (State.settleFlag_sameWait (h.of_same hu))
  · exact ⟨rfl, rfl, rfl⟩

/-- The end of a core cycle leaves a settled thread in its wait. -/
theorem State.coreTick_wait {c : Nat} {sel : Sel} (h : (s.thread th).Settled) :
    ((s.coreTick g c sel).thread th).wait = (s.thread th).wait := by
  have hturn : (s.coreTurn g c sel).thread th = s.thread th := by
    rw [State.coreTurn_keeps s g c sel]
    rfl
  have hpark : ((upto 16).foldl (fun s t => s.parkCheck (thid g c t)) (s.coreTurn g c sel)).thread th = s.thread th :=
    List.foldlRecOn (upto 16) _ (motive := fun u : State => u.thread th = s.thread th) hturn fun u hu t _ => by
      rw [State.thread_parkCheck (by rw [hu]; exact h), hu]
  unfold State.coreTick
  rw [(State.closeCycle_sameWait (by rw [hpark]; exact h)).1, hpark]

/-- What the end of a core cycle leaves of the thread that made the step, its grove and the links. -/
structure State.Ticks (q u : State) (th : Nat) : Prop where
  thread : (q.thread th).Bystander (u.thread th)
  wait : (q.thread th).Settled → (u.thread th).wait = (q.thread th).wait
  grove : ∀ h, ∃ l c t, u.grove h = { q.grove h with locks := l, chans := c, timers := t }
  links : u.links = q.links

theorem Parks.ticks (hv : CoreParts s v) (hk : Parks g v u) (hw : (s.thread th).Settled → (u.thread th).wait = (s.thread th).wait) :
    s.Ticks u th := by
  have hthread : v.thread th = s.thread th := by rw [hv]; rfl
  have hgrove : ∀ h, v.grove h = s.grove h := fun h => by rw [hv]; rfl
  refine ⟨?_, hw, fun h => ?_, by rw [hk.rest, hv]⟩
  · rw [← hthread]
    exact hk.thread th
  · rw [← hgrove]
    exact hk.grove h

theorem State.coreTick_ticks {sel : Sel} : s.Ticks (s.coreTick (thG th) (thC th) sel) th := by
  have hg : thG th < 8 := by unfold thG; omega
  have hc : thC th < 32 := by unfold thC; omega
  obtain ⟨v, hv, hk⟩ := State.coreTick_parks s hg hc sel
  exact hk.ticks hv State.coreTick_wait

/-- The step of an instruction: its body runs in a prepared state and closes, then the core cycle ends. -/
theorem State.Executes.step (hth : th < 4096) (h : s.Executes th mn f) :
    f.mn = mn ∧ (s.thread th).wait = .ready ∧ ∃ p, s.Prepares p th ∧
      ∀ body, (closeStep th f (body f p)).Ticks (s.runInstr th mn body) th := by
  obtain ⟨hi, hc, hb⟩ := h
  cases he : s.issue th mn with
  | none => rw [he] at hi; cases hi
  | some x =>
    obtain ⟨f', sel⟩ := x
    have hr := State.issue_ready hth (mn := mn) (by rw [he]; rfl)
    obtain ⟨hf, hm⟩ := State.issue_fetch he
    rw [he] at hi
    obtain rfl : f' = f := Option.some.inj hi
    have hfetched : ((s.openCycle (thG th)).fetchEcc th).thread th = s.thread th :=
      ((Corrects.openCycle th s).trans (State.fetchEcc_corrects th ((State.fetch_openCycle s th hr).trans hf))).self hr
    refine ⟨hm, hr, s.prepared th f', State.prepares hr hf, fun body => ?_⟩
    have e : s.runInstr th mn body = (closeStep th f' (body f' (s.prepared th f'))).coreTick (thG th) (thC th) sel := by
      unfold State.runInstr
      rw [he]
      dsimp only
      unfold State.stepOf
      dsimp only
      rw [hfetched, hc, hb]
      rfl
    rw [e]
    exact State.coreTick_ticks

end Sys2Proof.Machine
end

section
/-!
PROOFS. What an instruction's body meets in its prepared state (R163, R264), and what an attempt and the entry of a fault leave (R257, R507).
-/
namespace Sys2Proof.Machine

variable {s p q u : State} {th : Nat} {f : FInstr} {ea w : Word}

/-! ### The prepared state -/

theorem State.Prepares.grove (h : s.Prepares p th) (g : Nat) :
    ∃ i l c t, p.grove g = { s.grove g with iecc := i, locks := l, chans := c, timers := t } := h.corrects.grove g

theorem State.Prepares.cqOcc (h : s.Prepares p th) {g : Nat} : (p.grove g).cqOcc = (s.grove g).cqOcc := by
  obtain ⟨i, l, c, t, e⟩ := h.grove g
  rw [e]
  rfl

theorem State.Prepares.reg (h : s.Prepares p th) (a : Nat) : p.reg a = s.reg a := by
  rw [h.corrects.rest]
  rfl

/-- The checks of an access come to the same in the prepared state. -/
theorem State.Prepares.checkAccess (h : s.Prepares p th) (ht : p.thread th = s.thread th) {write : Bool} :
    p.checkAccess th ea write = s.checkAccess th ea write := by
  have hmem : p.memOk = s.memOk := by rw [h.corrects.rest]; rfl
  have hopen : p.islandOpen = s.islandOpen := by rw [h.corrects.rest]; rfl
  have hbown : p.bown = s.bown := by rw [h.corrects.rest]; rfl
  have hmap : p.bankMap = s.bankMap := by
    funext g c l
    unfold State.bankMap
    rw [(h.maps _).1]
  have hon : p.bankOn = s.bankOn := by unfold State.bankOn; rw [hbown]
  have hport : p.portOf = s.portOf := by unfold State.portOf State.coreOwns; rw [hbown]
  have hspad : p.checkSpad = s.checkSpad := by
    funext g c a
    obtain ⟨i, l, k, t, e⟩ := h.grove g
    unfold State.checkSpad
    rw [hmap, hon, hport, e]
  unfold State.checkAccess
  rw [ht, hmem, hopen, hspad]

theorem State.Prepares.spadReads (h : s.Prepares p th) (ht : p.thread th = s.thread th) (hs : s.SpadReads th ea w) :
    p.SpadReads th ea w := by
  obtain ⟨⟨phys, b, hc, he, hw⟩, hsb⟩ := hs
  obtain ⟨i, l, k, t, e⟩ := h.grove (thG th)
  refine ⟨⟨phys, b, (h.checkAccess ht).trans hc, ?_, ?_⟩, by rwa [ht]⟩ <;> rw [e]
  · exact he
  · exact hw

/-- A load from scratchpad has its word at once (R163). -/
theorem State.loadWord_of_spad (h : s.SpadReads th ea w) : s.loadWord th ea 0xFF Target.isSpad = .word s w := by
  obtain ⟨⟨phys, b, hc, he, rfl⟩, hsb⟩ := h
  have hlap : (s.thread th).overlap ea 0xFF = none := by
    unfold Thread.overlap
    rw [List.find?_eq_none]
    intro e hm
    have := hsb e (List.mem_reverse.1 hm)
    simp [this]
  have hread : s.readSpad (thG th) phys = (s, mget 0 (s.grove (thG th)).scratch phys, false) := by
    unfold State.readSpad
    dsimp only
    rw [he]
    rfl
  unfold State.loadWord
  rw [hc, show (Check.ok (.spad phys b)).only Target.isSpad = .ok (.spad phys b) from rfl]
  dsimp only
  rw [hlap]
  dsimp only
  rw [hread]
  rfl

/-! ### An attempt -/

theorem Thread.Bystander.keeps {t x : Thread} (h : t.Bystander x) : x.prog = t.prog ∧ x.emits = t.emits ∧ x.descs = t.descs ∧ x.g = t.g ∧
    x.doneOp = t.doneOp := by
  obtain ⟨⟨w, o, sw, p, hh, hc, hr, st, li, pc, e⟩, -, -⟩ := h
  rw [e]
  exact ⟨rfl, rfl, rfl, rfl, rfl⟩

theorem State.Ticks.cq {g : Nat} (h : q.Ticks u th) : (u.grove g).cq = (q.grove g).cq := by
  obtain ⟨l, c, t, e⟩ := h.grove g
  rw [e]

/-- An attempt waits, and of the instruction nothing is done (R507). -/
theorem State.attempt_result {n : Wait} (hn : ∀ e, n ≠ .event e) (hp : (closeStep th f (.attempt n p)).Ticks u th) :
    (u.thread th).wait = n ∧ (u.thread th).pc = (p.thread th).pc ∧ (u.thread th).prog = (p.thread th).prog ∧
      (u.thread th).emits = (p.thread th).emits ∧ (u.thread th).descs = (p.thread th).descs ∧ (u.thread th).g = (p.thread th).g ∧
      ∀ g, (u.grove g).cq = (p.grove g).cq := by
  have ht : (closeStep th f (.attempt n p)).thread th = { p.thread th with wait := n, tried := true } :=
    (State.thread_modThread ..).trans (if_pos rfl)
  have hb := hp.thread
  have hw := hp.wait
  rw [ht] at hb hw
  obtain ⟨hprog, hemits, hdescs, hg, -⟩ := hb.keeps
  exact ⟨hw ⟨hn, .inr rfl⟩, hb.keepsPc hn, hprog, hemits, hdescs, hg, fun g => hp.cq⟩

/-! ### The entry of a fault -/

theorem Thread.setGreg_eq (t : Thread) (r : Nat) (v : Word) : ∃ g e, t.setGreg r v = { t with g := g, ecc := e } := by
  unfold Thread.setGreg
  split <;> exact ⟨_, _, rfl⟩

/-- What the pending load changes as it lands (R160). -/
theorem Thread.land_eq (t : Thread) : ∃ l o g e st, t.land = { t with landing := l, outst := o, g := g, ecc := e, status := st } := by
  unfold Thread.land
  cases t.landing with
  | none => exact ⟨t.landing, _, _, _, _, rfl⟩
  | some l =>
    obtain ⟨g, e, h⟩ := Thread.setGreg_eq { t with landing := none, outst := t.outst.map fun o => o.keepLanded l.reg } l.reg l.val
    dsimp only
    rw [h]
    cases l.p <;> exact ⟨_, _, _, _, _, rfl⟩

theorem Thread.bit_land_status (t : Thread) (i : Nat) :
    bit t.land.status i = if i = 4 then t.afterP (bit t.status 4) else bit t.status i := by
  rw [Thread.land_status]
  unfold Thread.afterP
  cases t.landing with
  | none => dsimp only; split <;> simp_all
  | some l =>
    obtain ⟨r, v, p⟩ := l
    cases p with
    | none => dsimp only [Option.getD]; split <;> simp_all
    | some p => exact bit_setBit (by decide)

theorem Thread.stepEnd_eq (t : Thread) : ∃ st h c, t.stepEnd = { t with step := st, halted := h, hcause := c } := by
  unfold Thread.stepEnd
  split <;> exact ⟨_, _, _, rfl⟩

theorem State.reports_excRecord {cause : Nat} {hold : Bool} {pc : BitVec 24} : s.Reports (s.excRecord th cause hold pc) := by
  unfold State.excRecord
  split
  · exact .refl s
  · exact State.reports_event

/-- The status of a thread that has taken an exception (R257). -/
theorem bit_entered {st : BitVec 32} {i : Nat} : bit (setFld (setBit (setBit st 31 true) 30 false) 16 6 0) i =
    if 16 ≤ i ∧ i < 22 then false else if i = 30 then false else if i = 31 then true else bit st i := by
  rw [bit_setFld (by decide), bit_setBit (by decide), bit_setBit (by decide), Nat.zero_testBit]

/-- A fault's entry is one of R257, and leaves the thread ready (R258). -/
theorem State.enter_fault {cause : Nat} {pc : BitVec 24} {bad : Option (BitVec 40)} (h : (s.thread th).rsp < 16) :
    let u := s.enter th cause pc bad none .fault
    EntryMade s u th (BitVec.ofNat 6 cause) pc ∧ (u.thread th).badaddr = bad.getD (s.thread th).badaddr ∧
      (u.thread th).descs = (s.thread th).descs ∧ (u.thread th).wait = .ready ∧ ∀ g, u.grove g = s.grove g := by
  have hgreg := Thread.land_greg (s.thread th)
  have hbit := Thread.bit_land_status (s.thread th)
  obtain ⟨l, o, g, e, st, hl⟩ := Thread.land_eq (s.thread th)
  unfold State.enter
  dsimp only
  rw [hl, if_neg (show ¬ (s.thread th).rsp ≥ 16 by omega)]
  rw [hl] at hgreg hbit
  have hrec := fun x : Thread => State.reports_excRecord (s := s.setThread th x) (th := th) (cause := cause) (hold := false) (pc := pc)
  unfold EntryMade
  dsimp only
  rw [(hrec _).thread, State.thread_setThread, if_pos rfl, hl]
  generalize hx : Thread.stepEnd _ = x
  obtain ⟨a, b, c, hs⟩ := Thread.stepEnd_eq _
  rw [hs] at hx
  subst hx
  refine ⟨⟨rfl, rfl, rfl, ?_, ?_, ?_, ?_, ?_, ?_, ?_, ?_, hgreg, rfl⟩, rfl, rfl, rfl, fun g => (hrec _).grove⟩
  · exact (mget_mput_same _ _ _ _).trans (by simp [stackEntry, b1, wordOf])
  · intro i hi
    exact mget_mput_other _ _ _ hi
  · exact bit_entered
  · exact bit_entered
  · exact fld_setFld (by decide)
  · intro i h1 h2
    refine bit_entered.trans ?_
    rw [if_neg (by omega), if_neg (by omega), if_neg (by omega)]
    exact (hbit i).trans (if_neg (by omega))
  · intro i h1
    refine bit_entered.trans ?_
    rw [if_neg (by omega), if_neg (by omega), if_neg (by omega)]
    exact (hbit i).trans (if_neg (by omega))
  · exact bit_entered.trans (hbit 4)

/-- The entry that a thread makes does not depend on the list words it has taken, nor on a passed breakpoint. -/
theorem EntryMade.of_same {em : List Word} {b : Bool} {c : BitVec 6} {pc : BitVec 24}
    (ht : p.thread th = { s.thread th with emits := em, bskip := b }) (h : EntryMade p u th c pc) : EntryMade s u th c pc := by
  unfold EntryMade at h ⊢
  dsimp only at h ⊢
  rw [ht, Thread.land_status] at h
  rw [Thread.land_status]
  exact h

/-- The end of the core cycle leaves the entry (R258). -/
theorem EntryMade.ticks {c : BitVec 6} {pc : BitVec 24} (h : EntryMade s q th c pc) (hw : (q.thread th).wait = .ready) (hk : q.Ticks u th) :
    EntryMade s u th c pc := by
  have hpc := hk.thread.keepsPc fun e => by rw [hw]; exact nofun
  obtain ⟨⟨w, o, sw, r, hh, hc, hr, st, li, pc', e⟩, -, -⟩ := hk.thread
  unfold EntryMade at h ⊢
  dsimp only at h ⊢
  rw [hpc]
  rw [e]
  exact h

/-- A fault whose body has put PROG at 0 makes its entry in the same step (R240, R257, R258). -/
theorem State.fault_result {cause : Nat} {bad : BitVec 40} {em : List Word} (hc : cause ≠ causeTRAP) (hr : (s.thread th).rsp < 16)
    (hq : q.thread th = { s.thread th with emits := em }) (hk : (closeStep th f (.fault cause (some bad) q)).Ticks u th) :
    EntryMade s u th (BitVec.ofNat 6 cause) (s.thread th).pc ∧ (u.thread th).badaddr = bad ∧
      (u.thread th).descs = (s.thread th).descs ∧ ∀ g, (u.grove g).cq = (q.grove g).cq := by
  unfold closeStep at hk
  dsimp only at hk
  rw [if_neg hc, if_neg hc, hq] at hk
  have ht : (q.modThread th fun t => { t with bskip := false }).thread th = { s.thread th with emits := em, bskip := false } := by
    rw [State.thread_modThread, if_pos rfl, hq]
  have hmade := State.enter_fault (s := q.modThread th fun t => { t with bskip := false }) (th := th) (cause := cause)
    (pc := (s.thread th).pc) (bad := some bad) (by rw [ht]; exact hr)
  dsimp only at hmade
  generalize State.enter _ th cause (s.thread th).pc (some bad) none .fault = v at hk hmade
  obtain ⟨hentry, hbad, hdescs, hwait, hgrove⟩ := hmade
  obtain ⟨-, -, hd, -⟩ := hk.thread.keeps
  refine ⟨(hentry.of_same ht).ticks hwait hk, ?_, by rw [hd, hdescs, ht], fun g => by rw [hk.cq, hgrove]; rfl⟩
  obtain ⟨⟨w, o, sw, r, hh, hc, hr, st, li, pc', e⟩, -, -⟩ := hk.thread
  rw [e]
  exact hbad

end Sys2Proof.Machine
end

section
/-!
PROOFS. DONE (R55, R56, R238 to R241): where each of its steps begins, what it comes to, and the theorem that settles O16.
-/
namespace Sys2Proof.Machine

variable {s p q u : State} {th : Nat} {mn : Mn} {f : FInstr} {d : Desc} {ds : List Desc} {op w : Word} {words : List Word}

/-! ### The body -/

/-- A step of DONE takes a list word with operand op and these words behind it: the first one, with the store buffer empty, or a later
one, as PROG says (R240). -/
def Thread.DoneAt (t : Thread) (f : FInstr) (op : Word) (words : List Word) : Prop :=
  t.prog = 0 ∧ t.sb = [] ∧ op = t.greg f.s ∧ words = [] ∨
    t.prog ≠ 0 ∧ t.emits.length = t.prog ∧ op = t.doneOp ∧ words = t.emits

/-- The address of the list word that a step of DONE reads (R240). -/
def doneAddr (op : Word) (words : List Word) : Word := wordOf (fld op 0 17 + words.length)

theorem bodyDone_drain (hd : (p.thread th).descs = d :: ds) (hprog : (p.thread th).prog = 0) (hsb : (p.thread th).sb ≠ []) :
    bodyDone th f p = .attempt .drain p := by
  unfold bodyDone
  simp [hd, hprog, hsb]

/-- What a step of DONE begins with. -/
theorem Thread.DoneAt.start {t : Thread} (h : t.DoneAt f op words) :
    ((decide (t.prog = 0) || decide (t.emits.length ≠ t.prog)) && decide (t.sb ≠ [])) = false ∧
      (if (decide (t.prog = 0) || decide (t.emits.length ≠ t.prog)) = true then t.greg f.s else t.doneOp) = op ∧
      (if (decide (t.prog = 0) || decide (t.emits.length ≠ t.prog)) = true then [] else t.emits) = words := by
  rcases h with ⟨hp, hs, rfl, rfl⟩ | ⟨hp, he, rfl, rfl⟩
  · simp [hp, hs]
  · simp [hp, he]

theorem bodyDone_rsvd (hd : (p.thread th).descs = d :: ds) (h : (p.thread th).DoneAt f op words) (hn : 17 ≤ fld op 20 5) :
    bodyDone th f p = .fault causeRSVD (badOf op) (p.doneReset th) := by
  obtain ⟨hdrain, hop, -⟩ := h.start
  unfold bodyDone
  dsimp only
  rw [hd]
  dsimp only
  rw [if_neg (by rw [hdrain]; exact Bool.false_ne_true), hop, if_pos hn]

theorem bodyDone_none (hd : (p.thread th).descs = d :: ds) (h : (p.thread th).DoneAt f op words) (hn : fld op 20 5 = 0) :
    bodyDone th f p = p.doneFinal th d [] f.size := by
  obtain ⟨hdrain, hop, -⟩ := h.start
  unfold bodyDone
  dsimp only
  rw [hd]
  dsimp only
  rw [if_neg (by rw [hdrain]; exact Bool.false_ne_true), hop, hn, if_neg (by decide), if_pos rfl]

/-- The thread with list words that DONE has taken (R240). -/
def Thread.takes (t : Thread) (op : Word) (words : List Word) : Thread := { t.setProg words.length with doneOp := op, emits := words }

/-- The thread past a DONE that parks it (R241). -/
def Thread.parkDone (t : Thread) (size : Nat) : Thread := ({ (t.setProg 0).adv size with wait := .parkedDone } : Thread).stopHalt

/-- A step of DONE that takes word w (R240). -/
theorem bodyDone_word (hd : (p.thread th).descs = d :: ds) (h : (p.thread th).DoneAt f op words) (h0 : fld op 20 5 ≠ 0)
    (hn : fld op 20 5 ≤ 16) (hw : p.SpadReads th (doneAddr op words) w) : bodyDone th f p =
      if ((words ++ [w]).length % 2 = 1 && !e0Ok w) = true then .fault causeRSVD (badOf (doneAddr op words)) (p.doneReset th)
      else if (words ++ [w]).length = 2 * fld op 20 5 then p.doneFinal th d (words ++ [w]) f.size
      else .done (p.modThread th fun t => t.takes op (words ++ [w])) := by
  obtain ⟨hdrain, hop, hwords⟩ := h.start
  unfold bodyDone
  dsimp only
  rw [hd]
  dsimp only
  rw [if_neg (by rw [hdrain]; exact Bool.false_ne_true), hop, hwords, if_neg (by omega), if_neg h0,
    show wordOf (fld op 0 17 + words.length) = doneAddr op words from rfl, State.loadWord_of_spad hw]
  rfl

section
variable (hd : (p.thread th).descs = d :: ds) (h : (p.thread th).DoneAt f op words) (hn : fld op 20 5 ≤ 16)
  (hw : p.SpadReads th (doneAddr op words) w)
include hd h hn hw

/-- A first word of an entry with a reserved field is refused. -/
theorem bodyDone_refused (h0 : fld op 20 5 ≠ 0) (he : words.length % 2 = 0) (hok : e0Ok w = false) :
    bodyDone th f p = .fault causeRSVD (badOf (doneAddr op words)) (p.doneReset th) := by
  rw [bodyDone_word hd h h0 hn hw, List.length_append, List.length_singleton, hok, if_pos]
  simp
  omega

theorem bodyDone_last (hl : words.length + 1 = 2 * fld op 20 5) : bodyDone th f p = p.doneFinal th d (words ++ [w]) f.size := by
  rw [bodyDone_word hd h (by omega) hn hw, List.length_append, List.length_singleton, if_neg, if_pos hl]
  simp
  omega

theorem bodyDone_more (hl : words.length + 1 < 2 * fld op 20 5) (hok : words.length % 2 = 0 → e0Ok w = true) :
    bodyDone th f p = .done (p.modThread th fun t => t.takes op (words ++ [w])) := by
  rw [bodyDone_word hd h (by omega) hn hw, List.length_append, List.length_singleton, if_neg, if_neg (by omega)]
  simp only [Bool.and_eq_true, decide_eq_true_eq, Bool.not_eq_true', not_and, Bool.not_eq_false]
  exact fun hodd => hok (by omega)

end

/-! ### The completion is placed -/

theorem State.doneFinal_room {size : Nat} (h : (s.grove (thG th)).cqOcc + cqNeed (words.length / 2) ≤ 64) :
    s.doneFinal th d words size = .done (s.doneLast th d (emitsOf words) size) := by
  unfold State.doneFinal Grove.cqRoom
  simp [h]

theorem State.doneFinal_full {size : Nat} (h : 64 < (s.grove (thG th)).cqOcc + cqNeed (words.length / 2)) :
    s.doneFinal th d words size = .attempt (.cqfull (cqNeed (words.length / 2))) s := by
  unfold State.doneFinal Grove.cqRoom
  simp [Nat.not_le.2 h]

/-- In u the completion of descriptor d with these copies stands at the end of the queue of grove g in s, and the entry of the descriptor
is free (R51, R55). -/
def State.Places (s u : State) (g : Nat) (d : Desc) (l : List Emit) : Prop :=
  (u.grove g).cq = (s.grove g).cq ++ [{ comp := d.completion l, left := cqNeed l.length }] ∧ (u.grove g).free = (s.grove g).free + 1 ∧
    (u.link (136 + g)).inFlight = (s.link (136 + g)).inFlight ++ [.credit]

/-- With its last step DONE gives the thread its next packet, or none, and frees the entry. -/
theorem State.doneLast_eq {l : List Emit} {size : Nat} :
    ∃ v, (s.complete (thG th) (d.completion l)).Gives v ∧ s.doneLast th d l size = v.freeEntry (thG th) := by
  unfold State.doneLast
  dsimp only
  split
  · exact ⟨_, State.gives_setThread.trans State.gives_setThread, rfl⟩
  · exact ⟨_, State.gives_setThread.trans State.gives_packetStart, rfl⟩

theorem State.doneLast_places {l : List Emit} {size : Nat} : s.Places (s.doneLast th d l size) (thG th) d l := by
  have hg : thG th < 8 := by unfold thG; omega
  obtain ⟨v, hgives, e⟩ := State.doneLast_eq (s := s) (th := th) (d := d) (l := l) (size := size)
  obtain ⟨q, i, j, hgrove⟩ := hgives.grove (thG th)
  obtain ⟨q', i', j', hfree, hlink⟩ := State.freeEntry_result (s := v) hg
  unfold State.Places
  rw [e, hlink, hfree, hgives.link _ (by omega), hgrove, State.grove_complete]
  exact ⟨rfl, rfl, rfl⟩

theorem State.link_of_links {k : Nat} (h : u.links = s.links) : u.link k = s.link k := by
  unfold State.link
  rw [h]

/-- What the last step has placed stays as the step and the core cycle end. -/
theorem State.Places.ticks {g : Nat} {l : List Emit} (h : p.Places q g d l) (hp : s.Prepares p th)
    (hk : (closeStep th f (.done q)).Ticks u th) : s.Places u g d l := by
  have hlink : ∀ k, u.link k = q.link k := fun k => State.link_of_links hk.links
  have hlink' : ∀ k, p.link k = s.link k := fun k => State.link_of_links (by rw [hp.corrects.rest])
  obtain ⟨a, b, c, e⟩ := hk.grove g
  obtain ⟨i, x, y, z, e'⟩ := hp.grove g
  unfold State.Places at h ⊢
  rw [hlink', e'] at h
  rw [hlink, e]
  exact h

/-! ### A step that is not the last -/

/-- An earlier step keeps its word and counts PROG on (R240). -/
theorem State.takes_result (h0 : 0 < words.length) (hn : words.length < 64)
    (hk : (closeStep th f (.done (p.modThread th fun t => t.takes op words))).Ticks u th)
    (hw : (p.thread th).wait = .ready) (hm : f.mn = .done) :
    (u.thread th).prog = words.length ∧ (u.thread th).emits = words ∧ (u.thread th).doneOp = op ∧ (u.thread th).pc = (p.thread th).pc ∧
      (u.thread th).descs = (p.thread th).descs ∧ ∀ g, (u.grove g).cq = (p.grove g).cq := by
  have hprog : ((p.thread th).takes op words).prog = words.length := (fld_setFld (by decide)).trans (Nat.mod_eq_of_lt hn)
  have hwithin : ({ (p.thread th).takes op words with tried := false, bskip := false } : Thread).within = true := by
    unfold Thread.within
    rw [show ({ (p.thread th).takes op words with tried := false, bskip := false } : Thread).prog = words.length from hprog]
    simp [Nat.pos_iff_ne_zero.1 h0]
  have ht : (closeStep th f (.done (p.modThread th fun t => t.takes op words))).thread th =
      { (p.thread th).takes op words with tried := false, bskip := false } := by
    unfold closeStep
    dsimp only
    rw [State.thread_modThread, if_pos rfl, State.thread_modThread, if_pos rfl, hm]
    exact if_pos hwithin
  have hb := hk.thread
  rw [ht] at hb
  obtain ⟨hp, he, hds, -, ho⟩ := hb.keeps
  refine ⟨hp.trans hprog, he, ho, hb.keepsPc fun e => ?_, hds, fun g => hk.cq⟩
  exact fun h => by cases hw.symm.trans h

/-! ### DONE without a descriptor -/

theorem bodyDone_park (hd : (p.thread th).descs = []) (hsb : (p.thread th).sb = []) (hs : (p.hasShare th && p.thService th) = false) :
    bodyDone th f p =
      .done (p.modThread th fun t => t.parkDone f.size) := by
  unfold bodyDone
  dsimp only
  rw [hd]
  dsimp only
  rw [if_neg (by simp [hsb]), if_neg (by rw [hs]; exact Bool.false_ne_true)]
  rfl

/-- PROG that reads 0 is not changed by writing 0 to it. -/
theorem Thread.setProg_zero {t : Thread} (h : t.prog = 0) : t.setProg 0 = t := by
  have hs : setFld t.status 16 6 0 = t.status := by
    refine BitVec.eq_of_getLsbD_eq fun j _ => ?_
    refine (bit_setFld (by decide)).trans ?_
    split
    · next hj =>
      have hbit : (fld t.status 16 6).testBit (j - 16) = t.status.getLsbD j := by
        unfold fld BitVec.getLsbD
        rw [Nat.testBit_mod_two_pow, Nat.testBit_shiftRight, decide_eq_true (by omega), Bool.true_and, Nat.add_sub_cancel' hj.1]
      rw [← hbit, show fld t.status 16 6 = 0 from h]
    · rfl
  unfold Thread.setProg
  rw [hs]

theorem Thread.stopHalt_eq (t : Thread) :
    ∃ h c r st, t.stopHalt = { t with halted := h, hcause := c, haltReq := r, step := st } := by
  unfold Thread.stopHalt
  split <;> exact ⟨_, _, _, _, rfl⟩

/-- The end of a step leaves the thread's wait and its request to park. -/
theorem Thread.endStep_wait (t : Thread) (h : (mn.multi && t.within) = false) :
    (t.endStep mn).wait = t.wait ∧ (t.endStep mn).parkReq = t.parkReq := by
  rw [Thread.endStep_last t mn h]
  obtain ⟨st, hh, c, e⟩ := Thread.stepEnd_eq ({ t with tried := false, bskip := decide (mn = .retx) } : Thread).land.promote
  obtain ⟨l, o, g, ec, s, e'⟩ := Thread.land_eq { t with tried := false, bskip := decide (mn = .retx) }
  rw [e, e']
  unfold Thread.promote
  split <;> exact ⟨rfl, rfl⟩

/-- An instruction that changes its thread's wait alone moves past itself, and keeps registers and flags. -/
theorem State.move_result {t : Thread} {w : Wait} (hx : (t.endStep mn).Bystander (u.thread th))
    (ht : ∃ h c r st, t = { (s.thread th).adv f.size with wait := w, halted := h, hcause := c, haltReq := r, step := st })
    (hw : ∀ e, w ≠ .event e) (hlast : (mn.multi && t.within) = false) : MoveResult s u th f 0 0 := by
  have hgreg := Thread.endStep_greg t mn hlast
  have hstatus := hx.status.trans (Thread.endStep_status t mn hlast)
  have hpc := (hx.keepsPc fun e => by
    rw [(Thread.endStep_wait t hlast).1]
    obtain ⟨h, c, r, st, e'⟩ := ht
    rw [e']
    exact hw e).trans (Thread.endStep_pc t mn)
  have hbit := fun i => (congrArg (bit · i) hstatus).trans (Thread.bit_land_status t i)
  obtain ⟨h, c, r, st, e⟩ := ht
  subst e
  refine ⟨⟨fun r hr => ?_, rfl, hpc⟩, (hbit 0).trans rfl, (hbit 1).trans rfl, (hbit 2).trans rfl, (hbit 3).trans rfl, (hbit 4).trans rfl,
    fun i hi => (hbit i).trans (if_neg (by omega))⟩
  rw [if_neg hr, hx.greg]
  exact hgreg r hr

theorem State.donePark_result (hp : (p.thread th).prog = 0) (hpark : (p.thread th).parkReq = false) (hstep : (p.thread th).noStep)
    (hk : (closeStep th f (.done (p.modThread th fun t => t.parkDone f.size))).Ticks u th) (hm : f.mn = .done) :
    (u.thread th).wait = .parkedDone ∧ MoveResult p u th f 0 0 := by
  obtain ⟨hlatch, hpend, houtst⟩ := hstep
  obtain ⟨h, c, r, st, e⟩ := Thread.stopHalt_eq { (p.thread th).adv f.size with wait := .parkedDone }
  have ht : (closeStep th f (.done (p.modThread th fun t => t.parkDone f.size))).thread th =
      Thread.endStep { (p.thread th).adv f.size with wait := .parkedDone, halted := h, hcause := c, haltReq := r, step := st } .done := by
    unfold closeStep
    dsimp only
    rw [State.thread_modThread, if_pos rfl, State.thread_modThread, if_pos rfl, hm, Thread.parkDone, Thread.setProg_zero hp, e]
  have hlast : (Mn.done.multi && ({ (p.thread th).adv f.size with
      wait := .parkedDone, halted := h, hcause := c, haltReq := r, step := st } : Thread).within) = false := by
    have h0 : fld (p.thread th).status 16 6 = 0 := hp
    simp [Thread.within, Thread.adv, Thread.prog, h0, hlatch, hpend, houtst]
  have hb := hk.thread
  have hw := hk.wait
  rw [ht] at hb hw
  obtain ⟨hwait, hreq⟩ := Thread.endStep_wait _ hlast
  refine ⟨(hw ⟨fun e => by rw [hwait]; exact nofun, .inl (hreq.trans hpark)⟩).trans hwait, ?_⟩
  exact State.move_result hb ⟨h, c, r, st, rfl⟩ (fun e => nofun) hlast

/-! ### The steps in the model -/

theorem State.Prepares.cq (h : s.Prepares p th) (g : Nat) : (p.grove g).cq = (s.grove g).cq := by
  obtain ⟨i, l, c, t, e⟩ := h.grove g
  rw [e]

/-- A refused operand or list word raises RSVD, and of the list nothing is kept (R240). -/
theorem State.doneReset_result {bad : Word} (hp : s.Prepares p th) (ht : p.thread th = s.thread th) (hprog : (s.thread th).prog = 0)
    (hr : (s.thread th).rsp < 16) (hk : (closeStep th f (.fault causeRSVD (badOf bad) (p.doneReset th))).Ticks u th) :
    EntryMade s u th 0x02 (s.thread th).pc ∧ (u.thread th).badaddr = bad.setWidth 40 ∧ (u.thread th).descs = (s.thread th).descs ∧
      ∀ g, (u.grove g).cq = (s.grove g).cq := by
  have hq : (p.doneReset th).thread th = { s.thread th with emits := [] } := by
    unfold State.doneReset
    rw [State.thread_modThread, if_pos rfl, ht, Thread.setProg_zero hprog]
  obtain ⟨hentry, hbad, hdescs, hcq⟩ := State.fault_result (by decide) hr hq hk
  exact ⟨hentry, hbad, hdescs, fun g => (hcq g).trans (hp.cq g)⟩

/-- In u thread th waits in an attempt of DONE, of which nothing is done (R507). -/
def State.TriesDone (s u : State) (th : Nat) (w : Wait) : Prop :=
  (u.thread th).wait = w ∧ (u.thread th).pc = (s.thread th).pc ∧ (u.thread th).prog = (s.thread th).prog ∧
    (u.thread th).emits = (s.thread th).emits ∧ (u.thread th).descs = (s.thread th).descs ∧ (u.thread th).g = (s.thread th).g ∧
    (u.grove (thG th)).cq = (s.grove (thG th)).cq

section
variable (hp : s.Prepares p th) (ht : p.thread th = s.thread th) (hk : (closeStep th f (bodyDone th f p)).Ticks u th)
include hp ht hk

theorem doneStep_tries {w : Wait} (hw : ∀ e, w ≠ .event e) (h : bodyDone th f p = .attempt w p) : s.TriesDone u th w := by
  rw [h] at hk
  obtain ⟨hwait, hpc, hprog, hemits, hdescs, hg, hcq⟩ := State.attempt_result hw hk
  rw [ht] at hpc hprog hemits hdescs hg
  exact ⟨hwait, hpc, hprog, hemits, hdescs, hg, (hcq _).trans (hp.cq _)⟩

/-- The step that has the whole list places the completion, or waits for room (R56, R239). -/
theorem doneStep_final (h : bodyDone th f p = p.doneFinal th d words f.size) :
    ((s.grove (thG th)).cqOcc + cqNeed (words.length / 2) ≤ 64 → s.Places u (thG th) d (emitsOf words)) ∧
      (64 < (s.grove (thG th)).cqOcc + cqNeed (words.length / 2) → s.TriesDone u th (.cqfull (cqNeed (words.length / 2)))) := by
  rw [← hp.cqOcc]
  refine ⟨fun hroom => ?_, fun hfull => doneStep_tries hp ht hk (fun _ => nofun) (h.trans (State.doneFinal_full hfull))⟩
  rw [h, State.doneFinal_room hroom] at hk
  exact State.doneLast_places.ticks hp hk

/-- The last list word of a DONE of n copies (R240). -/
theorem doneStep_last {n : Nat} (hd : (p.thread th).descs = d :: ds) (h0 : (s.thread th).prog ≠ 0)
    (hlen : (s.thread th).emits.length = (s.thread th).prog) (hn : n = fld (s.thread th).doneOp 20 5) (h16 : n ≤ 16)
    (hw : s.SpadReads th (doneAddr (s.thread th).doneOp (s.thread th).emits) w) (hlast : (s.thread th).prog + 1 = 2 * n) :
    ((s.grove (thG th)).cqOcc + cqNeed n ≤ 64 → s.Places u (thG th) d (emitsOf ((s.thread th).emits ++ [w]))) ∧
      (64 < (s.grove (thG th)).cqOcc + cqNeed n → s.TriesDone u th (.cqfull (cqNeed n))) := by
  have hat : (p.thread th).DoneAt f (s.thread th).doneOp (s.thread th).emits := .inr (by rw [ht]; exact ⟨h0, hlen, rfl, rfl⟩)
  have hhalf : ((s.thread th).emits ++ [w]).length / 2 = n := by
    rw [List.length_append, hlen, List.length_singleton]
    omega
  rw [← hhalf]
  exact doneStep_final hp ht hk (bodyDone_last hd hat (hn ▸ h16) (hp.spadReads ht hw) (by rw [hlen, hlast, hn]))

/-- A step that takes a list word and is not the last (R240). -/
theorem doneStep_takes (hm : f.mn = .done) (hr : (s.thread th).wait = .ready) (hl : words.length < 32)
    (h : bodyDone th f p = .done (p.modThread th fun t => t.takes op (words ++ [w]))) :
    (u.thread th).prog = words.length + 1 ∧ (u.thread th).emits = words ++ [w] ∧ (u.thread th).doneOp = op ∧
      (u.thread th).pc = (s.thread th).pc ∧ (u.thread th).descs = (s.thread th).descs ∧ ∀ g, (u.grove g).cq = (s.grove g).cq := by
  rw [h] at hk
  have hlen : (words ++ [w]).length = words.length + 1 := List.length_append
  obtain ⟨hprog, hemits, hop, hpc, hdescs, hcq⟩ := State.takes_result (by omega) (by omega) hk (by rw [ht]; exact hr) hm
  rw [ht] at hpc hdescs
  exact ⟨hprog.trans hlen, hemits, hop, hpc, hdescs, fun g => (hcq g).trans (hp.cq g)⟩

end

theorem exec_done {th : Thid} (h : (s.thread th.toNat).descs ≠ []) :
    exec (.done th) s = .next (s.runInstr th.toNat .done (bodyDone th.toNat)) :=
  congrArg Host.Outcome.next (if_pos (by simp [h]))

theorem exec_donePark {th : Thid} (hd : (s.thread th.toNat).descs = []) (hs : (s.hasShare th.toNat && s.thService th.toNat) = false) :
    exec (.donePark th) s = .next (s.runInstr th.toNat .done (bodyDone th.toNat)) :=
  congrArg Host.Outcome.next (if_neg (by simp [hd, hs]))

theorem MoveResult.of_thread {e : Nat} {v : Word} (h : MoveResult p u th f e v) (ht : p.thread th = s.thread th) :
    MoveResult s u th f e v := by
  unfold MoveResult StepWrites FlagsKept FlagsBecome State.pcPast at h ⊢
  rwa [ht] at h

/-- Settles O16: the steps with a descriptor, then the one that parks. -/
theorem doneResults : Obligations.DoneResults := by
  intro th s f t g op placed tries first list refuses
  have hfld : ∀ x : Word, (x.extractLsb' 20 5).toNat = fld x 20 5 := fun x => BitVec.extractLsb'_toNat ..
  refine ⟨fun d rest hx hd => ?_, fun hx hd hsb hprog hstep hpark hshare => ?_⟩
  · obtain ⟨hm, hr, p, hp, hbody⟩ := hx.step th.isLt
    have ht : p.thread th.toNat = t := hp.corrects.self hr
    have hk := hbody (bodyDone th.toNat)
    have hdone : ∀ Q : State → Prop, Q (s.runInstr th.toNat .done (bodyDone th.toNat)) → Completes (.done th) s Q := fun Q h =>
      ⟨_, exec_done (by rw [hd]; exact List.cons_ne_nil _ _), h⟩
    generalize s.runInstr th.toNat .done (bodyDone th.toNat) = u at hk hdone
    rw [← ht] at hd
    have hstart : t.prog = 0 → t.sb = [] → (p.thread th.toNat).DoneAt f op [] := fun h0 hsb => .inl (by rw [ht]; exact ⟨h0, hsb, rfl, rfl⟩)
    have hrefuse : ∀ bad, t.prog = 0 → t.rsp < 16 → bodyDone th.toNat f p = .fault causeRSVD (badOf bad) (p.doneReset th.toNat) →
        refuses u bad := fun bad h0 hrsp e => by
      obtain ⟨hentry, hbad, hdescs, hcq⟩ := State.doneReset_result hp ht h0 hrsp (e ▸ hk)
      exact ⟨hentry, hbad, hdescs, hcq _⟩
    refine ⟨fun h0 hsb => hdone _ ?_, fun h0 hsb hn => ?_, fun w h0 hsb hn h16 hw => ?_, fun h0 hsb hn hrsp => hdone _ ?_,
      fun w n h0 hlen hn h16 hle hw => ?_⟩
    · exact doneStep_tries hp ht hk (fun _ => nofun) (bodyDone_drain hd (by rw [ht]; exact h0) (by rw [ht]; exact hsb))
    · obtain ⟨hroom, hfull⟩ := doneStep_final hp ht hk (bodyDone_none hd (hstart h0 hsb) ((hfld op).symm.trans hn))
      exact ⟨fun h => hdone _ (hroom h), fun h => hdone _ (hfull (Nat.lt_succ_of_le h))⟩
    · have hne : fld op 20 5 ≠ 0 := by rwa [← hfld]
      have h16 : fld op 20 5 ≤ 16 := by rwa [← hfld]
      have hw := hp.spadReads ht hw
      refine ⟨fun hok => hdone _ ?_, fun hbad hrsp => hdone _ (hrefuse list h0 hrsp ?_)⟩
      · have e := bodyDone_more hd (hstart h0 hsb) h16 hw (show 0 + 1 < 2 * fld op 20 5 by omega) fun _ => hok
        obtain ⟨hprog, hemits, hop, hpc, hdescs, hcq⟩ := doneStep_takes hp ht hk hm hr (by decide) e
        exact ⟨hprog, hemits, hop, hpc, hdescs, hcq _⟩
      · exact bodyDone_refused hd (hstart h0 hsb) h16 hw hne rfl hbad
    · exact hrefuse op h0 hrsp (bodyDone_rsvd hd (hstart h0 hsb) (by rwa [← hfld]))
    · rw [hfld] at hn
      have hw : s.SpadReads th.toNat (doneAddr t.doneOp t.emits) w := by rw [doneAddr, hlen]; exact hw
      refine ⟨fun hlast => ?_, fun hlt hok => hdone _ ?_⟩
      · obtain ⟨hroom, hfull⟩ := doneStep_last hp ht hk hd h0 hlen hn h16 hw hlast
        exact ⟨fun h => hdone _ (hroom h), fun h => hdone _ (hfull h)⟩
      · have e := bodyDone_more (f := f) hd (.inr (by rw [ht]; exact ⟨h0, hlen, rfl, rfl⟩)) (hn ▸ h16) (hp.spadReads ht hw)
          (by rw [hlen, ← hn]; exact hlt) (by rw [hlen]; exact hok)
        obtain ⟨hprog, hemits, -, hpc, -, hcq⟩ := doneStep_takes hp ht hk hm hr (by omega) e
        exact ⟨hprog.trans (by rw [hlen]), hemits, hpc, hcq _⟩
  · obtain ⟨hm, hr, p, hp, hbody⟩ := hx.step th.isLt
    have ht : p.thread th.toNat = t := hp.corrects.self hr
    have hk := hbody (bodyDone th.toNat)
    have hshare' : (p.hasShare th.toNat && p.thService th.toNat) = false := by
      rw [← hshare]
      unfold State.hasShare State.shareMode State.thService
      rw [hp.reg, (hp.maps _).2]
    rw [bodyDone_park (by rw [ht]; exact hd) (by rw [ht]; exact hsb) hshare'] at hk
    refine ⟨_, exec_donePark hd hshare, ?_⟩
    obtain ⟨hwait, hmove⟩ := State.donePark_result (by rw [ht]; exact hprog) (by rw [ht]; exact hpark) (by rw [ht]; exact hstep) hk hm
    exact ⟨hwait, hmove.of_thread ht⟩

end Sys2Proof.Machine
end
